-- ==== Sys2Proof/Word.lean ====
section
/-! DEFINITION. Word.lean: the machine's word types (02 R31, 05 R80). Nothing here depends on an encoding. -/

namespace Sys2Proof

/-- A 32-bit instruction word, vector copy, scalar register or accumulator column (R31, R80). -/
abbrev Word := BitVec 32

/-- A byte of any memory. -/
abbrev Byte := BitVec 8

/-- A 64-bit value: a register pair, a virtual address, a counter (R19, R61). -/
abbrev DWord := BitVec 64

/-- One bit per lane of a bunch (R57). -/
abbrev Lanes := BitVec 32

end Sys2Proof
end

