-- ==== Sys2Proof/Machine/Flags.lean ====
section
/-! DEFINITION. Machine/Flags.lean: the five floating-point exceptions and the sticky flags of GS (R109, R124), and the
fields of FMODE (R125). -/

namespace Sys2Proof.Machine

/-- A set of exceptions, bit k standing for GS bit k: NX 0, UF 1, OF 2, DZ 3, NV 4 (R124). -/
abbrev Exc := BitVec 5

namespace Exc
def none : Exc := 0
def nx : Exc := 0b00001
def uf : Exc := 0b00010
def of : Exc := 0b00100
def dz : Exc := 0b01000
def nv : Exc := 0b10000
/-- Exceptions raised when a condition holds. -/
def when (c : Bool) (x : Exc) : Exc := if c then x else 0
end Exc

/-- GS.STALE (R124). -/
def gsStale : Word := 0x20

/-- The GS bits that a set of exceptions sets (R109). -/
def gsOfExc (x : Exc) : Word := x.setWidth 32

/-- The bits of GS a SETS writes (R124). -/
def gsMask : Word := 0x3F

/-- Rounding modes (R108). -/
inductive RM where
  | rne | rz | rup | rdn
  deriving DecidableEq, Repr

/-- The readings of E4M3, E5M2 and UE5M3 (R243). -/
inductive Reading where
  | fin | nan | iee
  deriving DecidableEq, Repr

/-- FMODE.RM (R108, R125). -/
def rmOf (w : Word) : RM :=
  match w.toNat % 4 with
  | 0 => .rne
  | 1 => .rz
  | 2 => .rup
  | _ => .rdn

/-- The reading coded 0, 1 or 2 (R243). -/
def readingOf (n : Nat) : Reading :=
  match n with
  | 0 => .fin
  | 1 => .nan
  | _ => .iee

/-- FMODE.NARROW (R125). -/
def narrowOf (w : Word) : Reading := readingOf (w.toNat / 512 % 4)

/-- FMODE.STALETRAP (R125). -/
def staleTrap (w : Word) : Bool := w.getLsbD 8

/-- FMODE.XE, bit k enabling GS bit k (R125). -/
def xeOf (w : Word) : Exc := w.extractLsb' 2 5

/-- A raised exception is enabled (R109). -/
def fpxTraps (fmode : Word) (x : Exc) : Bool := (xeOf fmode &&& x) != 0

/-- FMODE's value at placement: NARROW 2, all else 0 (R125). -/
def fmodePlaced : Word := 0x400

/-- A value SETS may write to FMODE: reserved bits zero and NARROW not 3 (R125, R128). -/
def fmodeOk (w : Word) : Bool := (w &&& 0xFFFFF880) == 0 && w.toNat / 512 % 4 != 3

/-- A value SETS may write to GS: reserved bits zero (R124, R128). -/
def gsOk (w : Word) : Bool := (w &&& 0xFFFFFFC0) == 0

/-- Carry out of a sum, the borrow of a difference and signed ranges as the saturating forms need them (R104). -/
def clampI32 (x : Int) : Word :=
  if x < -2147483648 then 0x80000000 else if x > 2147483647 then 0x7FFFFFFF else BitVec.ofInt 32 x
def clampN32 (x : Int) : Word :=
  if x < 0 then 0 else if x > 4294967295 then 0xFFFFFFFF else BitVec.ofInt 32 x

end Sys2Proof.Machine
end

