-- ==== Sys2Proof/Machine/Float.lean ====
section
/-! DEFINITION. Machine/Float.lean: number formats and exact arithmetic with one rounding (R108 to R113, R116, R241 to
R247, R250). A finite value is a sign, a natural mantissa and a power of two, so sums and products are exact; a result
is rounded once, with the exceptions of R109. -/

namespace Sys2Proof.Machine

/-- A binary format under a reading (R241 to R243): exponent and mantissa bits, bias, whether there is a sign bit, the
largest finite magnitude code, the infinity's code, the first NaN code, the NaN code an instruction writes, and whether
a clear top mantissa bit makes a NaN signalling. -/
structure Fmt where
  eb : Nat
  mb : Nat
  bias : Int
  signed : Bool
  maxCode : Nat
  infCode : Option Nat
  nanFrom : Nat
  nanCode : Option Nat
  snan : Bool
  deriving DecidableEq, Repr

def fp32 : Fmt := ⟨8, 23, 127, true, 0x7F7FFFFF, some 0x7F800000, 0x7F800001, some 0x7FC00000, true⟩
def fp16 : Fmt := ⟨5, 10, 15, true, 0x7BFF, some 0x7C00, 0x7C01, some 0x7E00, true⟩
def bf16 : Fmt := ⟨8, 7, 127, true, 0x7F7F, some 0x7F80, 0x7F81, some 0x7FC0, true⟩
def e4m3 : Reading → Fmt
  | .fin => ⟨4, 3, 7, true, 0x7F, none, 0x80, none, false⟩
  | .nan => ⟨4, 3, 7, true, 0x7E, none, 0x7F, some 0x7F, false⟩
  | .iee => ⟨4, 3, 7, true, 0x77, some 0x78, 0x79, some 0x7C, false⟩
def e5m2 : Reading → Fmt
  | .fin => ⟨5, 2, 15, true, 0x7F, none, 0x80, none, false⟩
  | .nan => ⟨5, 2, 15, true, 0x7E, none, 0x7F, some 0x7F, false⟩
  | .iee => ⟨5, 2, 15, true, 0x7B, some 0x7C, 0x7D, some 0x7E, false⟩
def ue5m3 : Reading → Fmt
  | .fin => ⟨5, 3, 15, false, 0xFF, none, 0x100, none, false⟩
  | .nan => ⟨5, 3, 15, false, 0xFE, none, 0xFF, some 0xFF, false⟩
  | .iee => ⟨5, 3, 15, false, 0xF7, some 0xF8, 0xF9, some 0xFC, false⟩

/-- A value: a NaN (signalling or quiet), an infinity, or (-1)^neg * m * 2^e. -/
inductive FVal where
  | nan (sig : Bool)
  | inf (neg : Bool)
  | fin (neg : Bool) (m : Nat) (e : Int)
  deriving DecidableEq, Repr

/-- The sign bit's weight. -/
def Fmt.signBit (f : Fmt) : Nat := 2 ^ (f.eb + f.mb)

/-- The value of a code (R241 to R243). -/
def Fmt.read (f : Fmt) (code : Nat) : FVal :=
  let neg := f.signed && code / f.signBit % 2 == 1
  let c := code % f.signBit
  let ex := c / 2 ^ f.mb
  let m := c % 2 ^ f.mb
  if f.infCode = some c then .inf neg
  else if f.nanFrom ≤ c then .nan (f.snan && m / 2 ^ (f.mb - 1) == 0)
  else if ex = 0 then .fin neg m (1 - f.bias - f.mb)
  else .fin neg (m + 2 ^ f.mb) (ex - f.bias - f.mb)

/-- A code with its sign. -/
def Fmt.pack (f : Fmt) (neg : Bool) (c : Nat) : Nat := if f.signed && neg then f.signBit + c else c

/-- What rounding once finds: the magnitude code, beyond the largest finite, inexact, tiny after rounding. -/
structure Rounded where
  code : Nat
  beyond : Bool
  inexact : Bool
  tiny : Bool
  deriving DecidableEq, Repr

/-- Whether a discarded part r of 2^sh (with more below it if sticky) rounds the kept part n up (R108). -/
def roundUp (rm : RM) (neg : Bool) (n r sh : Nat) (sticky : Bool) : Bool :=
  match rm with
  | .rne => decide (2 ^ sh < 2 * r) || (decide (2 * r = 2 ^ sh) && sh != 0 && (sticky || n % 2 == 1))
  | .rz => false
  | .rup => !neg && (r != 0 || sticky)
  | .rdn => neg && (r != 0 || sticky)

/-- n · 2^sh rounded down to a multiple of 2^sh, as quotient, and whether it goes up. sh may be negative. -/
def roundAt (rm : RM) (neg : Bool) (m : Nat) (sticky : Bool) (sh : Int) : Nat × Bool :=
  if sh ≤ 0 then (m * 2 ^ sh.natAbs, sticky)
  else
    let k := min sh.natAbs (Nat.log2 m + 3)
    let n := if sh.natAbs ≤ Nat.log2 m + 3 then m / 2 ^ k else 0
    let r := m % 2 ^ k
    (n + (roundUp rm neg n r k sticky).toNat, r != 0 || sticky)

/-- Round m · 2^e (a little more, below the next multiple of 2^e, if sticky) to the format. m is positive. -/
def Fmt.round (f : Fmt) (rm : RM) (neg : Bool) (m : Nat) (e : Int) (sticky : Bool) : Rounded :=
  let emin := 1 - f.bias
  let top : Int := (Nat.log2 m : Int) + e
  let q := max top emin - f.mb
  let a := roundAt rm neg m sticky (q - e)
  let ex := (q + f.mb + f.bias).toNat
  let code := ex * 2 ^ f.mb + a.1 - 2 ^ f.mb
  let t := roundAt rm neg m sticky (top - f.mb - e)
  { code := code, beyond := decide (f.maxCode < code), inexact := a.2,
    tiny := decide (top < emin - 1) || (decide (top = emin - 1) && t.1 != 2 ^ (f.mb + 1)) }

/-- The value IEEE 754 prescribes for an overflow in the rounding mode (R108). -/
def Fmt.overCode (f : Fmt) (rm : RM) (neg : Bool) : Nat :=
  match f.infCode with
  | none => f.maxCode
  | some i =>
    match rm with
    | .rne => i
    | .rz => f.maxCode
    | .rup => if neg then f.maxCode else i
    | .rdn => if neg then i else f.maxCode

/-- A code and the exceptions raised. -/
structure FRes where
  code : Nat
  exc : Exc
  deriving DecidableEq, Repr

/-- The canonical NaN of a format (R108, R243); 0 where the reading has none. -/
def Fmt.nan (f : Fmt) : Nat := f.nanCode.getD 0

/-- A non-zero exact value rounded once, with overflow, underflow and inexactness (R108, R109). -/
def Fmt.roundRes (f : Fmt) (rm : RM) (neg : Bool) (m : Nat) (e : Int) (sticky : Bool) : FRes :=
  let r := f.round rm neg m e sticky
  if r.beyond then ⟨f.pack neg (f.overCode rm neg), Exc.of ||| Exc.nx⟩
  else ⟨f.pack neg r.code, Exc.when (r.tiny && r.inexact) Exc.uf ||| Exc.when r.inexact Exc.nx⟩

/-- An exact value rounded to the format; NaN and infinities pass. -/
def Fmt.write (f : Fmt) (rm : RM) (v : FVal) : FRes :=
  match v with
  | .nan sig => ⟨f.nan, Exc.when sig Exc.nv⟩
  | .inf neg => ⟨f.pack neg (f.infCode.getD f.maxCode), 0⟩
  | .fin neg m e => if m = 0 then ⟨f.pack neg 0, 0⟩ else f.roundRes rm neg m e false

/-! ## Exact operations -/

/-- The sign of an exact zero sum of operands of opposite sign (R108). -/
def zeroSign (rm : RM) : Bool := rm == .rdn

/-- The signed mantissa of a finite value at exponent e, which is at most its own. -/
def signedAt (neg : Bool) (m : Nat) (e0 e : Int) : Int :=
  let a : Int := m * 2 ^ (e0 - e).toNat
  if neg then -a else a

/-- Exact sum; opposite infinities give a NaN without a signalling operand, reported apart as invalid. -/
def addExact (rm : RM) (a b : FVal) : FVal × Bool :=
  match a, b with
  | .nan s, .nan t => (.nan (s || t), false)
  | .nan s, _ => (.nan s, false)
  | _, .nan t => (.nan t, false)
  | .inf x, .inf y => if x = y then (.inf x, false) else (.nan false, true)
  | .inf x, .fin _ _ _ => (.inf x, false)
  | .fin _ _ _, .inf y => (.inf y, false)
  | .fin n1 m1 e1, .fin n2 m2 e2 =>
    let e := min e1 e2
    let s := signedAt n1 m1 e1 e + signedAt n2 m2 e2 e
    if s = 0 then
      (.fin (if n1 = n2 then n1 else zeroSign rm) 0 e, false)
    else (.fin (decide (s < 0)) s.natAbs e, false)

/-- Exact product; 0 · ∞ is invalid. -/
def mulExact (a b : FVal) : FVal × Bool :=
  match a, b with
  | .nan s, .nan t => (.nan (s || t), false)
  | .nan s, _ => (.nan s, false)
  | _, .nan t => (.nan t, false)
  | .inf x, .inf y => (.inf (x != y), false)
  | .inf x, .fin y m _ => if m = 0 then (.nan false, true) else (.inf (x != y), false)
  | .fin x m _, .inf y => if m = 0 then (.nan false, true) else (.inf (x != y), false)
  | .fin x m1 e1, .fin y m2 e2 => (.fin (x != y) (m1 * m2) (e1 + e2), false)

def FVal.isNan : FVal → Bool
  | .nan _ => true
  | .inf _ | .fin _ _ _ => false
def FVal.isSig : FVal → Bool
  | .nan s => s
  | .inf _ | .fin _ _ _ => false
def FVal.flip : FVal → FVal
  | .nan s => .nan s
  | .inf n => .inf (!n)
  | .fin n m e => .fin (!n) m e

/-- Round what an exact operation gave, raising NV where it was invalid. -/
def Fmt.finish (f : Fmt) (rm : RM) (x : FVal × Bool) : FRes :=
  if x.2 then ⟨f.nan, Exc.nv⟩ else f.write rm x.1

/-- ADD, SUB and MUL (R111). -/
def Fmt.add (f : Fmt) (rm : RM) (a b : Nat) : FRes := f.finish rm (addExact rm (f.read a) (f.read b))
def Fmt.sub (f : Fmt) (rm : RM) (a b : Nat) : FRes := f.finish rm (addExact rm (f.read a) (f.read b).flip)
def Fmt.mul (f : Fmt) (rm : RM) (a b : Nat) : FRes := f.finish rm (mulExact (f.read a) (f.read b))

/-- FMAD: c + a · b with one rounding (R111). 0 · ∞ is invalid whatever the addend; any signalling operand raises NV. -/
def Fmt.fmad (f : Fmt) (rm : RM) (c a b : Nat) : FRes :=
  let p := mulExact (f.read a) (f.read b)
  let cv := f.read c
  if p.2 then ⟨f.nan, Exc.nv⟩
  else f.finish rm (addExact rm cv p.1)

/-- Comparison of two values that are no NaN, as an Int sign: finite values by exact subtraction. -/
def cmpVal (a b : FVal) : Int :=
  match a, b with
  | .inf x, .inf y => if x = y then 0 else if x then -1 else 1
  | .inf x, _ => if x then -1 else 1
  | _, .inf y => if y then 1 else -1
  | .fin n1 m1 e1, .fin n2 m2 e2 => signedAt n1 m1 e1 (min e1 e2) - signedAt n2 m2 e2 (min e1 e2)
  | _, _ => 0

/-- The sign bit of a code. -/
def Fmt.negBit (f : Fmt) (c : Nat) : Bool := f.signed && c / f.signBit % 2 == 1

/-- minimumNumber and maximumNumber (R111): with one NaN the other operand, -0 below +0. -/
def Fmt.minMax (f : Fmt) (wantMax : Bool) (a b : Nat) : FRes :=
  let x := f.read a
  let y := f.read b
  let nv := Exc.when (x.isSig || y.isSig) Exc.nv
  if x.isNan && y.isNan then ⟨f.nan, nv⟩
  else if x.isNan then ⟨b, nv⟩
  else if y.isNan then ⟨a, nv⟩
  else
    let c := cmpVal x y
    let aLess := decide (c < 0) || (decide (c = 0) && f.negBit a)
    ⟨if aLess != wantMax then a else b, 0⟩

/-- SCALEXP (R111): a · 2^k, rounded once; ±0, ±∞ unchanged. -/
def Fmt.scalexp (f : Fmt) (rm : RM) (a : Nat) (k : Int) : FRes :=
  match f.read a with
  | .nan s => ⟨f.nan, Exc.when s Exc.nv⟩
  | .inf _ => ⟨a, 0⟩
  | .fin n m e => if m = 0 then ⟨a, 0⟩ else f.roundRes rm n m (e + k) false

/-- RCP (R113): 1/a under RNE. -/
def Fmt.rcp (f : Fmt) (a : Nat) : FRes :=
  match f.read a with
  | .nan s => ⟨f.nan, Exc.when s Exc.nv⟩
  | .inf n => ⟨f.pack n 0, 0⟩
  | .fin n m e =>
    if m = 0 then ⟨f.pack n (f.infCode.getD f.maxCode), Exc.dz⟩
    else
      let k := Nat.log2 m + f.mb + 4
      f.roundRes .rne n (2 ^ k / m) (-e - k) (2 ^ k % m != 0)

/-- Integer square root by its bits, from bit b downwards. -/
def sqrtBits : Nat → Nat → Nat → Nat
  | 0, _, r => r
  | b + 1, n, r => sqrtBits b n (if (r + 2 ^ b) * (r + 2 ^ b) ≤ n then r + 2 ^ b else r)

/-- The largest r with r² ≤ n, for n below 2^(2·bits). -/
def isqrt (bits n : Nat) : Nat := sqrtBits bits n 0

/-- RSQ (R113): 1/√a under RNE. -/
def Fmt.rsq (f : Fmt) (a : Nat) : FRes :=
  match f.read a with
  | .nan s => ⟨f.nan, Exc.when s Exc.nv⟩
  | .inf n => if n then ⟨f.nan, Exc.nv⟩ else ⟨0, 0⟩
  | .fin n m e =>
    if m = 0 then ⟨f.pack n (f.infCode.getD f.maxCode), Exc.dz⟩
    else if n then ⟨f.nan, Exc.nv⟩
    else
      -- an even exponent, then the quotient's root with spare bits below the last place
      let m2 := if e % 2 = 0 then m else 2 * m
      let h := if e % 2 = 0 then e / 2 else (e - 1) / 2
      let s := f.mb + 4 + (f.mb + 3)
      let q := isqrt (s + 1) (2 ^ (2 * s) / m2)
      f.roundRes .rne false q (-h - s) (q * q * m2 != 2 ^ (2 * s))

/-- A finite value rounded to an integer: magnitude and inexactness. -/
def roundInt (rm : RM) (neg : Bool) (m : Nat) (e : Int) : Nat × Bool :=
  if m = 0 then (0, false) else roundAt rm neg m false (-e)

/-- FLOOR, CEIL, TRUNC, RINT (R113); only RINT raises NX. -/
def Fmt.integral (f : Fmt) (rm : RM) (raiseNx : Bool) (a : Nat) : FRes :=
  match f.read a with
  | .nan s => ⟨f.nan, Exc.when s Exc.nv⟩
  | .inf _ => ⟨a, 0⟩
  | .fin n m e =>
    let r := roundInt rm n m e
    let nx := Exc.when (raiseNx && r.2) Exc.nx
    if m = 0 then ⟨a, 0⟩
    else if r.1 = 0 then ⟨f.pack n 0, nx⟩
    else ⟨(f.roundRes .rne n r.1 0 false).code, nx⟩

/-- GETEXP (R113): floor(log2 |a|) as a value of the format. -/
def Fmt.getexp (f : Fmt) (a : Nat) : FRes :=
  match f.read a with
  | .nan s => ⟨f.nan, Exc.when s Exc.nv⟩
  | .inf _ => ⟨f.infCode.getD f.maxCode, 0⟩
  | .fin _ m e =>
    if m = 0 then ⟨f.pack true (f.infCode.getD f.maxCode), Exc.dz⟩
    else
      let x : Int := (Nat.log2 m : Int) + e
      ⟨(f.write .rne (.fin (decide (x < 0)) x.natAbs 0)).code, 0⟩

/-- GETMANT (R113): a scaled by a power of two into [1, 2), sign kept. -/
def Fmt.getmant (f : Fmt) (a : Nat) : FRes :=
  match f.read a with
  | .nan s => ⟨f.nan, Exc.when s Exc.nv⟩
  | .inf _ => ⟨f.nan, Exc.nv⟩
  | .fin n m _ =>
    if m = 0 then ⟨a, 0⟩
    else ⟨(f.write .rne (.fin n m (-(Nat.log2 m : Int)))).code, 0⟩

/-! ## Conversions (R116) -/

/-- Float to integer in the range lo … hi; invalid is the code written for a value out of range without SAT. -/
def cvtToInt (rm : RM) (lo hi : Int) (invalid : Word) (sat : Bool) (a : Nat) : FRes :=
  let out (x : Int) : Nat := (BitVec.ofInt 32 x).toNat
  match fp32.read a with
  | .nan _ => if sat then ⟨0, Exc.nv⟩ else ⟨invalid.toNat, Exc.nv⟩
  | .inf n => if sat then ⟨out (if n then lo else hi), Exc.nx⟩ else ⟨invalid.toNat, Exc.nv⟩
  | .fin n m e =>
    let x : Int := (Nat.log2 m : Int) + e
    if m != 0 && decide (40 < x) then
      if sat then ⟨out (if n then lo else hi), Exc.nx⟩ else ⟨invalid.toNat, Exc.nv⟩
    else
      let r := roundInt rm n m e
      let v : Int := if n then -(r.1 : Int) else r.1
      if lo ≤ v ∧ v ≤ hi then ⟨out v, Exc.when r.2 Exc.nx⟩
      else if sat then ⟨out (if v < lo then lo else hi), Exc.nx⟩
      else ⟨invalid.toNat, Exc.nv⟩

/-- Integer to FP32. -/
def cvtFromInt (rm : RM) (x : Int) : FRes := fp32.write rm (.fin (decide (x < 0)) x.natAbs 0)

/-- Float narrowing, with the table of R116 for overflow, infinities and NaN. -/
def cvtNarrow (f : Fmt) (reading : Reading) (rm : RM) (sat : Bool) (a : Nat) : FRes :=
  match fp32.read a with
  | .nan s =>
    match reading with
    | .fin => ⟨0, Exc.nv⟩
    | .nan | .iee => ⟨f.nan, Exc.when s Exc.nv⟩
  | .inf n =>
    if sat then ⟨f.pack n f.maxCode, Exc.nx⟩
    else match reading with
      | .fin => ⟨f.pack n f.maxCode, Exc.of ||| Exc.nx⟩
      | .nan => ⟨f.nan, Exc.of ||| Exc.nx⟩
      | .iee => ⟨f.pack n (f.infCode.getD f.maxCode), 0⟩
  | .fin n m e =>
    if m = 0 then ⟨f.pack n 0, 0⟩
    else
      let r := f.round rm n m e false
      if r.beyond then
        if sat then ⟨f.pack n f.maxCode, Exc.nx⟩
        else match reading with
          | .fin => ⟨f.pack n f.maxCode, Exc.of ||| Exc.nx⟩
          | .nan => ⟨f.nan, Exc.of ||| Exc.nx⟩
          | .iee => ⟨f.pack n (f.overCode rm n), Exc.of ||| Exc.nx⟩
      else ⟨f.pack n r.code, Exc.when (r.tiny && r.inexact) Exc.uf ||| Exc.when r.inexact Exc.nx⟩

/-- Exact widening to FP32: a signalling source raises NV. -/
def cvtWiden (f : Fmt) (a : Nat) : FRes := fp32.write .rne (f.read a)

/-- v(c) of the Q4 codebook (R245). -/
def q4Value (c : Nat) : Int :=
  match c with
  | 0 => -64
  | 1 => -47
  | 2 => -36
  | 3 => -27
  | 4 => -20
  | 5 => -14
  | 6 => -8
  | 7 => -3
  | 8 => 0
  | 9 => 3
  | 10 => 8
  | 11 => 14
  | 12 => 20
  | 13 => 27
  | 14 => 36
  | _ => 47

/-- A code's value v(c)/64. -/
def q4Read (c : Nat) : FVal := .fin (decide (q4Value c < 0)) (q4Value c).natAbs (-6)

/-- The distance of 64 · |value| · 2^k from a codebook entry, as an exact natural: both scaled by 2^k. -/
def q4Dist (x : Int) (k c : Nat) : Nat := (x - q4Value c * 2 ^ k).natAbs

/-- The nearer of two codes; a tie goes to the smaller magnitude (R116). -/
def q4Better (x : Int) (k best c : Nat) : Nat :=
  if q4Dist x k c < q4Dist x k best then c
  else if q4Dist x k c = q4Dist x k best ∧ (q4Value c).natAbs < (q4Value best).natAbs then c
  else best

/-- CVT.q4.f32 (R116). -/
def cvtQ4 (a : Nat) : FRes :=
  match fp32.read a with
  | .nan _ => ⟨8, Exc.nv⟩
  | .inf n => ⟨if n then 0 else 15, Exc.nx⟩
  | .fin n m e =>
    if m = 0 then ⟨8, 0⟩
    else if decide (0 ≤ (Nat.log2 m : Int) + e) then
      -- magnitude 1 or more: the end codes
      ⟨if n then 0 else 15, Exc.when (!(n && decide (m * 2 ^ (e + 23).toNat = 2 ^ 23))) Exc.nx⟩
    else
      -- 64 · value, scaled by 2^k to an integer
      let k := (-(e + 6)).toNat
      let s := (e + 6).toNat
      let x : Int := if n then -(m * 2 ^ s : Int) else m * 2 ^ s
      let c := (List.range 16).foldl (q4Better x k) 8
      ⟨c, Exc.when (q4Dist x k c != 0) Exc.nx⟩

/-- CVT.f32.q4: the exact codebook value. -/
def cvtFromQ4 (c : Nat) : FRes := fp32.write .rne (q4Read (c % 16))

/-! ## Sums of the matrix engine (R250) -/

/-- The exact sum of a list of products, invalid for a NaN, 0 · ∞ or infinities of both signs; the sign of an exact
zero sum follows R108. -/
def sumExact (rm : RM) (xs : List (FVal × Bool)) : FVal :=
  if xs.any (fun x => x.2 || x.1.isNan) then .nan false
  else if xs.any (fun x => x.1 == .inf false) && xs.any (fun x => x.1 == .inf true) then .nan false
  else if xs.any (fun x => x.1 == .inf false) then .inf false
  else if xs.any (fun x => x.1 == .inf true) then .inf true
  else match xs with
    | [] => .fin false 0 0
    | x :: rest => rest.foldl (fun a b => (addExact rm a b.1).1) x.1

/-- One group of products rounded to FP32 and added to an accumulator element with one more rounding. -/
def groupStep (rm : RM) (acc : Nat) (xs : List (FVal × Bool)) : Nat :=
  (fp32.add rm acc (fp32.write rm (sumExact rm xs)).code).code

/-- The effective scale of a block (R247): the exact product of scale and super-scale, rounded once. -/
def effScale (rm : RM) (r : Reading) (scale : Nat) (super : Nat) : Nat :=
  (fp32.finish rm (mulExact ((ue5m3 r).read scale) (fp32.read super))).code

end Sys2Proof.Machine
end

