-- ==== Sys2Proof/Syntax.lean ====
section
/-! DEFINITION. Syntax.lean: the operand classes (R36) and the ONE inductive of instructions and steps, one constructor
per row of spec/opcode_table.json. A decoded instruction holds its operands with the prefixes resolved: a crossbar
pattern stands in its source (R41), an immediate is the 32-bit value of R37 and R42. GUARD is no part of an
instruction: it decides, at issue, which lanes execute it (R43). The rows that are steps of another agent than a
thread (issue cycle, engines, pickers, easel, host, firmware) have no operands here: an event card names them. -/

namespace Sys2Proof

/-- A vector or scalar register number, v0 to v63 or s0 to s63 (R36). -/
abbrev Reg := Fin 64

/-- A mask register m0 to m7 (R36). -/
abbrev Mask := Fin 8

/-- A crossbar pattern: which lane each executing lane reads (R25, R41). -/
inductive Pat where
  | self
  | rot (k : Fin 32)
  | bfly (k : Fin 32)
  | mir
  | bc (k : Fin 32)
  deriving DecidableEq, Repr

/-- A vector source field: register, last-use mark, crossbar pattern (R35, R22, R25). -/
structure Src where
  reg : Reg
  last : Bool
  pat : Pat
  deriving DecidableEq, Repr

/-- A vector source field whose crossbar code must be 00 (R100, R120, R197, R201). -/
structure Own where
  reg : Reg
  last : Bool
  deriving DecidableEq, Repr

/-- The system registers, in the order of their numbers 0 to 16 (R123). -/
inductive SysReg where
  | lane | wid | widh | wf0 | wf1 | wf2 | wf3 | wf4 | wf5 | core | cyc | cych | gs | fmode | pstat | pspill | rsd
  deriving DecidableEq, Repr

/-- A scope (R171), narrowest first. -/
inductive Scope where
  | bn | gp | cl | dv | sy
  deriving DecidableEq, Repr

/-- The qualifier of a memory access: none is a plain access (R38). -/
abbrev Qual := Option Scope

/-- A neighbour port (R36, R54). -/
inductive Port where
  | lo | hi | n | s | e | w
  deriving DecidableEq, Repr

/-- Integer conditions of CMP (R117). -/
inductive ICond where
  | eq | ne | lt | le | gt | ge | tst | ntst
  deriving DecidableEq, Repr

/-- Floating-point conditions of CMP (R117). -/
inductive FCond where
  | eq | ne | lt | le | gt | ge | un | ord
  deriving DecidableEq, Repr

/-- The engines of a core: matrix and copy (R235). -/
inductive Eng where
  | mx | cp
  deriving DecidableEq, Repr

/-- The spaces an atomic, an engine command or a copy names (R197, R259, R264). -/
inductive ASpace where
  | gl | sp | csm | chs
  deriving DecidableEq, Repr

/-- The operand fields of an ATOM form (R197). -/
structure AtomOp where
  d : Reg
  ret : Bool
  a : Src
  b : Src
  q : Qual
  sp : ASpace
  w64 : Bool
  deriving DecidableEq, Repr

/-- The operand fields of CAS128 (R201): quads in D, B and C. -/
structure Cas128Op where
  d : Reg
  ret : Bool
  a : Src
  b : Own
  c : Own
  q : Qual
  sp : ASpace
  deriving DecidableEq, Repr

/-- The operand fields of an MMA form (R233): the span is accumulators f to f + lenM1. -/
structure MmaOp where
  f : Fin 8
  lenM1 : Fin 8
  vi : Src
  sb : Reg
  sa : Reg
  dep : Fin 16
  ka : Fin 4096
  t : Bool
  deriving DecidableEq, Repr

/-- The operand fields of SCACC (R259); vi is present exactly with ROWS = 1. -/
structure ScaccOp where
  f : Fin 8
  lenM1 : Fin 8
  vi : Option Src
  sd : Reg
  sf : Fin 8
  j : Fin 2048
  clr : Bool
  deriving DecidableEq, Repr

/-- The operand fields of ACCADD (R259). -/
structure AccaddOp where
  f : Fin 8
  lenM1 : Fin 8
  a : Src
  o : Fin 64
  sp : ASpace
  deriving DecidableEq, Repr

/-- The operand fields of ACC.ST and ACC.LD (R238, R261). -/
structure AccOp where
  acc : Fin 8
  a : Src
  o : Fin 64
  sp : ASpace
  q : Qual
  deriving DecidableEq, Repr

/-- What an ECC check finds (R167): nothing, a corrected bit, an uncorrectable error in a clean sector, in a dirty one or in
a scratchpad, or in a tag or directory entry. An input of the outside. -/
inductive Ecc where
  | none | corrected | clean | dirty | tag
  deriving DecidableEq, Repr

/-- An agent with an incarnation number: a peer module or the host's CXL.cache agent (R290). -/
inductive Agent where
  | peer (n : Nat)
  | host
  deriving DecidableEq, Repr

/-- An access of the host or of a peer that reaches the module's memory (R170, R200, R288): a read, which records the agent
as a sharer of the line; one that takes the line as its own (CXL.cache); a write or write-back; an atomic of an OP code
(R198) of 4 or 8 bytes; a compare and swap of 16 bytes; an acknowledgement, which releases the line. -/
inductive BusAccess where
  | read (pa n : Nat)
  | own (pa : Nat)
  | write (pa : Nat) (bytes : List Byte)
  | atom (code pa size : Nat) (b c : DWord)
  | cas16 (pa : Nat) (old new : List Byte)
  | ack (pa : Nat)
  deriving DecidableEq, Repr

/-- A firmware image as its verifier sees it (R294). -/
structure FwImage where
  trusted : Bool
  id : Nat
  version : Nat
  deriving DecidableEq, Repr

/-- An instruction or another step of the part: one constructor per row of spec/opcode_table.json, the encoded
instructions first, in the table's order, then the steps of another agent than an issued run. Such a step takes its
operands from the event card that names it (State.event). -/
inductive Instr where
  /-- An ILLEGAL cell, bad reserved field, bad register, qualifier, selector or prefix sequence raises a precise ILLEGAL trap in every lane of the run with no state change. (R51) -/
  | illegal (off : Nat)
  /-- Each executing lane reads a system register into a vector register. (R128) -/
  | gets (d : Reg) (r : SysReg)
  /-- Executing lanes write a vector value into a thread, bunch or group system register. (R128) -/
  | sets (r : SysReg) (a : Src)
  /-- Every executing lane copies a scalar register into a vector register. (R103) -/
  | movuN32 (d : Reg) (a : Reg)
  /-- Every executing lane copies a scalar pair into a vector pair. (R103) -/
  | movuN64 (d : Reg) (a : Reg)
  /-- 32-bit sum modulo 2^32 per lane. (R104) -/
  | addN32 (d : Reg) (a b : Src)
  /-- 64-bit pair sum modulo 2^64 per lane. (R104) -/
  | addN64 (d : Reg) (a b : Src)
  /-- 32-bit difference modulo 2^32 per lane. (R104) -/
  | subN32 (d : Reg) (a b : Src)
  /-- 64-bit pair difference modulo 2^64 per lane. (R104) -/
  | subN64 (d : Reg) (a b : Src)
  /-- Low 32 bits of the product per lane. (R104) -/
  | mulloN32 (d : Reg) (a b : Src)
  /-- High 32 bits of the signed product per lane. (R104) -/
  | mulhiI32 (d : Reg) (a b : Src)
  /-- High 32 bits of the unsigned product per lane. (R104) -/
  | mulhiN32 (d : Reg) (a b : Src)
  /-- Adds a sign-extended 32-bit index scaled by 4 to a 64-bit pair. (R105) -/
  | shaddN64 (d : Reg) (a b : Src)
  /-- Bitwise and per lane. (R104) -/
  | andN32 (d : Reg) (a b : Src)
  /-- Bitwise or per lane. (R104) -/
  | orN32 (d : Reg) (a b : Src)
  /-- Bitwise exclusive or per lane. (R104) -/
  | xorN32 (d : Reg) (a b : Src)
  /-- 32-bit logical left shift by a register count. (R105) -/
  | shlN32 (d : Reg) (a b : Src)
  /-- 64-bit logical left shift by a register count. (R105) -/
  | shlN64 (d : Reg) (a b : Src)
  /-- 32-bit logical right shift by a register count. (R105) -/
  | shrN32 (d : Reg) (a b : Src)
  /-- 64-bit logical right shift by a register count. (R105) -/
  | shrN64 (d : Reg) (a b : Src)
  /-- 32-bit arithmetic right shift by a register count. (R105) -/
  | sarI32 (d : Reg) (a b : Src)
  /-- 64-bit arithmetic right shift by a register count. (R105) -/
  | sarI64 (d : Reg) (a b : Src)
  /-- Smaller signed operand per lane. (R104) -/
  | minI32 (d : Reg) (a b : Src)
  /-- Smaller unsigned operand per lane. (R104) -/
  | minN32 (d : Reg) (a b : Src)
  /-- Larger signed operand per lane. (R104) -/
  | maxI32 (d : Reg) (a b : Src)
  /-- Larger unsigned operand per lane. (R104) -/
  | maxN32 (d : Reg) (a b : Src)
  /-- Extracts an unsigned bit field. (R106) -/
  | bfxN32 (d : Reg) (a b : Src)
  /-- Extracts a sign-extended bit field. (R106) -/
  | bfxI32 (d : Reg) (a b : Src)
  /-- Inserts a bit field into the destination. (R106) -/
  | bfiN32 (d : Reg) (a b : Src)
  /-- Signed saturating sum. (R104) -/
  | addsatI32 (d : Reg) (a b : Src)
  /-- Unsigned saturating sum. (R104) -/
  | addsatN32 (d : Reg) (a b : Src)
  /-- Signed saturating difference. (R104) -/
  | subsatI32 (d : Reg) (a b : Src)
  /-- Unsigned saturating difference clamped to 0. (R104) -/
  | subsatN32 (d : Reg) (a b : Src)
  /-- UNI selector 0: copies a vector register. (R107) -/
  | movN32 (d : Reg) (a : Src)
  /-- UNI selector 1: copies a vector pair. (R107) -/
  | movN64 (d : Reg) (a : Src)
  /-- UNI selector 2: bitwise not. (R107) -/
  | notN32 (d : Reg) (a : Src)
  /-- UNI selector 3: two's-complement negation. (R107) -/
  | negI32 (d : Reg) (a : Src)
  /-- UNI selector 4: absolute value modulo 2^32. (R107) -/
  | absI32 (d : Reg) (a : Src)
  /-- UNI selector 5: 64-bit negation of a pair. (R107) -/
  | negI64 (d : Reg) (a : Src)
  /-- UNI selector 6: population count. (R107) -/
  | popcN32 (d : Reg) (a : Src)
  /-- UNI selector 7: count of leading zeros. (R107) -/
  | clzN32 (d : Reg) (a : Src)
  /-- UNI selector 8: bit reversal. (R107) -/
  | brevN32 (d : Reg) (a : Src)
  /-- UNI selector 9: sign-extends the low byte. (R107) -/
  | sextI8 (d : Reg) (a : Src)
  /-- UNI selector 10: sign-extends the low half. (R107) -/
  | sextI16 (d : Reg) (a : Src)
  /-- UNF selector 0: clears the FP32 sign bit. (R113) -/
  | absF32 (d : Reg) (a : Src)
  /-- UNF selector 1: inverts the FP32 sign bit. (R113) -/
  | negF32 (d : Reg) (a : Src)
  /-- UNF selector 2: FP32 reciprocal rounded under RNE. (R113) -/
  | rcpF32 (d : Reg) (a : Src)
  /-- UNF selector 3: FP32 reciprocal square root rounded under RNE. (R113) -/
  | rsqF32 (d : Reg) (a : Src)
  /-- UNF selector 4: rounds to an integral value towards minus infinity. (R113) -/
  | floorF32 (d : Reg) (a : Src)
  /-- UNF selector 5: rounds to an integral value towards plus infinity. (R113) -/
  | ceilF32 (d : Reg) (a : Src)
  /-- UNF selector 6: rounds to an integral value towards zero. (R113) -/
  | truncF32 (d : Reg) (a : Src)
  /-- UNF selector 7: rounds to an integral value under FMODE.RM. (R113) -/
  | rintF32 (d : Reg) (a : Src)
  /-- UNF selector 8: unbiased exponent as an FP32 integer. (R113) -/
  | getexpF32 (d : Reg) (a : Src)
  /-- UNF selector 9: mantissa scaled into [1, 2). (R113) -/
  | getmantF32 (d : Reg) (a : Src)
  /-- UNF selector 10: clears both FP16 sign bits. (R113) -/
  | absF16 (d : Reg) (a : Src)
  /-- UNF selector 11: inverts both FP16 sign bits. (R113) -/
  | negF16 (d : Reg) (a : Src)
  /-- UNF selector 12: FP16 reciprocal of both halves. (R113) -/
  | rcpF16 (d : Reg) (a : Src)
  /-- UNF selector 13: clears both BF16 sign bits. (R113) -/
  | absBf16 (d : Reg) (a : Src)
  /-- UNF selector 14: inverts both BF16 sign bits. (R113) -/
  | negBf16 (d : Reg) (a : Src)
  /-- Converts FP32 to signed integer, optionally saturating. (R116) -/
  | cvtI32F32 (d : Reg) (a : Src) (sat : Bool)
  /-- Converts FP32 to unsigned integer, optionally saturating. (R116) -/
  | cvtN32F32 (d : Reg) (a : Src) (sat : Bool)
  /-- Converts a signed integer to FP32. (R116) -/
  | cvtF32I32 (d : Reg) (a : Src)
  /-- Converts an unsigned integer to FP32. (R116) -/
  | cvtF32N32 (d : Reg) (a : Src)
  /-- Narrows FP32 to FP16. (R116) -/
  | cvtF16F32 (d : Reg) (a : Src) (sat : Bool)
  /-- Narrows FP32 to BF16. (R116) -/
  | cvtBf16F32 (d : Reg) (a : Src) (sat : Bool)
  /-- Narrows FP32 to E4M3 under FMODE.NARROW. (R116) -/
  | cvtE4m3F32 (d : Reg) (a : Src) (sat : Bool)
  /-- Narrows FP32 to E5M2 under FMODE.NARROW. (R116) -/
  | cvtE5m2F32 (d : Reg) (a : Src) (sat : Bool)
  /-- Widens FP16 to FP32 exactly. (R116) -/
  | cvtF32F16 (d : Reg) (a : Src)
  /-- Widens BF16 to FP32 exactly. (R116) -/
  | cvtF32Bf16 (d : Reg) (a : Src)
  /-- Widens E4M3 to FP32 under FMODE.NARROW. (R116) -/
  | cvtF32E4m3 (d : Reg) (a : Src)
  /-- Widens E5M2 to FP32 under FMODE.NARROW. (R116) -/
  | cvtF32E5m2 (d : Reg) (a : Src)
  /-- Converts FP32 to the nearest Q4 codebook code. (R116) -/
  | cvtQ4F32 (d : Reg) (a : Src)
  /-- Converts a Q4 code to its exact FP32 value. (R116) -/
  | cvtF32Q4 (d : Reg) (a : Src)
  /-- Narrows a signed integer to INT4. (R116) -/
  | cvtI4I32 (d : Reg) (a : Src) (sat : Bool)
  /-- Sign-extends an INT4 to 32 bits. (R116) -/
  | cvtI32I4 (d : Reg) (a : Src)
  /-- Narrows a signed integer to 8 unsigned bits. (R116) -/
  | cvtN8I32 (d : Reg) (a : Src) (sat : Bool)
  /-- Narrows a signed integer to 16 unsigned bits. (R116) -/
  | cvtN16I32 (d : Reg) (a : Src) (sat : Bool)
  /-- Narrows an unsigned integer to 8 bits. (R116) -/
  | cvtN8N32 (d : Reg) (a : Src) (sat : Bool)
  /-- Narrows an unsigned integer to 16 bits. (R116) -/
  | cvtN16N32 (d : Reg) (a : Src) (sat : Bool)
  /-- Writes an immediate into every executing lane. (R104) -/
  | movN32Imm (d : Reg) (imm : Word)
  /-- 32-bit sum with an immediate. (R104) -/
  | addN32Imm (d : Reg) (a : Src) (imm : Word)
  /-- 64-bit pair sum with a sign-extended immediate. (R104) -/
  | addN64Imm (d : Reg) (a : Src) (imm : Word)
  /-- Low 32 bits of the product with an immediate. (R104) -/
  | mulloN32Imm (d : Reg) (a : Src) (imm : Word)
  /-- Bitwise and with an immediate. (R104) -/
  | andN32Imm (d : Reg) (a : Src) (imm : Word)
  /-- Bitwise or with an immediate. (R104) -/
  | orN32Imm (d : Reg) (a : Src) (imm : Word)
  /-- 32-bit left shift by an immediate count. (R105) -/
  | shlN32Imm (d : Reg) (a : Src) (imm : Word)
  /-- 64-bit left shift by an immediate count. (R105) -/
  | shlN64Imm (d : Reg) (a : Src) (imm : Word)
  /-- 32-bit logical right shift by an immediate count. (R105) -/
  | shrN32Imm (d : Reg) (a : Src) (imm : Word)
  /-- 32-bit arithmetic right shift by an immediate count. (R105) -/
  | sarI32Imm (d : Reg) (a : Src) (imm : Word)
  /-- Signed compare with an immediate into a mask bit. (R117) -/
  | cmpI32Imm (c : ICond) (m : Mask) (a : Src) (imm : Word)
  /-- FP32 sum with an immediate bit pattern. (R111) -/
  | addF32Imm (d : Reg) (a : Src) (imm : Word)
  /-- FP32 product with an immediate bit pattern. (R111) -/
  | mulF32Imm (d : Reg) (a : Src) (imm : Word)
  /-- Each member reads va of member lane minus k, else 0. (R121) -/
  | shflup (d : Reg) (a : Own) (k : Fin 32)
  /-- Each member reads va of member lane plus k, else 0. (R121) -/
  | shfldn (d : Reg) (a : Own) (k : Fin 32)
  /-- Each member reads va of member lane xor k, else 0. (R121) -/
  | shflx (d : Reg) (a : Own) (k : Fin 32)
  /-- FP32 sum rounded once. (R111) -/
  | addF32 (d : Reg) (a b : Src)
  /-- FP32 difference rounded once. (R111) -/
  | subF32 (d : Reg) (a b : Src)
  /-- FP32 product rounded once. (R111) -/
  | mulF32 (d : Reg) (a b : Src)
  /-- Fused FP32 multiply-add into the destination with one rounding. (R111) -/
  | fmadF32 (d : Reg) (a b : Src)
  /-- FP32 minimumNumber. (R111) -/
  | minF32 (d : Reg) (a b : Src)
  /-- FP32 maximumNumber. (R111) -/
  | maxF32 (d : Reg) (a b : Src)
  /-- Scales an FP32 value by a signed power of two. (R111) -/
  | scalexpF32 (d : Reg) (a b : Src)
  /-- Packed FP16 sum of both halves. (R112) -/
  | addF16 (d : Reg) (a b : Src)
  /-- Packed FP16 product of both halves. (R112) -/
  | mulF16 (d : Reg) (a b : Src)
  /-- Packed FP16 fused multiply-add. (R112) -/
  | fmadF16 (d : Reg) (a b : Src)
  /-- Packed BF16 fused multiply-add. (R112) -/
  | fmadBf16 (d : Reg) (a b : Src)
  /-- Signed compare into a mask bit. (R117) -/
  | cmpI32 (c : ICond) (m : Mask) (a b : Src)
  /-- Unsigned compare into a mask bit. (R117) -/
  | cmpN32 (c : ICond) (m : Mask) (a b : Src)
  /-- FP32 compare into a mask bit. (R117) -/
  | cmpF32 (c : FCond) (m : Mask) (a b : Src)
  /-- Selects va or vb by mask register m0. (R118) -/
  | selN32 (d : Reg) (a b : Src)
  /-- Gathers the members' bits of a mask register into every lane. (R119) -/
  | ballot (d : Reg) (m : Mask)
  /-- Per-lane and of two mask registers. (R119) -/
  | mand (d a b : Mask)
  /-- Per-lane or of two mask registers. (R119) -/
  | mor (d a b : Mask)
  /-- Per-lane exclusive or of two mask registers. (R119) -/
  | mxor (d a b : Mask)
  /-- Reads all 32 bits of a mask register into a vector register. (R119) -/
  | mget (d : Reg) (m : Mask)
  /-- Sets each lane's mask bit from whether va is non-zero. (R119) -/
  | mset (m : Mask) (a : Src)
  /-- Each member reads va of the member lane named by vb. (R121) -/
  | shfl (d : Reg) (a : Own) (b : Src)
  /-- Mask of members holding the same value. (R122) -/
  | match (d : Reg) (a : Own)
  /-- Sum of va over the members, into every member. (R122) -/
  | rdaddN32 (d : Reg) (a : Own)
  /-- 32-bit lane-private load. (R192) -/
  | ldN32Lp (d : Reg) (a : Src) (q : Qual) (o : Fin 64)
  /-- 32-bit core scratchpad load. (R192) -/
  | ldN32Sp (d : Reg) (a : Src) (q : Qual) (o : Fin 64)
  /-- 32-bit cluster-shared memory load. (R192) -/
  | ldN32Csm (d : Reg) (a : Src) (q : Qual) (o : Fin 64)
  /-- 32-bit chip scratchpad load. (R192) -/
  | ldN32Chs (d : Reg) (a : Src) (q : Qual) (o : Fin 64)
  /-- 32-bit global load. (R192) -/
  | ldN32Gl (d : Reg) (a : Src) (q : Qual) (o : Fin 64)
  /-- 64-bit core scratchpad load into a pair. (R192) -/
  | ldN64Sp (d : Reg) (a : Src) (q : Qual) (o : Fin 64)
  /-- 64-bit global load into a pair. (R192) -/
  | ldN64Gl (d : Reg) (a : Src) (q : Qual) (o : Fin 64)
  /-- 32-bit load through the read-only path. (R196) -/
  | ldroN32Gl (d : Reg) (a : Src) (o : Fin 64)
  /-- 32-bit lane-private store. (R192) -/
  | stN32Lp (d : Reg) (a : Src) (q : Qual) (o : Fin 64)
  /-- 32-bit core scratchpad store. (R192) -/
  | stN32Sp (d : Reg) (a : Src) (q : Qual) (o : Fin 64)
  /-- 32-bit cluster-shared memory store. (R192) -/
  | stN32Csm (d : Reg) (a : Src) (q : Qual) (o : Fin 64)
  /-- 32-bit chip scratchpad store. (R192) -/
  | stN32Chs (d : Reg) (a : Src) (q : Qual) (o : Fin 64)
  /-- 32-bit global store. (R192) -/
  | stN32Gl (d : Reg) (a : Src) (q : Qual) (o : Fin 64)
  /-- 64-bit core scratchpad store of a pair. (R192) -/
  | stN64Sp (d : Reg) (a : Src) (q : Qual) (o : Fin 64)
  /-- 64-bit global store of a pair. (R192) -/
  | stN64Gl (d : Reg) (a : Src) (q : Qual) (o : Fin 64)
  /-- 64-bit load through the read-only path. (R196) -/
  | ldroN64Gl (d : Reg) (a : Src) (o : Fin 64)
  /-- Atomic add applied indivisibly at the location's home point. (R198) -/
  | atadd (x : AtomOp)
  /-- Atomic bitwise and. (R198) -/
  | atand (x : AtomOp)
  /-- Atomic bitwise or. (R198) -/
  | ator (x : AtomOp)
  /-- Atomic bitwise exclusive or. (R198) -/
  | atxor (x : AtomOp)
  /-- Atomic signed minimum. (R198) -/
  | atminI (x : AtomOp)
  /-- Atomic unsigned minimum. (R198) -/
  | atminN (x : AtomOp)
  /-- Atomic signed maximum. (R198) -/
  | atmaxI (x : AtomOp)
  /-- Atomic unsigned maximum. (R198) -/
  | atmaxN (x : AtomOp)
  /-- Atomic exchange. (R198) -/
  | atxch (x : AtomOp)
  /-- Atomic compare-and-swap. (R198) -/
  | atcas (x : AtomOp) (c : Own)
  /-- Atomic FP32 add under RNE. (R198) -/
  | atfadd (x : AtomOp)
  /-- Indivisible 16-byte compare-and-swap. (R201) -/
  | cas128 (x : Cas128Op)
  /-- Release then acquire at the named scope for RC and SO accesses. (R204) -/
  | fence (sc : Scope)
  /-- Orders every earlier access of every kind at .sy before any later access. (R180) -/
  | fenceAll
  /-- Performs earlier RC and SO accesses at the scope before later pushes send. (R142) -/
  | fencePort (sc : Scope)
  /-- Drops the context's read-only sectors in the core's L1. (R185) -/
  | acqRo
  /-- The run arrives on a named barrier and receives the phase arrived in. (R206) -/
  | barArr (d : Reg) (b : Fin 48)
  /-- Per lane tests a named barrier's phase and arms unreleased threads. (R206) -/
  | barTst (m : Mask) (a : Src) (b : Fin 48)
  /-- Sets a named barrier's participant count. (R206) -/
  | barCnt (a : Src) (b : Fin 48)
  /-- The run arrives on a barrier-tree tag once earlier accesses are performed at its scope. (R207) -/
  | treeArr (d : Reg) (t : Fin 8)
  /-- Per lane tests a tree tag's phase and arms unreleased threads. (R207) -/
  | treeTst (m : Mask) (a : Src) (t : Fin 8)
  /-- Masked bunch synchronisation that succeeds only if every member is in the run. (R208) -/
  | sync (m : Mask) (a : Src)
  /-- Fills the grain of a global address and arms the thread on it. (R209) -/
  | watch (a : Src) (o : Fin 64)
  /-- The lane yields until an armed event or n cycles, then writes its reason code. (R211) -/
  | doze (d : Reg) (imm : Word)
  /-- Announces a push record on an anchor and takes a ticket. (R227) -/
  | annPush (d : Reg) (m : Mask) (a b : Src)
  /-- Announces a pop record on an anchor and takes a ticket. (R227) -/
  | annPop (d : Reg) (m : Mask) (a b : Src)
  /-- Announces an enqueue record on an anchor and takes a ticket. (R227) -/
  | annEnq (d : Reg) (m : Mask) (a b : Src)
  /-- Announces a dequeue record on an anchor and takes a ticket. (R227) -/
  | annDeq (d : Reg) (m : Mask) (a b : Src)
  /-- Announces an add-and-fetch record on an anchor and takes a ticket. (R227) -/
  | annAddf (d : Reg) (m : Mask) (a b : Src)
  /-- Announces a swap-if-equal record on an anchor and takes a ticket. (R227) -/
  | annSwapeq (d : Reg) (m : Mask) (a b : Src)
  /-- Performs or finds done the next step of the lowest unserved ticket of an anchor. (R230) -/
  | help (d : Reg) (a : Src)
  /-- Reads a record's state word as an acquire at .dv. (R229) -/
  | annq (d : Reg) (a : Src)
  /-- Sends a value to the paired port queue if a credit is held, setting the mask bit. (R141) -/
  | push (m : Mask) (a : Src) (p : Port)
  /-- Takes the oldest entry of the lane's port queue if any, returning a credit. (R141) -/
  | pop (d : Reg) (p : Port) (m : Mask)
  /-- Reads the oldest entry of the lane's port queue without removing it. (R141) -/
  | peek (d : Reg) (p : Port) (m : Mask)
  /-- Each lane branches through a target table by its index. (R130) -/
  | brx (a : Src) (imm : Word)
  /-- Pushes the return address and branches to a register target. (R132) -/
  | callx (a : Src)
  /-- Branches each executing lane to a word offset. (R129) -/
  | bra (l : BitVec 24)
  /-- Pushes the return address and branches to a word offset. (R132) -/
  | call (l : BitVec 24)
  /-- Pops the return stack into the counter. (R132) -/
  | ret
  /-- Ends each executing lane's thread and releases its registers. (R133) -/
  | exit
  /-- Raises a software trap with a code in each executing lane. (R134) -/
  | trap (imm : Word)
  /-- Raises the BKPT trap in each executing lane. (R317) -/
  | bkpt
  /-- Appends a command that adds block-scaled source accumulators into destination accumulators. (R260) -/
  | scacc (x : ScaccOp)
  /-- Appends a command that adds accumulators indivisibly into memory pieces. (R262) -/
  | accadd (x : AccaddOp)
  /-- Stores an accumulator's 16 columns to memory after the accumulator interlock. (R238) -/
  | accSt (x : AccOp)
  /-- Loads an accumulator's 16 columns from memory. (R261) -/
  | accLd (x : AccOp)
  /-- Clears every column of an accumulator to +0.0. (R261) -/
  | accClr (acc : Fin 8)
  /-- Synchronous FP16 matrix step that retires when its command retires. (R257) -/
  | mmaF16 (x : MmaOp)
  /-- Appends an FP16 matrix step to the bunch's matrix chain. (R233) -/
  | mmaF16Async (x : MmaOp)
  /-- Synchronous BF16 matrix step. (R257) -/
  | mmaBf16 (x : MmaOp)
  /-- Appends a BF16 matrix step. (R255) -/
  | mmaBf16Async (x : MmaOp)
  /-- Synchronous E4M3 matrix step. (R257) -/
  | mmaE4m3 (x : MmaOp)
  /-- Appends an E4M3 matrix step. (R255) -/
  | mmaE4m3Async (x : MmaOp)
  /-- Synchronous E5M2 matrix step. (R257) -/
  | mmaE5m2 (x : MmaOp)
  /-- Appends an E5M2 matrix step. (R255) -/
  | mmaE5m2Async (x : MmaOp)
  /-- Synchronous INT8 matrix step. (R257) -/
  | mmaI8 (x : MmaOp)
  /-- Appends an INT8 matrix step. (R255) -/
  | mmaI8Async (x : MmaOp)
  /-- Synchronous INT4 matrix step. (R257) -/
  | mmaI4 (x : MmaOp)
  /-- Appends an INT4 matrix step. (R255) -/
  | mmaI4Async (x : MmaOp)
  /-- Synchronous Q4 matrix step. (R257) -/
  | mmaQ4 (x : MmaOp)
  /-- Appends a Q4 matrix step. (R255) -/
  | mmaQ4Async (x : MmaOp)
  /-- Bunch instruction with no effect. (R136) -/
  | nop
  /-- Reads a system register into a scalar register once per run. (R128) -/
  | getsBunch (d : Reg) (r : SysReg)
  /-- Writes a scalar value into a system register for the run. (R128) -/
  | setsBunch (r : SysReg) (a : Reg)
  /-- Writes an immediate into a scalar register. (R136) -/
  | movN32Bunch (d : Reg) (imm : Word)
  /-- Moves one run member's vector value into a scalar register. (R138) -/
  | rdlaneN32 (d a b : Reg)
  /-- Branches the whole run if a scalar register is zero. (R137) -/
  | bz (a : Reg) (imm : Word)
  /-- Branches the whole run if a scalar register is non-zero. (R137) -/
  | bnz (a : Reg) (imm : Word)
  /-- Scalar 32-bit sum. (R136) -/
  | addN32Bunch (d a b : Reg)
  /-- Scalar 64-bit pair sum. (R136) -/
  | addN64Bunch (d a b : Reg)
  /-- Scalar 32-bit difference. (R136) -/
  | subN32Bunch (d a b : Reg)
  /-- Scalar 64-bit pair difference. (R136) -/
  | subN64Bunch (d a b : Reg)
  /-- Scalar low 32 bits of the product. (R136) -/
  | mulloN32Bunch (d a b : Reg)
  /-- Scalar bitwise and. (R136) -/
  | andN32Bunch (d a b : Reg)
  /-- Scalar bitwise or. (R136) -/
  | orN32Bunch (d a b : Reg)
  /-- Scalar bitwise exclusive or. (R136) -/
  | xorN32Bunch (d a b : Reg)
  /-- Scalar left shift by a register count. (R136) -/
  | shlN32Bunch (d a b : Reg)
  /-- Scalar logical right shift by a register count. (R136) -/
  | shrN32Bunch (d a b : Reg)
  /-- Scalar arithmetic right shift by a register count. (R136) -/
  | sarI32Bunch (d a b : Reg)
  /-- Scalar signed minimum. (R136) -/
  | minI32Bunch (d a b : Reg)
  /-- Scalar unsigned minimum. (R136) -/
  | minN32Bunch (d a b : Reg)
  /-- Scalar signed maximum. (R136) -/
  | maxI32Bunch (d a b : Reg)
  /-- Scalar unsigned maximum. (R136) -/
  | maxN32Bunch (d a b : Reg)
  /-- Scalar 1 if equal, else 0. (R136) -/
  | seqN32 (d a b : Reg)
  /-- Scalar 1 if signed less than, else 0. (R136) -/
  | sltI32 (d a b : Reg)
  /-- Scalar 1 if unsigned less than, else 0. (R136) -/
  | sltN32 (d a b : Reg)
  /-- Scalar 32-bit sum with an immediate. (R136) -/
  | addN32BunchImm (d a : Reg) (imm : Word)
  /-- Scalar 64-bit pair sum with a sign-extended immediate. (R136) -/
  | addN64BunchImm (d a : Reg) (imm : Word)
  /-- Scalar bitwise and with an immediate. (R136) -/
  | andN32BunchImm (d a : Reg) (imm : Word)
  /-- Scalar left shift by an immediate. (R136) -/
  | shlN32BunchImm (d a : Reg) (imm : Word)
  /-- Scalar logical right shift by an immediate. (R136) -/
  | shrN32BunchImm (d a : Reg) (imm : Word)
  /-- One 32-bit global load per run into a scalar register. (R139) -/
  | ldN32GlBunch (d a : Reg) (q : Qual) (o : Fin 64)
  /-- One 64-bit global load per run into a scalar pair. (R139) -/
  | ldN64GlBunch (d a : Reg) (q : Qual) (o : Fin 64)
  /-- One 32-bit global store per run from a scalar register. (R139) -/
  | stN32GlBunch (d a : Reg) (q : Qual) (o : Fin 64)
  /-- One 64-bit global store per run from a scalar pair. (R139) -/
  | stN64GlBunch (d a : Reg) (q : Qual) (o : Fin 64)
  /-- One 32-bit chip scratchpad load per run. (R139) -/
  | ldN32ChsBunch (d a : Reg) (q : Qual) (o : Fin 64)
  /-- One 32-bit chip scratchpad store per run. (R139) -/
  | stN32ChsBunch (d a : Reg) (q : Qual) (o : Fin 64)
  /-- One 32-bit core scratchpad load per run. (R139) -/
  | ldN32SpBunch (d a : Reg) (q : Qual) (o : Fin 64)
  /-- One 32-bit core scratchpad store per run. (R139) -/
  | stN32SpBunch (d a : Reg) (q : Qual) (o : Fin 64)
  /-- Appends a copy job described by a scalar job card to the copy chain. (R265) -/
  | copy (a : Reg) (ss ds : ASpace)
  /-- Closes the bunch's open batch on an engine. (R235) -/
  | commit (e : Eng)
  /-- Interlocks the run until an engine's sequence number reaches n, then acquires. (R235) -/
  | bwait (e : Eng) (imm : Word)
  /-- Takes a handle and subscribes a scratchpad ring to picker tile service. (R268) -/
  | subs (d a : Reg) (nslot : Fin 64) (base : BitVec 20)
  /-- Ends the subscription named by a handle. (R269) -/
  | unsub (a : Reg)
  /-- Sets the group's trap routine, frame base and debug control. (R313) -/
  | settrap (d a b : Reg)
  /-- Returns each thread of the run from its trap routine to its RESUME address. (R316) -/
  | rtt
  /-- Halts the group with REASON 3. (R318) -/
  | halt
  /-- A fixed count of cycles after the last send, every core of the instance flips its phase and fires TRE. (R77) -/
  | treeRelease
  /-- n cycles after issue a dozing thread's doze ends with EXP. (R67) -/
  | dozeExpiry
  /-- An armed event reaching the core ends the thread's doze within 64 cycles or is held pending. (R70) -/
  | wakeEvent
  /-- A pushed entry enters the paired queue after its transfer and fires the popper's PRT event. (R96) -/
  | portEntryArrival
  /-- A returned credit reaches the pusher and fires its PRT event. (R96) -/
  | portCreditArrival
  /-- Each cycle the core nominates one run per bunch and issues runs to the lane pipes and bunch pipe. (R62) -/
  | issueCycle
  /-- A run's age count reaches 64 and the run becomes urgent. (R63) -/
  | runUrgent
  /-- A load's value returns and is written to the lane's destination. (R192) -/
  | loadReturn
  /-- A run's atomic requests are applied indivisibly in lane order at the home point. (R199) -/
  | atomicApply
  /-- A remote .csm access reaches the target core and is applied, or discarded after departure. (R145) -/
  | csmRemoteArrival
  /-- A shared-cache slice accepts a request or queues it behind a locked block. (R164) -/
  | sliceRequest
  /-- A block's line lock clears and its conflict queue is replayed in arrival order. (R164) -/
  | lineLockClear
  /-- A directory invalidation reaches an L1, writing back a dirty copy and firing WCH or EVC. (R165) -/
  | directoryInvalidate
  /-- A cluster TLB miss walks the four-level page tables and fills the TLB or faults. (R156) -/
  | pageWalk
  /-- The matrix engine begins a chain's head command and accumulates its products. (R234) -/
  | mmaExecute
  /-- The matrix engine performs a SCACC command. (R260) -/
  | scaccExecute
  /-- The matrix engine applies an ACCADD command's pieces through the drain path. (R262) -/
  | accaddExecute
  /-- The copy engine starts a job once its edges allow and writes its destination words. (R265) -/
  | copyJobExecute
  /-- An engine command retires, releasing held accesses and later edges. (R252) -/
  | engineCommandRetire
  /-- A picker reads the next tile into a FREE slot and writes FULL as a release. (R268) -/
  | pickerFill
  /-- A DONE store to a FULL slot makes the picker write the slot back and mark it FREE. (R268) -/
  | pickerPullback
  /-- A write to DB_q makes the easel examine queue q. (R277) -/
  | doorbell
  /-- Every 65 536 easel cycles the easel examines every enabled queue and accepts published entries. (R277) -/
  | queuePollExpiry
  /-- Accepts a launch, captures its header and sends it to the palette. (R282) -/
  | launch
  /-- Accepts a graph of node launches with explicit and derived edges. (R285) -/
  | graph
  /-- Opens or closes a basket that coalesces posted records into groups. (R286) -/
  | basket
  /-- Writes back dirty sectors of SI grains of a range in every L1 and invalidates them. (R189) -/
  | settle
  /-- Invalidates translations of a range in every cluster TLB and the matching L1 lines. (R160) -/
  | tlbinv
  /-- Moves a page to a new home by stop and copy, or refuses. (R289) -/
  | migrate
  /-- Unwraps a key and loads an HBM encryption key slot. (R292) -/
  | keyload
  /-- Starts nothing after it until every earlier entry of the queue has completed. (R278) -/
  | wait
  /-- Every group has exited and its work is performed; the journal and completion word are written. (R278) -/
  | launchComplete
  /-- A node completes, its branch is read and its outgoing edges resolve. (R285) -/
  | graphNodeComplete
  /-- Every L1 has finished the SETTLE and the entry completes. (R189) -/
  | settleComplete
  /-- The invalidation completes once engine commands using the page have retired. (R266) -/
  | tlbinvComplete
  /-- The page copy ends, entries are rewritten and queued accesses are forwarded and replayed. (R289) -/
  | migrateCopyComplete
  /-- In-flight accesses of the slot are done and the new key is in force. (R292) -/
  | keyloadComplete
  /-- Each easel cycle the palette places, reserves or waits items in priority order. (R284) -/
  | paletteDispatch
  /-- The drain, spills and scalar wait end and the waiting group becomes resident. (R91) -/
  | placementResume
  /-- The easel counts a newly published basket record and fires when the count reaches C. (R287) -/
  | basketCount
  /-- A basket's countdown expires and fires a group with the counted records. (R287) -/
  | basketCountdownExpiry
  /-- At least every 65 536 easel cycles the easel reads RESP words of open entries as an acquire. (R319) -/
  | errorLogPoll
  /-- Host answer 1: the entry's parked lanes replay their instruction. (R319) -/
  | respReplay
  /-- Host answer 2 or higher: the group halts with REASON 1. (R319) -/
  | respHalt
  /-- Answer 3 in a KIND 2 entry releases every dumped halted group of the launch. (R321) -/
  | respRelease
  /-- A halt reaches a core and stops the launch's groups there, making in-core stores pending. (R298) -/
  | haltArrival
  /-- After its drain a core writes the halted group's dump header and sections. (R301) -/
  | groupDump
  /-- The firmware stops, drains and saves every resident group of a context. (R322) -/
  | contextSave
  /-- The firmware places a saved context again and rebuilds its state before any issue. (R324) -/
  | contextRestore
  /-- Every PERIOD × 256 cycles the core writes a stall sample record. (R328) -/
  | stallSample
  /-- A debug record not taken within 256 cycles is dropped and counted. (R325) -/
  | debugRecordDrop
  /-- The firmware lowers the clock of every core and cache die together near a limit. (R295) -/
  | clockThrottle
  /-- A junction temperature of 105 °C halts every resident launch. (R295) -/
  | thermalHalt
  /-- Every link to a peer goes down and accesses to its window fault with LINKTO. (R288) -/
  | linkDown
  /-- A system-scope atomic's completion does not return and the lane takes LINKTO. (R274) -/
  | linkTimeout
  /-- A peer's access to local HBM is served at its home slice. (R288) -/
  | inboundPeerAccess
  /-- The firmware raises a dead agent's incarnation and scrubs its directory entries. (R290) -/
  | declareAgentDead
  /-- A firmware image runs only if both signatures and its security version verify. (R294) -/
  | firmwareImageVerify
  /-- The module leaves reset and every core's cycle count starts at 0. (R127) -/
  | moduleReset
  /-- A write to a device register without behaviour of its own, taken only from the trusted firmware. (R275) -/
  | registerWrite
  /-- A host processor or device access arriving over PCI Express or CXL.mem is served at the home slice of local HBM as a system-scope agent's access. (R170) -/
  | hostInboundAccess
  /-- A link to a peer or the host comes up again and traffic to that window is carried over it once more. (R288) -/
  | linkUp
  /-- An agent declared dead returns and rejoins with its new incarnation number. (R290) -/
  | agentRejoin
  /-- The pickers acknowledge the end of a subscription and its handle becomes free for a later SUBS. (R269) -/
  | pickerAcknowledge
  /-- A retired store or write-back is written in the owning L1 or accepted at its home point, and its acknowledgement ends the waits of releases and fences on it. (R172) -/
  | storePerformed
  /-- The fetch of a thread's next instruction word returns, making the thread eligible or raising a fetch fault at that word. (R61) -/
  | instructionFetch
  deriving DecidableEq, Repr

/-- The rows that are steps of another agent than an issued run: no word encodes them (95_what_each_step_holds). -/
def Instr.isEvent : Instr → Bool
  | .illegal _ => false
  | .gets _ _ => false
  | .sets _ _ => false
  | .movuN32 _ _ => false
  | .movuN64 _ _ => false
  | .addN32 _ _ _ => false
  | .addN64 _ _ _ => false
  | .subN32 _ _ _ => false
  | .subN64 _ _ _ => false
  | .mulloN32 _ _ _ => false
  | .mulhiI32 _ _ _ => false
  | .mulhiN32 _ _ _ => false
  | .shaddN64 _ _ _ => false
  | .andN32 _ _ _ => false
  | .orN32 _ _ _ => false
  | .xorN32 _ _ _ => false
  | .shlN32 _ _ _ => false
  | .shlN64 _ _ _ => false
  | .shrN32 _ _ _ => false
  | .shrN64 _ _ _ => false
  | .sarI32 _ _ _ => false
  | .sarI64 _ _ _ => false
  | .minI32 _ _ _ => false
  | .minN32 _ _ _ => false
  | .maxI32 _ _ _ => false
  | .maxN32 _ _ _ => false
  | .bfxN32 _ _ _ => false
  | .bfxI32 _ _ _ => false
  | .bfiN32 _ _ _ => false
  | .addsatI32 _ _ _ => false
  | .addsatN32 _ _ _ => false
  | .subsatI32 _ _ _ => false
  | .subsatN32 _ _ _ => false
  | .movN32 _ _ => false
  | .movN64 _ _ => false
  | .notN32 _ _ => false
  | .negI32 _ _ => false
  | .absI32 _ _ => false
  | .negI64 _ _ => false
  | .popcN32 _ _ => false
  | .clzN32 _ _ => false
  | .brevN32 _ _ => false
  | .sextI8 _ _ => false
  | .sextI16 _ _ => false
  | .absF32 _ _ => false
  | .negF32 _ _ => false
  | .rcpF32 _ _ => false
  | .rsqF32 _ _ => false
  | .floorF32 _ _ => false
  | .ceilF32 _ _ => false
  | .truncF32 _ _ => false
  | .rintF32 _ _ => false
  | .getexpF32 _ _ => false
  | .getmantF32 _ _ => false
  | .absF16 _ _ => false
  | .negF16 _ _ => false
  | .rcpF16 _ _ => false
  | .absBf16 _ _ => false
  | .negBf16 _ _ => false
  | .cvtI32F32 _ _ _ => false
  | .cvtN32F32 _ _ _ => false
  | .cvtF32I32 _ _ => false
  | .cvtF32N32 _ _ => false
  | .cvtF16F32 _ _ _ => false
  | .cvtBf16F32 _ _ _ => false
  | .cvtE4m3F32 _ _ _ => false
  | .cvtE5m2F32 _ _ _ => false
  | .cvtF32F16 _ _ => false
  | .cvtF32Bf16 _ _ => false
  | .cvtF32E4m3 _ _ => false
  | .cvtF32E5m2 _ _ => false
  | .cvtQ4F32 _ _ => false
  | .cvtF32Q4 _ _ => false
  | .cvtI4I32 _ _ _ => false
  | .cvtI32I4 _ _ => false
  | .cvtN8I32 _ _ _ => false
  | .cvtN16I32 _ _ _ => false
  | .cvtN8N32 _ _ _ => false
  | .cvtN16N32 _ _ _ => false
  | .movN32Imm _ _ => false
  | .addN32Imm _ _ _ => false
  | .addN64Imm _ _ _ => false
  | .mulloN32Imm _ _ _ => false
  | .andN32Imm _ _ _ => false
  | .orN32Imm _ _ _ => false
  | .shlN32Imm _ _ _ => false
  | .shlN64Imm _ _ _ => false
  | .shrN32Imm _ _ _ => false
  | .sarI32Imm _ _ _ => false
  | .cmpI32Imm _ _ _ _ => false
  | .addF32Imm _ _ _ => false
  | .mulF32Imm _ _ _ => false
  | .shflup _ _ _ => false
  | .shfldn _ _ _ => false
  | .shflx _ _ _ => false
  | .addF32 _ _ _ => false
  | .subF32 _ _ _ => false
  | .mulF32 _ _ _ => false
  | .fmadF32 _ _ _ => false
  | .minF32 _ _ _ => false
  | .maxF32 _ _ _ => false
  | .scalexpF32 _ _ _ => false
  | .addF16 _ _ _ => false
  | .mulF16 _ _ _ => false
  | .fmadF16 _ _ _ => false
  | .fmadBf16 _ _ _ => false
  | .cmpI32 _ _ _ _ => false
  | .cmpN32 _ _ _ _ => false
  | .cmpF32 _ _ _ _ => false
  | .selN32 _ _ _ => false
  | .ballot _ _ => false
  | .mand _ _ _ => false
  | .mor _ _ _ => false
  | .mxor _ _ _ => false
  | .mget _ _ => false
  | .mset _ _ => false
  | .shfl _ _ _ => false
  | .match _ _ => false
  | .rdaddN32 _ _ => false
  | .ldN32Lp _ _ _ _ => false
  | .ldN32Sp _ _ _ _ => false
  | .ldN32Csm _ _ _ _ => false
  | .ldN32Chs _ _ _ _ => false
  | .ldN32Gl _ _ _ _ => false
  | .ldN64Sp _ _ _ _ => false
  | .ldN64Gl _ _ _ _ => false
  | .ldroN32Gl _ _ _ => false
  | .stN32Lp _ _ _ _ => false
  | .stN32Sp _ _ _ _ => false
  | .stN32Csm _ _ _ _ => false
  | .stN32Chs _ _ _ _ => false
  | .stN32Gl _ _ _ _ => false
  | .stN64Sp _ _ _ _ => false
  | .stN64Gl _ _ _ _ => false
  | .ldroN64Gl _ _ _ => false
  | .atadd _ => false
  | .atand _ => false
  | .ator _ => false
  | .atxor _ => false
  | .atminI _ => false
  | .atminN _ => false
  | .atmaxI _ => false
  | .atmaxN _ => false
  | .atxch _ => false
  | .atcas _ _ => false
  | .atfadd _ => false
  | .cas128 _ => false
  | .fence _ => false
  | .fenceAll => false
  | .fencePort _ => false
  | .acqRo => false
  | .barArr _ _ => false
  | .barTst _ _ _ => false
  | .barCnt _ _ => false
  | .treeArr _ _ => false
  | .treeTst _ _ _ => false
  | .treeRelease => true
  | .sync _ _ => false
  | .watch _ _ => false
  | .doze _ _ => false
  | .dozeExpiry => true
  | .wakeEvent => true
  | .annPush _ _ _ _ => false
  | .annPop _ _ _ _ => false
  | .annEnq _ _ _ _ => false
  | .annDeq _ _ _ _ => false
  | .annAddf _ _ _ _ => false
  | .annSwapeq _ _ _ _ => false
  | .help _ _ => false
  | .annq _ _ => false
  | .push _ _ _ => false
  | .pop _ _ _ => false
  | .peek _ _ _ => false
  | .portEntryArrival => true
  | .portCreditArrival => true
  | .brx _ _ => false
  | .callx _ => false
  | .bra _ => false
  | .call _ => false
  | .ret => false
  | .exit => false
  | .trap _ => false
  | .bkpt => false
  | .scacc _ => false
  | .accadd _ => false
  | .accSt _ => false
  | .accLd _ => false
  | .accClr _ => false
  | .mmaF16 _ => false
  | .mmaF16Async _ => false
  | .mmaBf16 _ => false
  | .mmaBf16Async _ => false
  | .mmaE4m3 _ => false
  | .mmaE4m3Async _ => false
  | .mmaE5m2 _ => false
  | .mmaE5m2Async _ => false
  | .mmaI8 _ => false
  | .mmaI8Async _ => false
  | .mmaI4 _ => false
  | .mmaI4Async _ => false
  | .mmaQ4 _ => false
  | .mmaQ4Async _ => false
  | .nop => false
  | .getsBunch _ _ => false
  | .setsBunch _ _ => false
  | .movN32Bunch _ _ => false
  | .rdlaneN32 _ _ _ => false
  | .bz _ _ => false
  | .bnz _ _ => false
  | .addN32Bunch _ _ _ => false
  | .addN64Bunch _ _ _ => false
  | .subN32Bunch _ _ _ => false
  | .subN64Bunch _ _ _ => false
  | .mulloN32Bunch _ _ _ => false
  | .andN32Bunch _ _ _ => false
  | .orN32Bunch _ _ _ => false
  | .xorN32Bunch _ _ _ => false
  | .shlN32Bunch _ _ _ => false
  | .shrN32Bunch _ _ _ => false
  | .sarI32Bunch _ _ _ => false
  | .minI32Bunch _ _ _ => false
  | .minN32Bunch _ _ _ => false
  | .maxI32Bunch _ _ _ => false
  | .maxN32Bunch _ _ _ => false
  | .seqN32 _ _ _ => false
  | .sltI32 _ _ _ => false
  | .sltN32 _ _ _ => false
  | .addN32BunchImm _ _ _ => false
  | .addN64BunchImm _ _ _ => false
  | .andN32BunchImm _ _ _ => false
  | .shlN32BunchImm _ _ _ => false
  | .shrN32BunchImm _ _ _ => false
  | .ldN32GlBunch _ _ _ _ => false
  | .ldN64GlBunch _ _ _ _ => false
  | .stN32GlBunch _ _ _ _ => false
  | .stN64GlBunch _ _ _ _ => false
  | .ldN32ChsBunch _ _ _ _ => false
  | .stN32ChsBunch _ _ _ _ => false
  | .ldN32SpBunch _ _ _ _ => false
  | .stN32SpBunch _ _ _ _ => false
  | .copy _ _ _ => false
  | .commit _ => false
  | .bwait _ _ => false
  | .subs _ _ _ _ => false
  | .unsub _ => false
  | .settrap _ _ _ => false
  | .rtt => false
  | .halt => false
  | .issueCycle => true
  | .runUrgent => true
  | .loadReturn => true
  | .atomicApply => true
  | .csmRemoteArrival => true
  | .sliceRequest => true
  | .lineLockClear => true
  | .directoryInvalidate => true
  | .pageWalk => true
  | .mmaExecute => true
  | .scaccExecute => true
  | .accaddExecute => true
  | .copyJobExecute => true
  | .engineCommandRetire => true
  | .pickerFill => true
  | .pickerPullback => true
  | .doorbell => true
  | .queuePollExpiry => true
  | .launch => true
  | .graph => true
  | .basket => true
  | .settle => true
  | .tlbinv => true
  | .migrate => true
  | .keyload => true
  | .wait => true
  | .launchComplete => true
  | .graphNodeComplete => true
  | .settleComplete => true
  | .tlbinvComplete => true
  | .migrateCopyComplete => true
  | .keyloadComplete => true
  | .paletteDispatch => true
  | .placementResume => true
  | .basketCount => true
  | .basketCountdownExpiry => true
  | .errorLogPoll => true
  | .respReplay => true
  | .respHalt => true
  | .respRelease => true
  | .haltArrival => true
  | .groupDump => true
  | .contextSave => true
  | .contextRestore => true
  | .stallSample => true
  | .debugRecordDrop => true
  | .clockThrottle => true
  | .thermalHalt => true
  | .linkDown => true
  | .linkTimeout => true
  | .inboundPeerAccess => true
  | .declareAgentDead => true
  | .firmwareImageVerify => true
  | .moduleReset => true
  | .registerWrite => true
  | .hostInboundAccess => true
  | .linkUp => true
  | .agentRejoin => true
  | .pickerAcknowledge => true
  | .storePerformed => true
  | .instructionFetch => true

end Sys2Proof
end

