-- ==== Sys2Proof/Machine/Operands.lean ====
section
/-! DEFINITION. Machine/Operands.lean: what the operand forms select (the crossbar of R41, immediates of R37) and the
functions of one lane's operand values: the integer forms (R104 to R107), the packed and single float forms (R111 to
R113), the conversions (R114 to R116) and the conditions (R117). A 32-bit operand is held zero-extended to 64 bits; a
pair has its low word in bits [31:0]. -/

namespace Sys2Proof.Machine

/-- The lane that an executing lane reads through a crossbar pattern (R41). -/
def patLane (p : Pat) (l : Fin 32) : Fin 32 :=
  match p with
  | .self => l
  | .rot k => Fin.ofNat 32 (l.val + k.val)
  | .bfly k => Fin.ofNat 32 (l.val ^^^ k.val)
  | .mir => Fin.ofNat 32 (31 - l.val)
  | .bc k => k

/-- Low and high words of a 64-bit value. -/
def lowWord (x : DWord) : Word := x.setWidth 32
def highWord (x : DWord) : Word := (x >>> 32).setWidth 32
/-- A pair's value from its words (R99). -/
def pairOf (lo hi : Word) : DWord := hi ++ lo
/-- The immediate of a 64-bit operation (R37). -/
def immSext (imm : Word) : DWord := imm.signExtend 64
/-- The FP16 or BF16 halves of a word (R112). -/
def loHalf (w : Word) : Nat := w.toNat % 65536
def hiHalf (w : Word) : Nat := w.toNat / 65536
def ofHalves (lo hi : Nat) : Word := BitVec.ofNat 32 (hi * 65536 + lo)

/-! ## Integer and logic (R104 to R107) -/

def mulhiI (a b : Word) : Word := ((a.signExtend 64 * b.signExtend 64) >>> 32).setWidth 32
def mulhiN (a b : Word) : Word := ((a.setWidth 64 * b.setWidth 64) >>> 32).setWidth 32
def minI (a b : Word) : Word := if a.toInt ≤ b.toInt then a else b
def maxI (a b : Word) : Word := if a.toInt ≤ b.toInt then b else a
def minN (a b : Word) : Word := if a.toNat ≤ b.toNat then a else b
def maxN (a b : Word) : Word := if a.toNat ≤ b.toNat then b else a
def addsatI (a b : Word) : Word := clampI32 (a.toInt + b.toInt)
def subsatI (a b : Word) : Word := clampI32 (a.toInt - b.toInt)
def addsatN (a b : Word) : Word := clampN32 (a.toNat + b.toNat)
def subsatN (a b : Word) : Word := clampN32 ((a.toNat : Int) - b.toNat)

/-- Shifts by a 32-bit unsigned count, which may reach or pass the width (R105). -/
def shl {w : Nat} (a : BitVec w) (c : Word) : BitVec w := if w ≤ c.toNat then 0 else a <<< c.toNat
def shr {w : Nat} (a : BitVec w) (c : Word) : BitVec w := if w ≤ c.toNat then 0 else a >>> c.toNat
def sar {w : Nat} (a : BitVec w) (c : Word) : BitVec w :=
  if w ≤ c.toNat then (if a.msb then BitVec.allOnes w else 0) else a.sshiftRight c.toNat
def shadd (a : DWord) (b : Word) : DWord := a + (b.signExtend 64 <<< 2)

/-- Position and length of a bit field, cut at bit 31 (R106). -/
def fieldPos (b : Word) : Nat := b.toNat % 32
def fieldLen (b : Word) : Nat := min (b.toNat / 256 % 64) (32 - fieldPos b)
def fieldMask (b : Word) : Word := BitVec.ofNat 32 ((2 ^ fieldLen b - 1) * 2 ^ fieldPos b)
def bfxN (a b : Word) : Word := (a &&& fieldMask b) >>> fieldPos b
def bfxI (a b : Word) : Word :=
  if fieldLen b = 0 then 0
  else if (bfxN a b).getLsbD (fieldLen b - 1) then bfxN a b ||| ~~~ BitVec.ofNat 32 (2 ^ fieldLen b - 1)
  else bfxN a b
def bfi (old a b : Word) : Word := (old &&& ~~~ fieldMask b) ||| ((a <<< fieldPos b) &&& fieldMask b)

def absI (a : Word) : Word := if a.msb then -a else a
/-- Number of one bits, and of leading zero bits, and the bits mirrored (R107). -/
def popc (a : Word) : Word := BitVec.ofNat 32 ((List.range 32).countP fun i => a.getLsbD i)
def clz (a : Word) : Word := BitVec.ofNat 32 (if a = 0 then 32 else 31 - Nat.log2 a.toNat)
def brev (a : Word) : Word := a.reverse
def sext8 (a : Word) : Word := (a.setWidth 8).signExtend 32
def sext16 (a : Word) : Word := (a.setWidth 16).signExtend 32

/-! ## Floating point -/

/-- A lane's result: 64 bits (a 32-bit result in the low half) and the exceptions raised. -/
structure LaneRes where
  val : DWord
  exc : Exc
  deriving DecidableEq, Repr

def LaneRes.int (w : Word) : LaneRes := ⟨w.setWidth 64, 0⟩
def LaneRes.pair (x : DWord) : LaneRes := ⟨x, 0⟩
def LaneRes.ofF (r : FRes) : LaneRes := ⟨BitVec.ofNat 64 r.code, r.exc⟩
/-- Two packed halves, with the union of their exceptions (R112). -/
def LaneRes.halves (lo hi : FRes) : LaneRes := ⟨(ofHalves lo.code hi.code).setWidth 64, lo.exc ||| hi.exc⟩

def f32op (f : RM → Nat → Nat → FRes) (rm : RM) (a b : Word) : LaneRes := .ofF (f rm a.toNat b.toNat)
def f16op (f : RM → Nat → Nat → FRes) (rm : RM) (a b : Word) : LaneRes :=
  .halves (f rm (loHalf a) (loHalf b)) (f rm (hiHalf a) (hiHalf b))
def fmadHalves (f : Fmt) (rm : RM) (c a b : Word) : LaneRes :=
  .halves (f.fmad rm (loHalf c) (loHalf a) (loHalf b)) (f.fmad rm (hiHalf c) (hiHalf a) (hiHalf b))

def absF (a : Word) : Word := a &&& 0x7FFFFFFF
def negF (a : Word) : Word := a ^^^ 0x80000000
def absHalves (a : Word) : Word := a &&& 0x7FFF7FFF
def negHalves (a : Word) : Word := a ^^^ 0x80008000

/-! ## Conversions -/

def cvtI32F32 (rm : RM) (sat : Bool) (a : Word) : LaneRes :=
  .ofF (cvtToInt rm (-2147483648) 2147483647 0x80000000 sat a.toNat)
def cvtN32F32 (rm : RM) (sat : Bool) (a : Word) : LaneRes := .ofF (cvtToInt rm 0 4294967295 0 sat a.toNat)
/-- Integer narrowing (R116): clamped to lo … hi with SAT, else the low bits; x is the source as an integer. -/
def clampTo (lo hi x : Int) : Word := BitVec.ofInt 32 (if x < lo then lo else if hi < x then hi else x)
def narrowN (bits : Nat) (sat : Bool) (x : Int) (a : Word) : Word :=
  if sat then clampTo 0 (2 ^ bits - 1) x else a &&& BitVec.ofNat 32 (2 ^ bits - 1)
def cvtI4I32 (sat : Bool) (a : Word) : Word :=
  if sat then clampTo (-8) 7 a.toInt else (a.setWidth 4).signExtend 32
def cvtI32I4 (a : Word) : Word := (a.setWidth 4).signExtend 32

/-! ## Conditions (R117) -/

def icondN (c : ICond) (a b : Word) : Bool :=
  match c with
  | .eq => a == b
  | .ne => a != b
  | .lt => decide (a.toNat < b.toNat)
  | .le => decide (a.toNat ≤ b.toNat)
  | .gt => decide (b.toNat < a.toNat)
  | .ge => decide (b.toNat ≤ a.toNat)
  | .tst => (a &&& b) != 0
  | .ntst => (a &&& b) == 0
def icondI (c : ICond) (a b : Word) : Bool :=
  match c with
  | .eq => a == b
  | .ne => a != b
  | .lt => decide (a.toInt < b.toInt)
  | .le => decide (a.toInt ≤ b.toInt)
  | .gt => decide (b.toInt < a.toInt)
  | .ge => decide (b.toInt ≤ a.toInt)
  | .tst => (a &&& b) != 0
  | .ntst => (a &&& b) == 0
/-- CMP.f32: the condition and NV for a signalling NaN. -/
def fcond (c : FCond) (a b : Word) : Bool × Exc :=
  let x := fp32.read a.toNat
  let y := fp32.read b.toNat
  let un := x.isNan || y.isNan
  let d := cmpVal x y
  let r := match c with
    | .eq => !un && decide (d = 0)
    | .ne => un || decide (d ≠ 0)
    | .lt => !un && decide (d < 0)
    | .le => !un && decide (d ≤ 0)
    | .gt => !un && decide (0 < d)
    | .ge => !un && decide (0 ≤ d)
    | .un => un
    | .ord => !un
  (r, Exc.when (x.isSig || y.isSig) Exc.nv)

end Sys2Proof.Machine
end

