-- ==== Sys2Proof/Config.lean ====
section
/-! DEFINITION. Config.lean: the figures the spec fixes for the part, and the FREE VALUES it leaves open
(opaque constants without a body: no proof can see what they are). -/

namespace Sys2Proof.Config

/-! ## Figures of the part -/

/-- Compute stacks of the module (R1). -/
def stackCount : Nat := 8
/-- Rows and columns of a compute die (R2). -/
def side : Nat := 12
/-- Cores of one stack (R2). -/
def coresPerStack : Nat := 144
/-- Cores of the module (R4). -/
def cores : Nat := 1152
/-- Lanes of a bunch (R7). -/
def lanes : Nat := 32
/-- Vector-pool entries of a core (R87). -/
def vectorPool : Nat := 3072
/-- Scalar-pool entries of a core (R87). -/
def scalarPool : Nat := 4096
/-- Vector-pool floor of a resident bunch (R87). -/
def vectorFloor : Nat := 24
/-- Scalar registers of a bunch, each with an entry in reserve until written (R89). -/
def scalarRegs : Nat := 64
/-- Thread-rows of a matrix core's accumulator file (R87). -/
def accRows : Nat := 8192
/-- Groups, bunches and threads a core can hold (R58). -/
def maxGroups : Nat := 16
def maxBunches : Nat := 64
def maxThreads : Nat := 2048
/-- Named barriers of a core (R4). -/
def maxBarriers : Nat := 48
/-- Commands a chain holds (R251). -/
def chainPlaces : Nat := 16
/-- Copy jobs a core's copy engine holds at once (R252). -/
def copyJobs : Nat := 8
/-- Stores inside a core at once (R306). -/
def coreStores : Nat := 256
/-- Entries of a slice's conflict queue, per pipeline (R164). -/
def conflictPlaces : Nat := 16
/-- Lane pipes of a core (R62). -/
def lanePipes : Nat := 4
/-- Age at which a run becomes urgent (R63). -/
def urgentAge : Nat := 64
/-- Cycles between two examinations without a doorbell, and between two readings of RESP (R277, R319). -/
def pollCycles : Nat := 65536
/-- Entries of a cluster TLB (R160). -/
def tlbEntries : Nat := 8192
/-- Sets and ways of a slice (R164), and slices of a cache die (R3). -/
def sliceSets : Nat := 256
def sliceWays : Nat := 12
/-- Sets and fixed ways of an L1 (R151). -/
def l1Sets : Nat := 32
def l1Ways : Nat := 8
/-- Bytes of a scratchpad chunk (R149). -/
def chunkBytes : Nat := 16384
/-- Queues and contexts (R276, R281). -/
def queues : Nat := 16384
def contexts : Nat := 4096
/-- Entries of a journal ring and of the error log ring (R279, R320). -/
def journalRing : Nat := 65536
def errorRing : Nat := 16384
/-- Key slots of the HBM controllers (R291). -/
def keySlots : Nat := 8192
/-- Bytes of a group's debug area and of one record (R325). -/
def debugArea : Nat := 131072
def debugRecord : Nat := 512
/-- Fixed times of the barrier tree by span: cluster, stack, module (R77). -/
def treeCycles : Nat → Nat
  | 1 => 12
  | 2 => 36
  | _ => 110

/-! ## Free values (each has a row in notes/assumptions) -/

/-- FREE VALUE (log 12): the byte read at an offset of the device window that the spec assigns to no register. -/
opaque deviceByte : Nat → BitVec 8

/-- FREE VALUE (log 13): whether a wrapped key (72 bytes, as a list) verifies, and the key it holds: the two 256-bit keys
of AES-256 in XTS mode (R291, R292). The device key and RFC 3394 are outside the model. -/
opaque unwrapKey : List (BitVec 8) → Option (BitVec 512)

/-- FREE VALUE (log 13): the bytes that a sector of HBM, enciphered under one key, shows when deciphered under another
(R161): the key written under, the key read under, the sector's number, its plain bytes; byte k of 32. The key 0 is the
null key's plaintext. -/
opaque decipher : BitVec 512 → BitVec 512 → Nat → List (BitVec 8) → Nat → BitVec 8

/-- FREE VALUE (log 14): whether both signatures of a firmware image verify (R294). -/
opaque signaturesVerify : Nat → Bool

/-- FREE VALUE (log 15): the place in a window where a migrated page comes to lie: window, old address, a count (R289). -/
opaque migratePlace : Nat → Nat → Nat → Nat

end Sys2Proof.Config
end

