-- ==== Sys2Proof/Machine/State.lean ====
section
/-! DEFINITION. Machine/State.lean: everything the spec gives the machine, as plain data. One State is the whole module:
its cores (with the groups resident on them), caches, memory, easels, links and firmware. Sparse things are lists of
records; what a list does not name stands at its reset value. Fields marked MODEL'S OWN are not the spec's: they order
the steps (log 1) and number records (log 9). -/

namespace Sys2Proof.Machine

/-! ## Registers of a bunch and its threads -/

/-- The representation of a vector register (R82). The values of a spilled register stand in lane-private memory. -/
inductive Rep where
  | released
  | full (vals : Vector Word 32)
  | compressed (v : Word)
  | spilled
  deriving DecidableEq, Repr

/-- A rename record (R82): live mask, representation, the lanes whose value a refill loaded poisoned (R93), and the
place of the last access in issue order (R90). -/
structure VReg where
  live : Lanes
  rep : Rep
  bad : Lanes
  access : Nat
  deriving DecidableEq, Repr

/-- One accumulator of a thread: 16 columns (R80) and their poison marks (R258). -/
structure AccRow where
  cols : Vector Word 16
  poison : BitVec 16
  deriving DecidableEq, Repr

/-- What a thread is doing (R61, R67, R133, R289, R319). A dozing thread has a deadline, in cycles of the shared clock, the
register its reason code goes to, the address of its DOZE and the number of that DOZE's issue. A parked thread has its
fault's code and address. A thread that has met a page on the move waits, with no fault, at the address. -/
inductive ThState where
  | running
  | dozing (deadline : Nat) (vd : Reg) (at_ : DWord) (issue : Nat)
  | parked (code : Nat) (addr : DWord)
  | moved (addr : DWord)
  | exited
  deriving DecidableEq, Repr

/-- A watched grain (R209): first virtual address, address space and bytes. -/
structure Watch where
  base : Nat
  asid : Nat
  len : Nat
  deriving DecidableEq, Repr

/-- A port of one thread: the entries of its own queue, oldest first, and the credits it holds for pushing (R54, R96). -/
structure PortQ where
  entries : List Word
  credits : Nat
  deriving DecidableEq, Repr

/-- What an armed port waits for (R68): an entry after POP or PEEK, a credit after PUSH. -/
inductive PortWait where
  | entry | credit
  deriving DecidableEq, Repr

/-- What a thread's instruction waits for (R66): nothing, a request of its run, the engine command it appended (R257), or,
not yet retired, a retirement on its core's engines (R187, R235, R237, R251), or the scalar register that a load of its bunch,
by number, has still to write (R65). -/
inductive Await where
  | none
  | request
  | command (id : Nat)
  | engine
  | operand (id : Nat)
  deriving DecidableEq, Repr

/-- A thread (R57, R61). present is false for a lane the group does not have. -/
structure Thread where
  present : Bool
  pc : DWord
  st : ThState
  fmode : Word
  inTrap : Bool
  /-- Bits [63:32] of the count that the last GETS of CYC latched (R127). -/
  latch : Word
  /-- The return stack, oldest first, and the number of groups spilled (R131). -/
  ret : List DWord
  spilled : Nat
  acc : Vector AccRow 8
  ports : Vector PortQ 6
  armedPort : Option (Fin 6 × PortWait)
  watch : Option Watch
  armedBar : Option (Fin 48)
  armedTag : Option (Fin 8)
  /-- Pending wake events, numbered as R69 numbers them. -/
  pend : BitVec 8
  /-- Tags arrived on in the current phase (R76). -/
  treeArr : BitVec 8
  /-- Age count and cycle of becoming urgent of the run the thread is in (R63). -/
  age : Nat
  urgent : Option Nat
  /-- The number of the run the thread was last formed into (MODEL'S OWN); it shows a merge (R64, R327). -/
  runTag : Nat
  /-- The counter whose instruction has been fetched (R61). -/
  fetched : Option DWord
  await : Await
  /-- Of an instruction that the range scoreboard has held, the number the next command took then (MODEL'S OWN): commands
  from it on were appended after the instruction's issue and never hold it (R187). -/
  heldAt : Option Nat
  /-- The address of the EXIT a thread ended at (R304). -/
  exitPc : DWord
  deriving DecidableEq, Repr

/-- The parts of a page-table entry an access keeps with it (R157): the entry's word. -/
abbrev Pte := DWord

/-! ## Engine commands -/

/-- The operand formats of MMA (R255). -/
inductive MmaFmt where
  | f16 | bf16 | e4m3 | e5m2 | i8 | i4 | q4
  deriving DecidableEq, Repr

/-- A tile descriptor (R232). -/
structure Tile where
  base : Nat
  pitch : Nat
  tt : Nat
  deriving DecidableEq, Repr

/-- A tensor entry as captured (R248, R249). -/
structure TEntry where
  read : Reading
  blk : Bool
  sbase : Nat
  spitch : Nat
  ssbase : Nat
  deriving DecidableEq, Repr

/-- A job card as captured (R264), with the translations of its pages (R265): virtual page number,
physical address and entry. -/
structure CopyJob where
  ss : ASpace
  ds : ASpace
  sa : Nat
  da : Nat
  len : Nat
  rows : Nat
  spitch : Nat
  dpitch : Nat
  spages : List (Nat × Nat × Pte)
  dpages : List (Nat × Nat × Pte)
  /-- The groups, by number in the model, whose scratchpads .sp and .csm regions name. -/
  sgid : Nat
  dgid : Nat
  deriving DecidableEq, Repr

inductive CmdOp where
  | mma (fmt : MmaFmt) (f len : Nat) (a b : Tile) (ra rb : Reading) (k0 depth : Nat) (t : Bool)
  | scacc (f len sf : Nat) (e : TEntry) (j : Nat) (rows clr : Bool)
  | accadd (f len : Nat) (spc : ASpace)
  | copy (job : CopyJob)
  deriving DecidableEq, Repr

/-- A command of a chain (R251): its lanes L, per lane the row index (or, for ACCADD, the address, the physical address
and entry of each piece of a .gl destination, and the group of a scratchpad destination)
and the rounding mode captured (R233, R260, R262), the appending instruction, its batch, whether the appending run
waits for it (R257), and whether the engine has performed it. -/
structure Cmd where
  id : Nat
  op : CmdOp
  lanes : Lanes
  idx : Vector Word 32
  addr : Vector Nat 32
  pa : Vector (List (Nat × Pte)) 32
  target : Vector Nat 32
  rm : Vector RM 32
  pc : DWord
  batch : Nat
  sync : Bool
  done : Bool
  deriving DecidableEq, Repr

/-- A chain: the commands in append order, the sequence number, the batches committed (R235, R251), and the first batch that
has lost a command to a stop and so never completes (R299). -/
structure Chain where
  cmds : List Cmd
  seq : Nat
  commits : Nat
  cut : Option Nat
  deriving DecidableEq, Repr

/-- An instruction in flight (MODEL'S OWN record of it): its issue, the lanes that release and write, the registers whose
copies they release, whether its write was whole at issue (R83), the destinations for which a vector entry has been taken,
and those whose allocation has to spill and comes with the values (log 35). Other runs read the copies as no effect of the
instruction has left them (R26), while the pools count every rename action of it (R84, R94). -/
structure Flight where
  id : Nat
  lanes : Lanes
  marked : List Reg
  whole : Bool
  dests : List Reg
  owes : List Reg
  deriving DecidableEq, Repr

/-- A bunch (R57): registers, the instructions in flight on them and the registers whose entries taken for those have been
spilled since (R90), masks, PSPILL, slot and placing order on its core, and chains. -/
structure Bunch where
  regs : Vector VReg 64
  flights : List Flight
  away : BitVec 64
  sregs : Vector Word 64
  swritten : BitVec 64
  masks : Vector Lanes 8
  pspill : Word
  slot : Nat
  order : Nat
  mx : Chain
  cp : Chain
  threads : Vector Thread 32
  deriving DecidableEq, Repr

/-! ## Groups -/

/-- A named barrier (R73). -/
structure Bar where
  count : Nat
  arrived : Nat
  phase : Bool
  waiters : BitVec 64
  deriving DecidableEq, Repr

/-- The spaces of a store inside a core, numbered as R306 numbers them. -/
inductive Space where
  | gl | sp | csm | chs | lp
  deriving DecidableEq, Repr

/-- A store inside a core, from its retirement until it is performed (R298, R306): who issued it, in which issue (the
stores of one issued run on a word are performed together, R192), where it goes, and the translation it was checked
with. lane is the lane, or the run's lowest lane for a bunch store. -/
structure Store where
  core : Nat
  issue : Nat
  gid : Nat
  bunch : Nat
  lane : Fin 32
  wholeBunch : Lanes
  pc : DWord
  sp : Space
  q : Qual
  addr : DWord
  size : Nat
  data : DWord
  ctx : Nat
  asid : Nat
  pa : Nat
  pte : Pte
  /-- The group a scratchpad store goes to, by its number in the model, and the launch of the storing thread. -/
  target : Nat
  launch : Nat
  deriving DecidableEq, Repr

/-- The origin of a halt (R302). -/
structure Origin where
  reason : Nat
  code : Nat
  addr : DWord
  pc : DWord
  wid : DWord
  lanes : Lanes
  group : Word
  core : Nat
  thread0 : Nat
  deriving DecidableEq, Repr

/-- A halted group (R298 to R302): its origin, the cycle of its stop, the pending stores, the commands discarded, and
whether it has been dumped. -/
structure Halted where
  origin : Origin
  hcyc : Nat
  pending : List Store
  ndisc : Nat
  dumped : Bool
  deriving DecidableEq, Repr

/-- A resident group (R58). gid is the MODEL'S OWN number of it. -/
structure Group where
  gid : Nat
  launch : Nat
  num : Nat
  core : Nat
  rank : Nat
  size : Nat
  bunches : List Bunch
  bars : List Bar
  gs : Word
  /-- Flags raised in the current cycle: a SETS to GS in it keeps them (R110). -/
  gsNow : Word
  tra : DWord
  tfb : DWord
  dbg : Word
  /-- What a SETTRAP of the current cycle has written: TRA, TFB and debug control, in force from the next cycle (R313). -/
  trapNext : Option (DWord × DWord × Word)
  /-- The declared scratchpad bytes (R147, R149), canonical, unlisted bytes 0; and its poisoned 8-byte words (R195). -/
  sp : List Host.Cell
  spPoison : List Nat
  /-- The chunks of the core's scratchpad it holds, in the order placement assigned them (R149). -/
  chunks : List Nat
  halted : Option Halted
  /-- It has left its core, and engine commands of its threads are still to be performed (R58, R133). -/
  left : Bool
  /-- The thread the next stall sample starts at, and the cycle it is due (R328). -/
  sampleNext : Nat
  sampleDue : Nat
  deriving DecidableEq, Repr

/-! ## Launches -/

/-- A launch header as captured (R282). -/
structure Header where
  code : DWord
  ngroup : Nat
  nbar : Nat
  accum : Nat
  regs : Nat
  t : Nat
  scratch : Nat
  gl : Nat
  widths : List Nat
  exts : List Nat
  tags : List Nat
  stackMask : Nat
  kind : Nat
  shape : Nat
  lpb : Nat
  lps : Nat
  chsz : Nat
  g : Nat
  ttbase : Nat
  ttcount : Nat
  args : List Word
  deriving DecidableEq, Repr

/-- A window of chip scratchpad (R147). -/
structure Window where
  stack : Nat
  bytes : List Host.Cell
  poison : List Nat
  deriving DecidableEq, Repr

/-- A core's state for a tag of a launch (R76). -/
structure TreeCore where
  core : Nat
  tag : Fin 8
  local_ : Nat
  arrived : Nat
  phase : Bool
  sent : Bool
  waiters : BitVec 64
  deriving DecidableEq, Repr

/-- Where a launch comes from: a LAUNCH entry, a node of a GRAPH, a firing of a BASKET with its descriptor and the record index
its placement brings CONS to (R278, R285, R287), or outside the module (log 16). -/
inductive Source where
  | entry (cmd : Nat)
  | node (graph node : Nat)
  | firing (basket cons : Nat) (desc : DWord)
  | external
  deriving DecidableEq, Repr

/-- A launch, from its entering the palette until it ends. -/
structure Launch where
  id : Nat
  ctx : Nat
  queue : Nat
  index : Word
  prio : Nat
  easel : Nat
  /-- The cycle of the acceptance or firing that ranks it (R284). -/
  order : Nat
  source : Source
  hdr : Header
  /-- Per bunch, the counter and the argument words of a basket firing (R287); empty for other launches. -/
  starts : List (DWord × List Word)
  windows : List Window
  tree : List TreeCore
  /-- The next group number to place, groups that have ended, and whether the launch has been withdrawn (R309). -/
  next : Nat
  ended : Nat
  withdrawn : Bool
  origin : Option Origin
  /-- The KIND 2 entry has been answered with RESP 3 (R321). -/
  released : Bool
  /-- Cores reserved for it (R284) and placements that wait on their cores (R91): group number and core. -/
  reserved : List Nat
  waiting : List (Nat × Nat)
  finished : Bool
  deriving DecidableEq, Repr

/-! ## Memory system -/

/-- A block of an L1 (R151): core, way, address space, virtual block VA[56:9], physical block, the entry it was filled
through, valid, dirty and read-only bits per sector. Ways 0 to 7 are fixed, way 8 + c is the lent chunk c (R149). data and
poison hold the copies of SI and read-only sectors; DIR data has one copy, at the home point. -/
structure Block where
  core : Nat
  way : Nat
  asid : Nat
  vb : Nat
  pb : Nat
  pte : Pte
  valid : BitVec 16
  dirty : BitVec 16
  ro : BitVec 16
  data : List Host.Cell
  poison : List Nat
  deriving DecidableEq, Repr

/-- A block of a shared-cache slice (R3, R163, R164): the compute stack it lies in, the physical block, the key slot it was
filled through, valid and dirty bits per sector. Its slice and set follow from the block. Of local HBM the home slice holds
the one copy that memory accesses see, which is State.mem; of a peer's memory a reading stack holds a copy of its own
(R188), in data and poison, and the serial number of its fetch. -/
structure SliceBlock where
  stack : Nat
  pb : Nat
  key : Nat
  valid : BitVec 16
  dirty : BitVec 16
  data : List Host.Cell
  poison : List Nat
  deriving DecidableEq, Repr

/-- A sector of HBM that lies enciphered (R161, R291): its number, the key it was written under, and the plain bytes. -/
structure HbmSector where
  sec : Nat
  key : BitVec 512
  plain : List Byte
  deriving DecidableEq, Repr

/-- A line lock of a slice (R164): the block, and what holds it: a fill from HBM of some sectors under a key slot, or an
atomic. -/
structure LineLock where
  blk : Nat
  fill : BitVec 16
  key : Nat
  atomic : Bool
  deriving DecidableEq, Repr

/-- A line that the directory records for an agent outside the module (R165, R290): the agent, the block, and whether it
owns the line or shares it. -/
structure AgentLine where
  agent : Agent
  blk : Nat
  owned : Bool
  deriving DecidableEq, Repr

/-- A fault of one lane: code, faulting address, exceptions (FPX), argument (TRAP), and where RTT resumes (R311, R314). -/
structure LaneFault where
  lane : Fin 32
  code : Nat
  addr : DWord := 0
  exc : Exc := 0
  arg : Word := 0
  resume : Option DWord := none
  deriving DecidableEq, Repr

/-- The outcome of one lane: the words of its destination registers, the exceptions raised, a fault, the counter it goes
to (none: the next instruction), whether it is held by an interlock or waits for a request it sent (R66), and whether it
completes without writing its destination registers (a failed POP, R83). -/
structure LaneOut where
  vals : List Word := []
  exc : Exc := 0
  fault : Option LaneFault := none
  goto : Option DWord := none
  held : Bool := false
  skip : Bool := false
  deriving DecidableEq, Repr

/-- An entry of a cluster TLB (R160): cluster, address space, first virtual address, bytes, and the leaf. -/
structure TlbEntry where
  cluster : Nat
  asid : Nat
  base : Nat
  size : Nat
  pte : Pte
  deriving DecidableEq, Repr

/-- What a request does at its home (R152, R198, R201). -/
inductive ReqOp where
  | load
  | ldro
  | watch
  | atom (code : Nat)
  | cas128
  /-- ACC.LD of an accumulator (R261). -/
  | acc (a : Fin 8)
  deriving DecidableEq, Repr

/-- One lane of a request: lane, address, physical address, the entry, operand and comparand words. -/
structure ReqLane where
  lane : Fin 32
  addr : DWord
  pa : Nat
  pte : Pte
  b : List Word
  c : List Word
  deriving DecidableEq, Repr

/-- Where a request stands (R164): sent, refused or waiting in a conflict queue, or accepted by its slice. -/
inductive ReqSt where
  | sent | queued | accepted
  deriving DecidableEq, Repr

/-- A request of a run for one block (R164, R192, R199): the instruction it belongs to, the core, its operation, size in
bytes, its lanes, and, of an atomic that its slice has applied and not answered, what it answers. -/
structure Req where
  id : Nat
  pend : Nat
  core : Nat
  gid : Nat
  bunch : Nat
  op : ReqOp
  sp : Space
  q : Qual
  ret : Bool
  size : Nat
  asid : Nat
  ctx : Nat
  blk : Nat
  pc : DWord
  target : Nat
  launch : Nat
  st : ReqSt
  run : Lanes
  lanes : List ReqLane
  applied : Option (List (Fin 32 × LaneOut))
  deriving DecidableEq, Repr

/-- An instruction of an issued run that waits for its own requests (R66, R83, R192, R199): the run, its executing lanes,
the counter and the address after the sequence, its operation and data register (none for a store-like atomic), whether the
whole run is one bunch access (R139), the registers it names (R90), the lanes still without an answer, and the outcomes so
far. What it does to its registers stands in the bunch's flights. -/
structure Pend where
  id : Nat
  gid : Nat
  bunch : Nat
  run : Lanes
  exec : Lanes
  pc : DWord
  next : DWord
  op : ReqOp
  vd : Option Reg
  scalar : Bool
  size : Nat
  keep : List Reg
  waiting : Lanes
  outs : List (Fin 32 × LaneOut)
  deriving DecidableEq, Repr

/-- A remote .csm access on its way to the target core (R143, R145): the stores of one issued run to one word, or a load or
atomic by its request. -/
structure CsmAccess where
  core : Nat
  gid : Nat
  stores : List Store
  req : Nat
  deriving DecidableEq, Repr

/-- An entry or a credit on its way between two threads (R96). -/
structure PortMsg where
  gid : Nat
  bunch : Nat
  lane : Fin 32
  port : Fin 6
  entry : Option Word
  deriving DecidableEq, Repr

/-- A tree release that is due (R77): launch, tag, instance and cycle. -/
structure TreeDue where
  launch : Nat
  tag : Fin 8
  inst : Nat
  due : Nat
  deriving DecidableEq, Repr

/-- A subscription to picker service (R267 to R269), with its card as captured. -/
structure Sub where
  id : Nat
  gid : Nat
  bunch : Nat
  handle : Nat
  rbase : Nat
  nslot : Nat
  taddr : Nat
  paddr : Nat
  trows : Nat
  w : Nat
  pitch : Nat
  n : Nat
  /-- The next tile to fill, and whether the subscription has ended and waits for the pickers' acknowledgement. -/
  next : Nat
  ending : Bool
  /-- The tiles now in FULL slots (R268). -/
  full : List Nat
  deriving DecidableEq, Repr

/-! ## Easels -/

/-- An accepted command (R278) until its journal entry of ending, with the cycle of its acceptance. -/
structure Command where
  id : Nat
  cycle : Nat
  queue : Nat
  index : Word
  easel : Nat
  prio : Nat
  ctx : Nat
  op : Nat
  a : DWord
  b : DWord
  c : DWord
  d : DWord
  started : Bool
  /-- The header a LAUNCH captured at acceptance, or the status its reading failed with (R282). -/
  hdr : Option (Nat ⊕ Header)
  /-- The key a KEYLOAD has unwrapped (R291, R292). -/
  key : Option (BitVec 512)
  /-- The sectors that a SETTLE has found dirty in more than one L1 (R189). -/
  count : Nat
  deriving DecidableEq, Repr

/-- How a graph node stands (R285). -/
inductive NodeSt where
  | waiting
  | running (launch : Nat)
  | completed (branch : Nat)
  | skipped
  | failed (status : Nat)
  deriving DecidableEq, Repr

/-- An edge of a graph: target node, and the branch it names, none for ALL. -/
structure Edge where
  src : Nat
  dst : Nat
  branch : Option Nat
  deriving DecidableEq, Repr

structure Node where
  hdr : DWord
  cond : Bool
  result : DWord
  st : NodeSt
  deriving DecidableEq, Repr

structure Graph where
  cmd : Nat
  nodes : List Node
  edges : List Edge
  deriving DecidableEq, Repr

/-- A basket in force (R286, R287): the descriptor as captured, the index of the next record to examine, the records
counted since the last firing (index, counter, argument words), and when the countdown began. -/
structure Basket where
  cmd : Nat
  desc : DWord
  hdr : Header
  ring : DWord
  log2 : Nat
  c : Nat
  d : Nat
  seen : Nat
  recs : List (Nat × DWord × List Word)
  started : Nat
  deriving DecidableEq, Repr

/-- A migration in progress (R289): the command, the page's old and new physical address and size, the physical addresses of
the leaf entries marked invalid, and the outside agents' accesses queued at the old home, with their incarnation numbers. -/
structure Migration where
  cmd : Nat
  old : Nat
  dest : Nat
  size : Nat
  leaves : List Nat
  queued : List (Agent × Nat × BusAccess)
  deriving DecidableEq, Repr

/-- An error-log entry that the host may still answer (R319 to R321): its index, kind, launch and parked lanes. -/
structure OpenEntry where
  n : Nat
  kind : Nat
  launch : Nat
  gid : Nat
  bunch : Nat
  lanes : Lanes
  code : Nat
  deriving DecidableEq, Repr

/-- A saved context (R322, R323): its groups, and the L1 watches to re-arm stand in their threads. -/
structure Saved where
  ctx : Nat
  groups : List Group
  deriving DecidableEq, Repr

/-- Where an ECC finding lies (R167, R195): the word that its home slice serves, a word of a stack's copy of a peer's block, of
an L1 copy, of a group's scratchpad, of a launch's window. -/
inductive EccPlace where
  | home (pa : Nat)
  | slice (stack pa : Nat)
  | l1 (core asid va : Nat)
  | sp (gid off : Nat)
  | chs (launch stack off : Nat)
  deriving DecidableEq, Repr

/-- A debug record that its core has still to take (R325): group, core, context, the group's debug area, cycle of its
event, and its 512 bytes as words. -/
structure DebugRec where
  gid : Nat
  core : Nat
  ctx : Nat
  area : Nat
  cyc : Nat
  words : List Word
  deriving DecidableEq, Repr

/-- A run chosen for issue (R62). -/
structure Run where
  gid : Nat
  bunch : Nat
  lanes : Lanes
  pc : DWord
  deriving DecidableEq, Repr

/-- The run that issues (MODEL'S OWN record of it): its lanes, those a GUARD does not gate off (R43), the counter, the
address of its first word after the prefixes, and the address after the sequence (R31). -/
structure Current where
  gid : Nat
  bunch : Nat
  run : Lanes
  exec : Lanes
  pc : DWord
  word : DWord
  next : DWord
  deriving DecidableEq, Repr

/-- The card of a step of another agent (MODEL'S OWN): the row of the opcode table and its operands, as the row's
meaning names them. -/
structure Event where
  row : Instr
  a : Nat := 0
  b : Nat := 0
  c : Nat := 0
  pc : DWord := 0
  eng : Eng := .mx
  ecc : Ecc := .none
  at_ : Option EccPlace := none
  agent : Agent := .host
  access : BusAccess := .read 0 0
  img : FwImage := ⟨false, 0, 0⟩
  list : List (Nat × Nat) := []
  deriving DecidableEq, Repr

/-- Device registers (R275). -/
structure DevRegs where
  qtbase : DWord
  ctxbase : DWord
  jbase : Vector DWord 8
  jcount : Vector DWord 8
  elbase : DWord
  elcount : DWord
  rpcap : DWord
  modnum : DWord
  deriving DecidableEq, Repr

/-- Firmware (R294, R295): image in force with its version for each of the two, the fused counter, whether the module is
held in reset, and the clock level. -/
structure Firmware where
  trusted : Option (Nat × Nat)
  untrusted : Option (Nat × Nat)
  fused : Nat
  held : Bool
  clockLevel : Nat
  deriving DecidableEq, Repr

/-! ## The module -/

/-- Why a step stops. -/
inductive Fault where
  /-- The module is held in reset because no firmware image has verified (R294) and no event waits that could bring it
  out. Raised by step alone. Safe: nothing runs on such a module. -/
  | heldInReset
  deriving DecidableEq, Repr

/-- Why an instruction has no meaning. -/
inductive Refusal where
  /-- The instruction has no meaning in this model. Raised by exec's refused arms alone. Safe. -/
  | notModelled (mnemonic : String)
  deriving DecidableEq, Repr

structure State where
  /-- The cycle count of every core (R4, R127). -/
  clock : Nat
  /-- Memory by physical address (R162), as the home points see it: canonical, unlisted bytes as Memory.blank; poisoned
  8-byte words. -/
  mem : List Host.Cell
  poison : List Nat
  /-- The shared cache (R3, R163, R164), most recently used first; the sectors of HBM that lie enciphered (R161). -/
  slices : List SliceBlock
  hbm : List HbmSector
  dev : DevRegs
  groups : List Group
  launches : List Launch
  /-- L1 blocks, most recently used first; the stores inside the cores, in issue order. -/
  l1 : List Block
  stores : List Store
  /-- Per core, the slot of the bunch whose matrix chain its engine served last (R252). -/
  mxTurn : List (Nat × Nat)
  tlb : List TlbEntry
  /-- Context-table entries in use: context, address space, root (R281). -/
  ctxCache : List (Nat × Nat × Nat)
  /-- Instructions that wait for their requests, the requests, and the locked blocks (R66, R164). -/
  pends : List Pend
  reqs : List Req
  locks : List LineLock
  csmNet : List CsmAccess
  portNet : List PortMsg
  treeDue : List TreeDue
  /-- Halts on their way to a core: core and launch (R298). -/
  haltMsgs : List (Nat × Nat)
  subs : List Sub
  commands : List Command
  graphs : List Graph
  baskets : List Basket
  migrations : List Migration
  /-- Move counts of pages by physical page (R289). -/
  moves : List (Nat × Nat × Nat)
  /-- Loaded key slots: AES-256 in XTS mode takes two 256-bit keys (R291). -/
  keys : List (Nat × BitVec 512)
  /-- The 24 Ezfold links: the peer each is wired to, and whether it is up; whether the host's link is down; incarnation
  numbers, dead agents, and the lines the directory records for agents (R4, R288, R290). -/
  links : Vector (Nat × Bool) 24
  hostDown : Bool
  incarnations : List (Agent × Nat)
  dead : List Agent
  agentLines : List AgentLine
  fw : Firmware
  /-- Each easel's own cycle count, and when it next examines its queues and its answers (R5, R277, R319). -/
  ecyc : Vector Nat 8
  nextPoll : Vector Nat 8
  respPoll : Vector Nat 8
  /-- When the palette dispatches next, by the count of easel 0 (R284); what completions of SETTLEs have reported: queue, entry
  and number of sectors (R189, log 29). -/
  palCyc : Nat
  reports : List (Nat × Word × Nat)
  /-- Queues whose malformed entry, or whose untranslatable ring, has been logged (R276, R277). -/
  malformed : List Nat
  ringFaulted : List Nat
  openEntries : List OpenEntry
  saved : List Saved
  dbgRecs : List DebugRec
  /-- Runs the cycle has issued and that have still to execute, in rank order (MODEL'S OWN: the order within R62). -/
  issued : List Run
  /-- Events from outside, or internal ones in a chosen order (MODEL'S OWN). -/
  agenda : List Event
  /-- What executes now (MODEL'S OWN). -/
  cur : Current
  event : Event
  /-- The next number for records the model names, and the count of issues (MODEL'S OWN; R90's last access). -/
  fresh : Nat
  issues : Nat
  /-- The last address or datum a host or peer read returned (MODEL'S OWN: the answer on the bus). -/
  busReply : List Byte
  deriving DecidableEq, Repr

/-! ## Placement values of registers (R73, R81, R82, R95, R125, R251, R313) -/

def VReg.placed : VReg := ⟨0, .released, 0, 0⟩
def AccRow.zero : AccRow := ⟨Vector.replicate 16 0, 0⟩
def Chain.empty : Chain := ⟨[], 0, 0, none⟩
def PortQ.empty : PortQ := ⟨[], 0⟩

/-- A thread at placement, at a counter. -/
def Thread.placed (present : Bool) (pc : DWord) : Thread :=
  { present := present, pc := pc, st := .running, fmode := fmodePlaced, inTrap := false, latch := 0, ret := [],
    spilled := 0, acc := Vector.replicate 8 AccRow.zero, ports := Vector.replicate 6 PortQ.empty, armedPort := none,
    watch := none, armedBar := none, armedTag := none, pend := 0, treeArr := 0, age := 0, urgent := none, runTag := 0,
    fetched := none, await := .none, heldAt := none, exitPc := 0 }

/-- s0 to s7 from the argument words, the others 0 (R81). -/
def sregsOf (args : List Word) : Vector Word 64 := Vector.ofFn fun i : Fin 64 => if i.val < 8 then args.getD i.val 0 else 0

/-- A bunch at placement: n threads from lane 0, a counter, argument words, its slot and placing order. -/
def Bunch.placed (n : Nat) (pc : DWord) (args : List Word) (slot order : Nat) : Bunch :=
  { regs := Vector.replicate 64 VReg.placed, flights := [], away := 0, sregs := sregsOf args, swritten := 0xFF, masks := Vector.replicate 8 0,
    pspill := 0, slot := slot, order := order, mx := Chain.empty, cp := Chain.empty,
    threads := Vector.ofFn fun i : Fin 32 => Thread.placed (decide (i.val < n)) pc }

def Current.idle : Current := ⟨0, 0, 0, 0, 0, 0, 0⟩
def Event.idle : Event := { row := .issueCycle }

/-- The module right after reset (R127, R275 to R281, R294): no group is resident, every queue, journal and table field
reads 0 with memory, no key but the null key is loaded, and the module is held until a firmware image verifies. The values
the spec does not state are those of log 2 to 10. -/
def State.reset : State :=
  { clock := 0, mem := [], poison := [], slices := [], hbm := [],
    dev := ⟨0, 0, Vector.replicate 8 0, Vector.replicate 8 0, 0, 0, 0, 1⟩,
    groups := [], launches := [], l1 := [], stores := [], mxTurn := [], tlb := [], ctxCache := [], pends := [], reqs := [],
    locks := [], csmNet := [], portNet := [], treeDue := [], haltMsgs := [], subs := [], commands := [], graphs := [],
    baskets := [], migrations := [], moves := [], keys := [],
    links := Vector.ofFn fun (i : Fin 24) => (i.val + 2, true), hostDown := false, incarnations := [], dead := [], agentLines := [],
    fw := ⟨none, none, 0, true, 0⟩,
    ecyc := Vector.replicate 8 0, nextPoll := Vector.replicate 8 Config.pollCycles,
    respPoll := Vector.replicate 8 Config.pollCycles,
    palCyc := 0, reports := [], malformed := [], ringFaulted := [], openEntries := [], saved := [], dbgRecs := [], issued := [],
    agenda := [], cur := Current.idle, event := Event.idle, fresh := 0, issues := 0, busReply := [] }

end Sys2Proof.Machine
end

