-- ==== Sys2Proof/Machine/Access.lean ====
section
/-! DEFINITION. Machine/Access.lean: byte memories and poison (R195), the places of cores (R1, R2), lookups in the state,
translation and its faults (R155 to R160), the home points: the shared cache, HBM and its keys, and the device window (R161
to R164, R275, R291), the L1s (R151 to R154), and the error log (R320). -/

namespace Sys2Proof.Machine

/-! ## Byte memories -/

/-- What an unlisted address reads as (log 2). -/
def Memory.blank : Byte := 0

/-- The byte at an address. -/
def Memory.read : List Host.Cell → Nat → Byte
  | [], _ => Memory.blank
  | (k, v) :: m, a => if k = a then v else Memory.read m a

/-- Write one byte; the canonical form is kept. -/
def Memory.write : List Host.Cell → Nat → Byte → List Host.Cell
  | [], a, v => if v = Memory.blank then [] else [(a, v)]
  | (k, w) :: m, a, v =>
    if a < k then (if v = Memory.blank then (k, w) :: m else (a, v) :: (k, w) :: m)
    else if a = k then (if v = Memory.blank then m else (a, v) :: m)
    else (k, w) :: Memory.write m a v

/-- The canonical form: addresses strictly rising, no entry equal to the blank byte. -/
def Memory.wf : List Host.Cell → Bool
  | [] => true
  | (a, v) :: m => v != Memory.blank && m.all (fun c => decide (a < c.1)) && Memory.wf m

def Memory.readN (m : List Host.Cell) (a n : Nat) : List Byte := (List.range n).map fun i => Memory.read m (a + i)
def Memory.writeN (m : List Host.Cell) (a : Nat) : List Byte → List Host.Cell
  | [] => m
  | b :: bs => Memory.writeN (Memory.write m a b) (a + 1) bs

/-- Little-endian values (R191): a number from bytes, the low n bytes of a value, and words as bytes. -/
def ofBytes (l : List Byte) : Nat := l.foldr (fun b acc => b.toNat + 256 * acc) 0
def toBytes (n : Nat) (x : DWord) : List Byte := (List.range n).map fun i => x.extractLsb' (8 * i) 8
def wordBytes (ws : List Word) : List Byte := ws.flatMap fun w => (List.range 4).map fun i => w.extractLsb' (8 * i) 8
/-- The 32-bit words of bytes, lowest first. -/
def bytesWords (l : List Byte) : List Word :=
  (List.range (l.length / 4)).map fun i => BitVec.ofNat 32 (ofBytes ((l.drop (4 * i)).take 4))

/-- The aligned 8-byte words, by number, that n bytes at a touch, and those they cover whole (R195). -/
def wordsOf (a n : Nat) : List Nat := if n = 0 then [] else (List.range ((a + n - 1) / 8 - a / 8 + 1)).map (a / 8 + ·)
def coversWord (a n w : Nat) : Bool := decide (a ≤ 8 * w) && decide (8 * w + 8 ≤ a + n)
def addPoison : List Nat → Nat → List Nat
  | [], w => [w]
  | x :: l, w => if w < x then w :: x :: l else if w = x then x :: l else x :: addPoison l w
/-- Poison marks after writing n clean bytes at a: a word written whole becomes clean (R195). -/
def poisonAfter (p : List Nat) (a n : Nat) : List Nat := p.filter fun w => !coversWord a n w
/-- Some byte of n bytes at a lies in a poisoned word. -/
def poisoned (p : List Nat) (a n : Nat) : Bool := (wordsOf a n).any (p.contains ·)

/-! ## Cores (R1, R2, R126, R143) -/

def coreStack (c : Nat) : Nat := c / 144
def coreRow (c : Nat) : Nat := c % 144 / 12
def coreCol (c : Nat) : Nat := c % 12
def coreAt (stack row col : Nat) : Nat := stack * 144 + row * 12 + col
def isVector (c : Nat) : Bool :=
  (coreCol c == 0 || coreCol c == 11) && decide (2 ≤ coreRow c) && decide (coreRow c ≤ 9)
def clusterOf (c : Nat) : Nat := coreStack c * 36 + coreRow c / 2 * 6 + coreCol c / 2
/-- Position in the cluster, and the core at a position of a core's cluster (R143). -/
def clusterPos (c : Nat) : Nat := 2 * (coreRow c % 2) + coreCol c % 2
def coreOfPos (c p : Nat) : Nat := coreAt (coreStack c) (coreRow c / 2 * 2 + p / 2 % 2) (coreCol c / 2 * 2 + p % 2)
/-- The CORE register (R126). -/
def coreWord (c : Nat) : Word :=
  BitVec.ofNat 32 ((if isVector c then 2147483648 else 0) + coreStack c * 65536 + coreRow c * 256 + coreCol c)
def chunksOf (c : Nat) : Nat := if isVector c then 64 else 32
/-- The core a die port faces, and whether a die edge lies between (R1, R54). -/
def neighbour (c : Nat) (p : Port) : Option (Nat × Bool) :=
  let s := coreStack c
  let r := coreRow c
  let k := coreCol c
  match p with
  | .lo => none
  | .hi => none
  | .n => if 0 < r then some (coreAt s (r - 1) k, false) else if 4 ≤ s then some (coreAt (s - 4) 11 k, true) else none
  | .s => if r < 11 then some (coreAt s (r + 1) k, false) else if s < 4 then some (coreAt (s + 4) 0 k, true) else none
  | .e => if k < 11 then some (coreAt s r (k + 1), false) else if s % 4 < 3 then some (coreAt (s + 1) r 0, true) else none
  | .w => if 0 < k then some (coreAt s r (k - 1), false) else if 0 < s % 4 then some (coreAt (s - 1) r 11, true) else none

/-! ## Lookups and updates -/

/-- The trusted and the untrusted firmware act only once an image of theirs is in force (R293, R294). -/
def State.trustedRuns (s : State) : Bool := s.fw.trusted.isSome
def State.untrustedRuns (s : State) : Bool := s.fw.untrusted.isSome

def State.group? (s : State) (gid : Nat) : Option Group := s.groups.find? fun g => g.gid == gid
/-- The groups resident on a core. -/
def State.residentOn (s : State) (core : Nat) : List Group := s.groups.filter fun g => g.core == core && !g.left
def State.launch? (s : State) (id : Nat) : Option Launch := s.launches.find? fun l => l.id == id
def State.modGroup (s : State) (gid : Nat) (f : Group → Group) : State :=
  { s with groups := s.groups.map fun g => if g.gid = gid then f g else g }
def State.modLaunch (s : State) (id : Nat) (f : Launch → Launch) : State :=
  { s with launches := s.launches.map fun l => if l.id = id then f l else l }
def Group.modBunch (g : Group) (i : Nat) (f : Bunch → Bunch) : Group := { g with bunches := g.bunches.modify i f }
def Bunch.modThread (b : Bunch) (l : Fin 32) (f : Thread → Thread) : Bunch :=
  { b with threads := b.threads.set l.val (f b.threads[l]) }
def State.modBunch (s : State) (gid i : Nat) (f : Bunch → Bunch) : State := s.modGroup gid fun g => g.modBunch i f
def State.modThread (s : State) (gid i : Nat) (l : Fin 32) (f : Thread → Thread) : State :=
  s.modBunch gid i fun b => b.modThread l f
def State.bunch? (s : State) (gid i : Nat) : Option Bunch := (s.group? gid).bind fun g => g.bunches[i]?
def State.thread? (s : State) (gid i : Nat) (l : Fin 32) : Option Thread := (s.bunch? gid i).map fun b => b.threads[l]
/-- All 32 lanes in ascending order, and those of a set. -/
def allLanes : List (Fin 32) := List.finRange 32
def lanesOf (m : Lanes) : List (Fin 32) := allLanes.filter fun l => m.getLsbD l.val
def laneBit (l : Fin 32) : Lanes := 1#32 <<< l.val
def lanesFrom (l : List (Fin 32)) : Lanes := l.foldl (fun m x => m ||| laneBit x) 0
def laneSet (p : Fin 32 → Bool) : Lanes := lanesFrom (allLanes.filter p)
def Bunch.mapThreads (f : Fin 32 → Thread → Thread) (b : Bunch) : Bunch :=
  { b with threads := Vector.ofFn fun l : Fin 32 => f l b.threads[l] }
def Group.mapThreads (f : Nat → Fin 32 → Thread → Thread) (g : Group) : Group :=
  { g with bunches := g.bunches.mapIdx fun i b => b.mapThreads (f i) }
def State.fresh' (s : State) : State := { s with fresh := s.fresh + 1 }

/-! ## Wake events (R68, R69) -/

def wExp : BitVec 8 := 0x01
def wWch : BitVec 8 := 0x02
def wEvc : BitVec 8 := 0x04
def wPrt : BitVec 8 := 0x08
def wBar : BitVec 8 := 0x10
def wTre : BitVec 8 := 0x20
def wEng : BitVec 8 := 0x40
def wRst : BitVec 8 := 0x80
def Thread.wake (t : Thread) (bit : BitVec 8) : Thread := { t with pend := t.pend ||| bit }
def Thread.live (t : Thread) : Bool := t.present && t.st != .exited

/-! ## Page-table entries (R157) -/

inductive Coh where
  | dir | si | uc
  deriving DecidableEq, Repr
inductive Kind where
  | so | rc | uo
  deriving DecidableEq, Repr
namespace Pte
def v (p : Pte) : Bool := p.getLsbD 0
def leaf (p : Pte) : Bool := p.getLsbD 1
def rd (p : Pte) : Bool := p.getLsbD 2
def w (p : Pte) : Bool := p.getLsbD 3
def x (p : Pte) : Bool := p.getLsbD 4
def ro (p : Pte) : Bool := p.getLsbD 5
def kindCode (p : Pte) : Nat := p.toNat / 64 % 4
def cohCode (p : Pte) : Nat := p.toNat / 256 % 4
def grainCode (p : Pte) : Nat := p.toNat / 1024 % 4
def contig (p : Pte) : Bool := p.getLsbD 12
def settled (p : Pte) : Bool := p.getLsbD 13
def key (p : Pte) : Nat := p.toNat / 2 ^ 52 + (if p.getLsbD 14 then 4096 else 0)
def pa (p : Pte) : Nat := p.toNat / 32768 % 2 ^ 37 * 32768
def kind (p : Pte) : Kind := match kindCode p with | 0 => .so | 1 => .rc | _ => .uo
def coh (p : Pte) : Coh := match cohCode p with | 0 => .dir | 1 => .si | _ => .uc
/-- The grain in bytes (R166). -/
def grain (p : Pte) : Nat := match grainCode p with | 0 => 32 | 1 => 128 | _ => 512
end Pte

/-! ## Windows and the device registers (R162, R275) -/

inductive Window' where
  | local_ | peer (n : Nat) | hostCoherent | hostPcie | device | none
  deriving DecidableEq, Repr
def windowOf (pa : Nat) : Window' :=
  let w := pa / 2 ^ 44
  if w = 0 then .local_
  else if w ≤ 0x3F then .peer w
  else if 0x80 ≤ w ∧ w ≤ 0xBF then .hostCoherent
  else if 0xC0 ≤ w ∧ w ≤ 0xDF then .hostPcie
  else if w = 0xFF then .device
  else .none
def deviceBase : Nat := 0xFF * 2 ^ 44
/-- The register holding the device bytes at an offset (a multiple of 8), none where none is assigned. -/
def DevRegs.at (d : DevRegs) (off : Nat) : Option DWord :=
  if off = 0 then some d.qtbase
  else if off = 8 then some d.ctxbase
  else if off < 0x90 then
    (if off % 16 = 0 then d.jbase[(off - 16) / 16]? else d.jcount[(off - 16) / 16]?)
  else if off = 0x100 then some d.elbase
  else if off = 0x108 then some d.elcount
  else if off = 0x110 then some d.rpcap
  else if off = 0x118 then some d.modnum
  else none
def DevRegs.byte (d : DevRegs) (off : Nat) : Byte :=
  match d.at (off / 8 * 8) with
  | some r => r.extractLsb' (off % 8 * 8) 8
  | none => Config.deviceByte off
/-! ### Home points (R161, R163, R164, R172) -/

/-- HBM stack and home compute stack of a local address (R163). -/
def hbmStack (pa : Nat) : Nat := (pa / 2 ^ 11 % 16) ^^^ (pa / 2 ^ 19 % 16)
def homeStack (pa : Nat) : Nat := hbmStack pa / 2
/-- The slice of a block, by PA[39:9] (R163); its set, a choice of the model (log 20); its tag pipeline, PA[9] (R164). -/
def sliceOf (pb : Nat) : Nat := pb % 2 ^ 31 % 144
def sliceSet (pb : Nat) : Nat := pb % 2 ^ 31 / 144 % Config.sliceSets
def slicePipe (pb : Nat) : Nat := pb % 2
/-- The key a slot holds; the null key is 0 (R161, R291). -/
def State.keyOf (s : State) (slot : Nat) : BitVec 512 :=
  if slot = 0 then 0 else ((s.keys.find? fun k => k.1 == slot).map fun k => k.2).getD 0
/-- Whether memory stands behind a window at a slice of the module, or at a peer. -/
def isLocal (pa : Nat) : Bool := windowOf pa == .local_
def isPeer (pa : Nat) : Bool := match windowOf pa with | .peer _ => true | _ => false
def State.slice? (s : State) (stack pb : Nat) : Option SliceBlock := s.slices.find? fun b => b.stack == stack && b.pb == pb
/-- A slice of the home stack holds a sector, by number. -/
def State.sliceHolds (s : State) (sec : Nat) : Bool :=
  match s.slice? (homeStack (32 * sec)) (sec / 16) with
  | some b => b.valid.getLsbD (sec % 16)
  | none => false
/-- What HBM gives for a sector under a key (R161): none where it is State.mem's own bytes. -/
def State.hbmView (s : State) (key : BitVec 512) (sec : Nat) : Option (List Byte) :=
  match s.hbm.find? fun x => x.sec == sec with
  | some x => some (if x.key = key then x.plain else (List.range 32).map (Config.decipher x.key key sec x.plain))
  | none => if key = 0 then none else some ((List.range 32).map (Config.decipher 0 key sec (Memory.readN s.mem (32 * sec) 32)))
/-- The byte at a physical address, as an access through a key slot finds it at the home point. -/
def State.homeByte (s : State) (slot pa : Nat) : Byte :=
  if isLocal pa && !s.sliceHolds (pa / 32) then
    match s.hbmView (s.keyOf slot) (pa / 32) with
    | some l => l.getD (pa % 32) 0
    | none => Memory.read s.mem pa
  else Memory.read s.mem pa
/-- Bytes at a physical address, through a key slot. -/
def State.readAs (s : State) (slot pa n : Nat) : List Byte :=
  if windowOf pa = .device then (List.range n).map fun i => s.dev.byte (pa + i - deviceBase)
  else if slot = 0 && s.hbm.isEmpty then Memory.readN s.mem pa n
  else (List.range n).map fun i => s.homeByte slot (pa + i)
/-- Those of an access that no page table stands before: under the null key (log 21). -/
def State.physRead (s : State) (pa n : Nat) : List Byte := s.readAs 0 pa n
def State.physWord (s : State) (pa : Nat) : Word := BitVec.ofNat 32 (ofBytes (s.physRead pa 4))
def State.physDword (s : State) (pa : Nat) : DWord := BitVec.ofNat 64 (ofBytes (s.physRead pa 8))

/-- Sectors of a block touched by n bytes at an offset. -/
def sectorMask (first count : Nat) : BitVec 16 := BitVec.ofNat 16 ((2 ^ count - 1) * 2 ^ first)
def sectorsOf (off n : Nat) : BitVec 16 := sectorMask (off / 32) ((off + n - 1) / 32 - off / 32 + 1)
def sectorList (m : BitVec 16) : List Nat := (List.range 16).filter fun i => m.getLsbD i

/-- A sector goes to HBM under its block's key (R161). -/
def State.toHbm (s : State) (b : SliceBlock) (i : Nat) : State :=
  let sec := 16 * b.pb + i
  let rest := s.hbm.filter fun x => x.sec != sec
  let k := s.keyOf b.key
  { s with hbm := if k = 0 then rest else ⟨sec, k, Memory.readN s.mem (32 * sec) 32⟩ :: rest }
/-- A block leaves its slice: dirty sectors go to HBM. -/
def State.sliceDrop (s : State) (b : SliceBlock) : State :=
  let s := (sectorList b.dirty).foldl (fun s i => s.toHbm b i) s
  { s with slices := s.slices.filter fun x => !(x.stack == b.stack && x.pb == b.pb) }
/-- The least recently used block of a full set. -/
def State.sliceVictim (s : State) (stack pb : Nat) : Option SliceBlock :=
  let l := s.slices.filter fun b => b.stack == stack && sliceOf b.pb == sliceOf pb && sliceSet b.pb == sliceSet pb
  if l.length < Config.sliceWays then none else l.getLast?
def State.putSlice (s : State) (b : SliceBlock) : State :=
  { s with slices := b :: s.slices.filter fun x => !(x.stack == b.stack && x.pb == b.pb) }
/-- A slice makes room for a block it does not hold. -/
def State.sliceRoom (s : State) (stack pb : Nat) : State :=
  if (s.slice? stack pb).isSome then s
  else match s.sliceVictim stack pb with
    | some v => s.sliceDrop v
    | none => s
/-- A sector comes from HBM into the home slice under a key slot: what it shows there is what State.mem now holds. -/
def State.fromHbm (s : State) (slot sec : Nat) : State :=
  match s.hbmView (s.keyOf slot) sec with
  | none => s
  | some l =>
    let old := match s.hbm.find? fun x => x.sec == sec with
      | some x => x
      | none => ⟨sec, 0, Memory.readN s.mem (32 * sec) 32⟩
    { s with mem := Memory.writeN s.mem (32 * sec) l, hbm := old :: s.hbm.filter fun x => x.sec != sec }
/-- Sectors of a local block are brought into its home slice (R163, R164). -/
def State.sliceTake (s : State) (slot pb : Nat) (m : BitVec 16) : State :=
  if !isLocal (512 * pb) then s
  else
    let st := homeStack (512 * pb)
    let s := s.sliceRoom st pb
    let b := (s.slice? st pb).getD ⟨st, pb, slot, 0, 0, [], []⟩
    let s := (sectorList (m &&& ~~~ b.valid)).foldl (fun s i => s.fromHbm slot (16 * pb + i)) s
    s.putSlice { b with valid := b.valid ||| m }
def State.sliceDirty (s : State) (slot pb : Nat) (m : BitVec 16) : State :=
  { s with slices := s.slices.map fun b =>
      if isLocal (512 * b.pb) && b.pb == pb then { b with key := slot, dirty := b.dirty ||| (m &&& b.valid) } else b }
/-- The queue whose doorbell lies at an offset of the device window. -/
def doorbellAt (off : Nat) : Option Nat :=
  if 0x100000 ≤ off ∧ off < 0x100000 + 8 * Config.queues ∧ off % 8 = 0 then some ((off - 0x100000) / 8) else none
/-- A write within one block of an agent other than the trusted firmware, through a key slot (R161, R195, R275): the home
slice and memory take the bytes; of the device registers a doorbell makes its easel examine the queue (the event joins the
agenda), every other register ignores it. -/
def State.writeAs (s : State) (slot pa : Nat) (bs : List Byte) : State :=
  if windowOf pa = .device then
    match doorbellAt (pa - deviceBase) with
    | some q => { s with agenda := s.agenda ++ [{ row := .doorbell, a := q }] }
    | none => s
  else
    let m := sectorsOf (pa % 512) bs.length
    let s := s.sliceTake slot (pa / 512) m
    { s with mem := Memory.writeN s.mem pa bs, poison := poisonAfter s.poison pa bs.length }.sliceDirty slot (pa / 512) m
/-- Bytes by blocks, from an address on; the first argument bounds the blocks. -/
def byBlocks : Nat → Nat → List Byte → List (Nat × List Byte)
  | 0, _, _ => []
  | k + 1, pa, bs =>
    if bs.isEmpty then [] else (pa, bs.take (512 - pa % 512)) :: byBlocks k (pa + (512 - pa % 512)) (bs.drop (512 - pa % 512))
/-- A write that no page table stands before: under the null key. -/
def State.physWrite (s : State) (pa : Nat) (bs : List Byte) : State :=
  (byBlocks (bs.length / 512 + 2) pa bs).foldl (fun s x => s.writeAs 0 x.1 x.2) s
/-- Words that a write of n bytes at pa leaves poisoned (R195). -/
def State.partlyPoisoned (s : State) (pa n : Nat) : List Nat :=
  (wordsOf pa n).filter fun w => s.poison.contains w && !coversWord pa n w

/-! ## Contexts and translation (R155 to R160, R281) -/

/-- Address space and root of a context: as cached, else as its table entry has them. -/
def State.ctxOf (s : State) (ctx : Nat) : Nat × Nat :=
  match s.ctxCache.find? fun e => e.1 == ctx with
  | some e => e.2
  | none =>
    let d := s.physDword (s.dev.ctxbase.toNat + 16 * ctx)
    (d.toNat / 2 ^ 52, d.toNat / 32768 % 2 ^ 37 * 32768)
def State.asidOf (s : State) (ctx : Nat) : Nat := (s.ctxOf ctx).1
/-- The context may run (R281): EN of its entry. -/
def State.ctxEnabled (s : State) (ctx : Nat) : Bool := (s.physDword (s.dev.ctxbase.toNat + 16 * ctx)).getLsbD 0
def State.useCtx (s : State) (ctx : Nat) : State :=
  if s.ctxCache.any fun e => e.1 == ctx then s else { s with ctxCache := s.ctxCache ++ [(ctx, s.ctxOf ctx)] }

/-! Fault codes (R300). -/

namespace Code
def illegal : Nat := 0x01
def stale : Nat := 0x02
def fpx : Nat := 0x03
def brxRange : Nat := 0x04
def retOver : Nat := 0x05
def retEmpty : Nat := 0x06
def align : Nat := 0x07
def badSys : Nat := 0x08
def barRange : Nat := 0x09
def barOver : Nat := 0x0A
def barCount : Nat := 0x0B
def treeOver : Nat := 0x0C
def treeTag : Nat := 0x0D
def syncMask : Nat := 0x0E
def lpRange : Nat := 0x0F
def spRange : Nat := 0x10
def csmRange : Nat := 0x11
def chsRange : Nat := 0x12
def noMatrix : Nat := 0x13
def accRange : Nat := 0x14
def tileDesc : Nat := 0x15
def tensEnt : Nat := 0x16
def bwaitRange : Nat := 0x17
def copyShape : Nat := 0x18
def copyOvl : Nat := 0x19
def copySize : Nat := 0x1A
def subsCard : Nat := 0x1B
def annBad : Nat := 0x1C
def trap : Nat := 0x1D
def bkpt : Nat := 0x1E
def addr : Nat := 0x40
def notMapped : Nat := 0x41
def ptFormat : Nat := 0x42
def perm : Nat := 0x43
def key : Nat := 0x44
def poison : Nat := 0x45
def atomSup : Nat := 0x46
def annPage : Nat := 0x47
def linkTo : Nat := 0x48
end Code

/-- A leaf breaks the layout (R157, R159, R162); lvl is the level it stands at, own the module's own number. -/
def leafBad (own lvl : Nat) (p : Pte) : Bool :=
  Pte.grainCode p == 3 || Pte.cohCode p == 3 || Pte.kindCode p == 3
  || (!Pte.rd p && Pte.w p)
  || (decide (0 < lvl) && (Pte.contig p || Pte.pa p % 2 ^ 27 != 0))
  || (match windowOf (Pte.pa p) with
      | .local_ => Pte.pa p / 2 ^ 40 != 0
      | .peer n => n == own || Pte.coh p == .dir
      | .hostCoherent => false
      | .hostPcie => Pte.coh p == .dir
      | .device => Pte.coh p != .uc
      | .none => true)
/-- A non-leaf entry breaks the layout: bits [14:2] and [63:52] are reserved. -/
def tableBad (p : Pte) : Bool := p.toNat / 4 % 2 ^ 13 != 0 || p.toNat / 2 ^ 52 != 0

/-- A translation: the leaf, the first virtual address it maps, and its size. -/
structure Leaf where
  pte : Pte
  base : Nat
  size : Nat
  deriving DecidableEq, Repr

/-- Bytes an entry of a level maps. -/
def spanOf (lvl : Nat) : Nat := 2 ^ (15 + 12 * lvl)
/-- The entry a walk reads for an address in a table of a level. -/
def State.entryAt (s : State) (va lvl table : Nat) : Pte := s.physDword (table + 8 * (va / spanOf lvl % 4096))
/-- What an entry of a level says of an address: a fault, a leaf, or the next table. An entry of a 2 MiB run gives the whole
page (R158); where its address does not lie in an aligned run, software has broken the run and the entry itself counts
(log 22). -/
def State.readEntry (s : State) (va lvl table : Nat) : Except Nat (Leaf ⊕ Nat) :=
  let e := s.entryAt va lvl table
  if !Pte.v e then .error Code.notMapped
  else if Pte.leaf e then
    if 2 ≤ lvl || leafBad s.dev.modnum.toNat lvl e then .error Code.ptFormat
    else
      let i := va / spanOf 0 % 64
      if lvl = 0 && Pte.contig e && Pte.pa e % 2 ^ 21 == 32768 * i then
        .ok (.inl ⟨e - BitVec.ofNat 64 (32768 * i), va / 2 ^ 21 * 2 ^ 21, 2 ^ 21⟩)
      else .ok (.inl ⟨e, va / spanOf lvl * spanOf lvl, spanOf lvl⟩)
  else if lvl = 0 || tableBad e then .error Code.ptFormat
  else .ok (.inr (Pte.pa e))
/-- The walk (R156) from a table of a level down to level 0. -/
def State.walkFrom (s : State) (va : Nat) : Nat → Nat → Except Nat Leaf
  | 0, table =>
    match s.readEntry va 0 table with
    | .error c => .error c
    | .ok (.inl l) => .ok l
    | .ok (.inr _) => .error Code.ptFormat
  | n + 1, table =>
    match s.readEntry va (n + 1) table with
    | .error c => .error c
    | .ok (.inl l) => .ok l
    | .ok (.inr t) => s.walkFrom va n t

/-- What an access needs of its page (R159). -/
inductive Need where
  | load | store | atomic | fetch | ldro
  deriving DecidableEq, Repr
def permOk (p : Pte) (n : Need) : Bool :=
  match n with
  | .load => Pte.rd p
  | .store => Pte.w p
  | .atomic => Pte.rd p && Pte.w p
  | .fetch => Pte.x p
  | .ldro => Pte.rd p && Pte.ro p
/-- The slot holds a key (R159, R161); slot 0 is the null key. -/
def State.keyLoaded (s : State) (slot : Nat) : Bool := slot == 0 || s.keys.any fun k => k.1 == slot
/-- Every link to an agent is down (R274, R288); a peer that no link is wired to has none that is up. -/
def State.agentDown (s : State) (a : Agent) : Bool :=
  match a with
  | .peer n => !(s.links.toList.any fun l => l.1 == n && l.2)
  | .host => s.hostDown
/-- Every link to the window's agent is down. -/
def State.linkDown (s : State) (pa : Nat) : Bool :=
  match windowOf pa with
  | .peer n => s.agentDown (.peer n)
  | .hostCoherent => s.agentDown .host
  | .hostPcie => s.agentDown .host
  | _ => false
/-- The checks an access makes on the leaf it uses, in the order PERM, KEY, LINKTO (R159, R288). -/
def State.leafCheck (s : State) (p : Pte) (pa : Nat) (n : Need) : Option Nat :=
  if !permOk p n then some Code.perm
  else if !s.keyLoaded (Pte.key p) then some Code.key
  else if s.linkDown pa then some Code.linkTo
  else none

def State.tlbFind (s : State) (cl asid va : Nat) : Option Leaf :=
  (s.tlb.find? fun e => e.cluster == cl && e.asid == asid && decide (e.base ≤ va) && decide (va < e.base + e.size)).map
    fun e => ⟨e.pte, e.base, e.size⟩
/-- Drop the entry of a cluster that was filled first: R160 leaves the replacement open, and this is the model's choice (log 38).
-/
def tlbDropLast (cl : Nat) : List TlbEntry → List TlbEntry
  | [] => []
  | e :: l => if e.cluster = cl && !(l.any fun x => x.cluster == cl) then l else e :: tlbDropLast cl l
def State.tlbInsert (s : State) (cl asid : Nat) (l : Leaf) : State :=
  let old := if Config.tlbEntries ≤ s.tlb.countP (fun e => e.cluster == cl) then tlbDropLast cl s.tlb else s.tlb
  { s with tlb := ⟨cl, asid, l.base, l.size, l.pte⟩ :: old }

/-- The translation of a page for a core (R156, R160): the cluster TLB, else a walk that fills it. -/
def State.pageOf (s : State) (core ctx va : Nat) : State × Except Nat Leaf :=
  let s := s.useCtx ctx
  let cx := s.ctxOf ctx
  match s.tlbFind (clusterOf core) cx.1 va with
  | some l => (s, .ok l)
  | none =>
    match s.walkFrom va 3 cx.2 with
    | .error c => (s, .error c)
    | .ok l => (s.tlbInsert (clusterOf core) cx.1 l, .ok l)

/-- A translated access: physical address and leaf. -/
structure Xl where
  pa : Nat
  pte : Pte
  deriving DecidableEq, Repr
/-- Translate a virtual address below 2^57 and check the leaf; no effect but TLB and context fills. -/
def State.xlate (s : State) (core ctx : Nat) (va : Nat) (n : Need) : State × Except Nat Xl :=
  if 2 ^ 57 ≤ va then (s, .error Code.addr)
  else
    match s.pageOf core ctx va with
    | (s, .error c) => (s, .error c)
    | (s, .ok l) =>
      let pa := Pte.pa l.pte + (va - l.base)
      match s.leafCheck l.pte pa n with
      | some c => (s, .error c)
      | none => (s, .ok ⟨pa, l.pte⟩)

/-! ## The L1 (R151 to R154, R166) -/

/-- The sectors of the grains that n bytes at an offset touch (R166). -/
def grainMask (p : Pte) (off n : Nat) : BitVec 16 :=
  sectorMask (off / Pte.grain p * (Pte.grain p / 32)) (((off + n - 1) / Pte.grain p - off / Pte.grain p + 1) * (Pte.grain p / 32))
/-- All grains of a block, as masks. -/
def grainMasks (p : Pte) : List (BitVec 16) :=
  (List.range (512 / Pte.grain p)).map fun k => sectorMask (k * (Pte.grain p / 32)) (Pte.grain p / 32)

def Block.is (b : Block) (core asid vb : Nat) : Bool := b.core == core && b.asid == asid && b.vb == vb
def State.block? (s : State) (core asid va : Nat) : Option Block := s.l1.find? fun b => b.is core asid (va / 512)
/-- Keeps its own poison marks: SI blocks, and read-only sectors of any. -/
def Block.copies (b : Block) (m : BitVec 16) : Bool := Pte.coh b.pte == .si || (b.ro &&& m) != 0
/-- A generic access to n bytes hits. -/
def Block.hit (b : Block) (off n : Nat) : Bool :=
  let m := sectorsOf off n
  (b.valid &&& m) == m && (b.ro &&& m) == 0
def Block.hitRo (b : Block) (off n : Nat) : Bool :=
  let m := sectorsOf off n
  (b.valid &&& b.ro &&& m) == m
/-- A reading stack's copy of a peer's sectors (R188). -/
def State.peerCopy (s : State) (core pa n : Nat) : Option SliceBlock :=
  if isPeer pa then
    (s.slice? (coreStack core) (pa / 512)).filter fun b => let m := sectorsOf (pa % 512) n; (b.valid &&& m) == m
  else none
/-- Bytes behind a core's L1, and whether they are poisoned: the stack's copy of a peer's block, else the home point. -/
def State.behind (s : State) (core : Nat) (p : Pte) (pa n : Nat) : List Byte × Bool :=
  match s.peerCopy core pa n with
  | some b => (Memory.readN b.data (pa % 512) n, poisoned b.poison (pa % 512) n)
  | none => (s.readAs (Pte.key p) pa n, poisoned s.poison pa n)
/-- Bytes of a block as its core reads them, and whether they are poisoned. Of a DIR copy the marks stand at the home point,
where its stores have gone through (log 41); its bytes are its own plaintext, whatever key the slot holds by now (R292). -/
def State.blockRead (s : State) (b : Block) (off n : Nat) : List Byte × Bool :=
  (Memory.readN b.data off n,
   if b.copies (sectorsOf off n) then poisoned b.poison off n else (s.behind b.core b.pte (b.pb * 512 + off) n).2)

/-- Threads of a core whose watched line meets bytes of an address space get an event; the line is no longer watched
where it leaves the L1. -/
def State.fireWatch (s : State) (core asid base len : Nat) (bit : BitVec 8) (gone : Bool) : State :=
  { s with groups := s.groups.map fun g =>
      if g.core = core then
        g.mapThreads fun _ _ t =>
          match t.watch with
          | some w =>
            if w.asid = asid ∧ w.base < base + len ∧ base < w.base + w.len then
              { t.wake bit with watch := if gone then none else t.watch }
            else t
          | none => t
      else g }
/-- An event on the watches of some sectors of a block. -/
def State.fireSectors (s : State) (b : Block) (m : BitVec 16) (bit : BitVec 8) (gone : Bool) : State :=
  (sectorList m).foldl (fun s i => s.fireWatch b.core b.asid (b.vb * 512 + 32 * i) 32 bit gone) s

def State.putBlock (s : State) (b : Block) : State :=
  { s with l1 := b :: s.l1.filter fun x => !x.is b.core b.asid b.vb }
def State.modBlock (s : State) (b : Block) : State :=
  { s with l1 := s.l1.filterMap fun x =>
      if x.is b.core b.asid b.vb then (if b.valid = 0 then none else some b) else some x }
def Block.clear (b : Block) (m : BitVec 16) : Block :=
  { b with valid := b.valid &&& ~~~ m, dirty := b.dirty &&& ~~~ m, ro := b.ro &&& ~~~ m }
/-- The directory's invalidation of the DIR copies of the grains that a write of n bytes touches (R152, R165), except at one
core; lines that outside agents hold go too (R290). DIR data has one copy, at the home point, so nothing is to be written
back. -/
def State.dirInvalidate (s : State) (keep : Option Nat) (pa n : Nat) (p : Pte) (bit : BitVec 8) : State :=
  (s.l1.filter fun b => some b.core != keep && b.pb == pa / 512 && Pte.coh b.pte == .dir).foldl
    (fun s b =>
      let m := (grainMask p (pa % 512) n ||| grainMask b.pte (pa % 512) n) &&& b.valid &&& ~~~ b.ro
      if m = 0 then s else (s.modBlock (b.clear m)).fireSectors b m bit true)
    { s with agentLines := s.agentLines.filter fun a => a.blk != pa / 512 }
/-- Bytes that an agent writes at their home, block by block, with the directory's invalidations (R165, R170, R210). -/
def State.agentPut (s : State) (slot pa : Nat) (bs : List Byte) : State :=
  (byBlocks (bs.length / 512 + 2) pa bs).foldl (fun s x =>
    (s.dirInvalidate none x.1 x.2.length 0 wWch).writeAs slot x.1 x.2) s

/-! ## The error log (R320) -/

structure LogRec where
  kind : Nat
  easel : Nat := 0
  ctx : Nat := 0
  code : Nat := 0
  addr : DWord := 0
  pc : DWord := 0
  queue : Nat := 0
  index : Word := 0
  group : Word := 0
  lanes : Lanes := 0
  core : Word := 0
  thread0 : Nat := 0
  deriving DecidableEq, Repr

/-- The 64 bytes of entry n. -/
def LogRec.bytes (e : LogRec) (n : DWord) (ecyc : Nat) : List Byte :=
  toBytes 8 (n + 1)
  ++ toBytes 4 (BitVec.ofNat 64 (e.kind * 2 ^ 28 + e.ctx % 4096 * 65536 + e.code % 256)) ++ toBytes 4 0
  ++ toBytes 8 e.addr ++ toBytes 8 e.pc ++ toBytes 4 (BitVec.ofNat 64 e.queue) ++ toBytes 4 (e.index.setWidth 64)
  ++ toBytes 4 (e.group.setWidth 64) ++ toBytes 4 (e.lanes.setWidth 64) ++ toBytes 4 (e.core.setWidth 64)
  ++ toBytes 4 (BitVec.ofNat 64 e.thread0) ++ toBytes 8 (BitVec.ofNat 64 ecyc)
/-- Write the next entry of the error log ring; then ELCOUNT rises. -/
def State.log (s : State) (e : LogRec) : State :=
  let n := s.dev.elcount
  let pa := s.dev.elbase.toNat + 64 * (n.toNat % Config.errorRing)
  let s := s.agentPut 0 pa (e.bytes n (s.ecyc[e.easel % 8]))
  { s with dev := { s.dev with elcount := n + 1 } }
/-- The fields of an entry that name a launch, a group and lanes of a bunch. -/
def State.logOf (s : State) (g : Group) (bi : Nat) (lanes : Lanes) : LogRec :=
  match s.launch? g.launch with
  | some l => { kind := 4, easel := l.easel, ctx := l.ctx, queue := l.queue, index := l.index,
                group := BitVec.ofNat 32 g.num, lanes := lanes, core := coreWord g.core, thread0 := 32 * bi }
  | none => { kind := 4, group := BitVec.ofNat 32 g.num, lanes := lanes, core := coreWord g.core, thread0 := 32 * bi }
/-- A KIND 3 entry for each word that a write of n bytes at pa leaves poisoned (R195). -/
def State.logPoison (s : State) (e : LogRec) (pa n : Nat) : State :=
  (s.partlyPoisoned pa n).foldl
    (fun s w => s.log { e with kind := 3, code := Code.poison, addr := BitVec.ofNat 64 (8 * w) }) s
/-! ## Fills, write-backs and invalidations of the L1 (R151 to R154, R160, R166, R188) -/

/-- A copy of a peer's block takes some of its sectors from the peer's home slice, bytes and poison marks (R188, R195). -/
def SliceBlock.takeHome (s : State) (b : SliceBlock) (m : BitVec 16) : SliceBlock :=
  (sectorList (m &&& b.valid)).foldl (fun (b : SliceBlock) i =>
    { b with
      data := Memory.writeN b.data (32 * i) (Memory.readN s.mem (512 * b.pb + 32 * i) 32)
      poison := (List.range 4).foldl (fun p k =>
        if s.poison.contains (64 * b.pb + 4 * i + k) then addPoison p (4 * i + k) else p) (b.poison.filter fun w => w / 4 != i) }) b
/-- An access of the module has reached a peer's home slice: what it found or left there is what every stack's copy of those
sectors shows from now on, so that no later load of the module returns an older value (R173, R183, log 71). -/
def State.peerFresh (s : State) (pb : Nat) (m : BitVec 16) : State :=
  if isPeer (512 * pb) then { s with slices := s.slices.map fun b => if b.pb == pb then b.takeHome s m else b } else s
/-- A write to the home point of a page, straight through (R172). -/
def State.putHome (s : State) (p : Pte) (pa : Nat) (bs : List Byte) : State :=
  (s.writeAs (Pte.key p) pa bs).peerFresh (pa / 512) (sectorsOf (pa % 512) bs.length)
/-- Copy sectors of a block with data copies to memory, poison with them. What goes to a window whose links are down is
logged and lost (R288). -/
def State.copyBack (s : State) (b : Block) (m : BitVec 16) : State :=
  (sectorList m).foldl (fun s i =>
    let pa := b.pb * 512 + 32 * i
    if s.linkDown pa then s.log { kind := 4, code := Code.linkTo, addr := BitVec.ofNat 64 pa, core := coreWord b.core }
    else
      let s := s.writeAs (Pte.key b.pte) pa (Memory.readN b.data (32 * i) 32)
      { s with poison := (List.range 4).foldl (fun p k => if b.poison.contains (4 * i + k) then addPoison p (pa / 8 + k) else p)
                 s.poison }.peerFresh b.pb (sectorMask i 1)) s
/-- The whole grains that hold a dirty sector among m. -/
def Block.dirtyGrains (b : Block) (m : BitVec 16) : BitVec 16 :=
  (grainMasks b.pte).foldl (fun acc g => if (b.dirty &&& g &&& m) != 0 then acc ||| (g &&& b.valid &&& ~~~ b.ro) else acc) 0
/-- Write back whole grains that are dirty (SI only: DIR data has one copy) and mark them clean (R152, R166). -/
def State.writeBack (s : State) (b : Block) (m : BitVec 16) : State × Block :=
  let g := b.dirtyGrains m
  let s := if Pte.coh b.pte = .si then s.copyBack b g else s
  (s, { b with dirty := b.dirty &&& ~~~ g })
/-- Write back and drop sectors of a block, with an event for their watches. -/
def State.dropSectors (s : State) (b : Block) (m : BitVec 16) (bit : BitVec 8) : State :=
  let r := s.writeBack b m
  (r.1.modBlock (r.2.clear m)).fireSectors b (m &&& b.valid &&& ~~~ b.ro) bit true
def State.dropBlock (s : State) (b : Block) (bit : BitVec 8) : State := s.dropSectors b 0xFFFF bit

/-- The groups that hold chunks of a core: those resident, and those gone whose region accesses are still on their way to
(R145, R149). -/
def State.csmBusy (s : State) (gid : Nat) : Bool :=
  (s.csmNet.any fun m => m.gid == gid) || (s.stores.any fun t => t.sp == .csm && t.target == gid)
  || (s.reqs.any fun r => r.sp == .csm && r.target == gid)
  || s.groups.any fun g => g.bunches.any fun b => (b.mx.cmds ++ b.cp.cmds).any fun c =>
    match c.op with
    | .accadd _ _ .csm => (lanesOf c.lanes).any fun l => c.target[l] == gid
    | .copy job => job.sgid == gid || job.dgid == gid
    | _ => false
def State.holdersOn (s : State) (core : Nat) : List Group :=
  s.groups.filter fun g => g.core == core && (!g.left || s.csmBusy g.gid)
def State.chunksHeld (s : State) (core : Nat) : List Nat := (s.holdersOn core).flatMap fun g => g.chunks
def Header.chunks (h : Header) : Nat := (h.scratch + Config.chunkBytes - 1) / Config.chunkBytes
/-- The lowest numbers below a limit that a list does not hold. -/
def lowestFree (limit n : Nat) (held : List Nat) : List Nat := ((List.range limit).filter fun i => !held.contains i).take n
/-- The lent chunks that placements waiting on a core have chosen: the lowest ones (R150). -/
def State.chunksChosen (s : State) (core : Nat) : List Nat :=
  lowestFree (chunksOf core) ((s.launches.map fun l => (l.waiting.countP fun w => w.2 == core) * l.hdr.chunks).sum) (s.chunksHeld core)
/-- Ways of each set of a core's L1 that take fills: 8, and one per chunk that no group holds and none reclaims (R149 to
R151). -/
def State.l1Ways (s : State) (core : Nat) : List Nat :=
  let held := s.chunksHeld core ++ s.chunksChosen core
  List.range Config.l1Ways ++ ((List.range (chunksOf core)).filter fun c => !held.contains c).map (Config.l1Ways + ·)
def Block.set (b : Block) : Nat := b.vb % Config.l1Sets
/-- Where a block of a set comes to lie: a free way, else that of the least recently used block, which leaves. -/
def State.wayFor (s : State) (core set : Nat) : Nat × Option Block :=
  let l := s.l1.filter fun b => b.core == core && b.set == set
  match (s.l1Ways core).find? fun w => !(l.any fun b => b.way == w) with
  | some w => (w, none)
  | none => match (l.filter fun b => (s.l1Ways core).contains b.way).getLast? with
    | some b => (b.way, some b)
    | none => (0, none)

/-- Sectors that a core's L1 is about to fill come into the slice before it: the home slice, or for a peer's memory one of the
reading stack (R163, R188). -/
def State.fetchInto (s : State) (core : Nat) (p : Pte) (pb : Nat) (m : BitVec 16) : State :=
  if isPeer (512 * pb) then
    let st := coreStack core
    let s := s.sliceRoom st pb
    let b := (s.slice? st pb).getD ⟨st, pb, 0, 0, 0, [], []⟩
    (s.putSlice { b with valid := b.valid ||| m }).peerFresh pb (m &&& ~~~ b.valid)
  else s.sliceTake (Pte.key p) pb m
/-- Fill sectors from behind the L1. -/
def Block.fill (s : State) (b : Block) (m : BitVec 16) (ro : Bool) : Block :=
  let b' := { b with valid := b.valid ||| m, ro := if ro then b.ro ||| m else b.ro &&& ~~~ m }
  (sectorList m).foldl (fun x i =>
    { x with
      data := Memory.writeN x.data (32 * i) (s.behind x.core x.pte (x.pb * 512 + 32 * i) 32).1
      poison := if b'.copies m then (List.range 4).foldl (fun p k =>
          if (s.behind x.core x.pte (x.pb * 512 + 32 * i + 8 * k) 8).2 then addPoison p (4 * i + k) else p)
        (x.poison.filter fun w => w / 4 != i) else x.poison }) b'
/-- Other virtual blocks under which the L1s of the cluster hold a physical block are written back and dropped (R153,
R175). -/
def State.dropAliases (s : State) (core asid vb pb : Nat) : State :=
  (s.l1.filter fun x => clusterOf x.core == clusterOf core && x.pb == pb && !(x.asid == asid && x.vb == vb)).foldl
    (fun s x => s.dropBlock x wEvc) s
/-- The same where nothing is filled under the address, for an access that goes past the L1: read-only sectors stay (R154). -/
def State.aliasesBack (s : State) (core pb : Nat) (keep : Block → Bool) : State :=
  (s.l1.filter fun x => clusterOf x.core == clusterOf core && x.pb == pb && !keep x).foldl
    (fun s x => if (x.valid &&& ~~~ x.ro) = 0 then s else s.dropSectors x (x.valid &&& ~~~ x.ro) wEvc) s
/-- The grains that n bytes at va touch are brought into a core's L1 (R151 to R154, R166). A block of another page, and one in
a way that has stopped taking fills (R150), leaves first. -/
def State.l1Fill (s : State) (core asid va : Nat) (x : Xl) (n : Nat) (ro : Bool) : State :=
  let pb := x.pa / 512
  let m := grainMask x.pte (va % 512) n
  let s := (s.dropAliases core asid (va / 512) pb).fetchInto core x.pte pb m
  let needs := fun (b : Block) => m &&& ~~~ (b.valid &&& (if ro then b.ro else ~~~ b.ro))
  let s := match s.block? core asid va with
    | some b =>
      if b.pb != pb || (needs b != 0 && !(s.l1Ways core).contains b.way) then s.dropBlock b wEvc else s
    | none => s
  match s.block? core asid va with
  | some b =>
    let need := needs b
    let clash := if ro then m &&& b.valid &&& ~~~ b.ro else 0
    let s := if clash != 0 then s.dropSectors b clash wEvc else s
    let b := (s.block? core asid va).getD { b with valid := 0, dirty := 0, ro := 0 }
    s.putBlock (b.fill s need ro)
  | none =>
    let w := s.wayFor core (va / 512 % Config.l1Sets)
    let s := match w.2 with | some v => s.dropBlock v wEvc | none => s
    s.putBlock (Block.fill s ⟨core, w.1, asid, va / 512, pb, x.pte, 0, 0, 0, [], []⟩ m ro)

/-- An access that takes its value from the home point, past the L1: UC pages, and SO accesses of SI pages (R152, R177). -/
def homeOnly (p : Pte) : Bool := Pte.coh p == .uc || (Pte.coh p == .si && Pte.kind p == .so)
/-- The home point's bytes for a core. An alias that its cluster's L1s hold goes back first, so that the thread's own stores
are seen (R173, R175). -/
def State.homeLoad (s : State) (core asid va : Nat) (x : Xl) (n : Nat) : State × List Byte × Bool :=
  let s := s.aliasesBack core (x.pa / 512) fun b => b.asid == asid && b.vb == va / 512
  let s := if isLocal x.pa then s.sliceTake (Pte.key x.pte) (x.pa / 512) (sectorsOf (x.pa % 512) n) else s
  (s.peerFresh (x.pa / 512) (sectorsOf (x.pa % 512) n), s.readAs (Pte.key x.pte) x.pa n, poisoned s.poison x.pa n)
/-- A load of n bytes within one block, taken at once: the L1 serves it, after a fill where a grain is absent (R152). -/
def State.loadNow (s : State) (core asid va : Nat) (x : Xl) (n : Nat) : State × List Byte × Bool :=
  if homeOnly x.pte then s.homeLoad core asid va x n
  else
    let s := match s.block? core asid va with
      | some b => if b.hit (va % 512) n && b.pb == x.pa / 512 then s.putBlock b else s.l1Fill core asid va x n false
      | none => s.l1Fill core asid va x n false
    match s.block? core asid va with
    | some b => (s, s.blockRead b (va % 512) n)
    | none => (s, s.behind core x.pte x.pa n)
/-- What a load of n bytes would return, with no effect. -/
def State.peek (s : State) (core asid va : Nat) (x : Xl) (n : Nat) : List Byte × Bool :=
  match s.block? core asid va with
  | some b =>
    if !homeOnly x.pte && b.hit (va % 512) n && b.pb == x.pa / 512 then s.blockRead b (va % 512) n
    else (s.readAs (Pte.key x.pte) x.pa n, poisoned s.poison x.pa n)
  | none => (s.readAs (Pte.key x.pte) x.pa n, poisoned s.poison x.pa n)

/-- The SI action of an acquire wider than .gp (R152). -/
def State.siAcquire (s : State) (core asid : Nat) : State :=
  (s.l1.filter fun b => b.core == core && b.asid == asid && Pte.coh b.pte == .si).foldl
    (fun s b =>
      let m := (grainMasks b.pte).foldl
        (fun acc g => if (b.valid &&& ~~~ b.ro &&& ~~~ b.dirty &&& g) != 0 then acc ||| (g &&& b.valid &&& ~~~ b.ro) else acc) 0
      if m = 0 then s else s.dropSectors b m wEvc) s
/-- The SI action of a release wider than .gp (R152): every dirty SI grain of the core is written back whole. -/
def State.siRelease (s : State) (core : Nat) : State :=
  (s.l1.filter fun b => b.core == core && Pte.coh b.pte == .si && b.dirty != 0).foldl
    (fun s b => let r := s.writeBack b 0xFFFF; r.1.modBlock r.2) s
/-- An acquire at .sy invalidates the reading stack's copies of peers' blocks (R188); those of the other stacks go too, so
that what happens before the acquire is seen wherever its thread is synchronised with (R183, log 71). -/
def State.peerAcquire (s : State) : State := { s with slices := s.slices.filter fun b => !isPeer (512 * b.pb) }
/-- ACQ.RO (R185): the read-only sectors of an address space leave a core's L1. -/
def State.dropRo (s : State) (core asid : Nat) : State :=
  (s.l1.filter fun b => b.core == core && b.asid == asid && b.ro != 0).foldl (fun s b => s.dropSectors b b.ro wEvc) s

end Sys2Proof.Machine
end

