-- ==== Sys2Proof/Machine/Stores.lean ====
section
/-! DEFINITION. Machine/Stores.lean: how bytes come to their places: stores into the L1 and the home point (R152, R172,
R177), scratchpads and windows (R143, R147), poison they merge into (R195); the slices' line locks and conflict queues
(R164) and the updates of atomics at the home point (R198, R199); the stores inside a core (R172, R173, R192, R306). -/

namespace Sys2Proof.Machine

/-! ## Lines (R152, R172, R177, R210) -/

/-- Bytes written into an L1 block, dirty where asked, with an event for the watches of their grains. -/
def State.blockWrite (s : State) (b : Block) (off : Nat) (bs : List Byte) (dirty : Bool) : State :=
  let b' := { b with
    data := Memory.writeN b.data off bs
    poison := poisonAfter b.poison off bs.length
    dirty := if dirty then b.dirty ||| sectorsOf off bs.length else b.dirty }
  (s.modBlock b').fireSectors b (grainMask b.pte off bs.length) wWch false
/-- A .gl or .lp store of bytes within one block, performed (R152, R172, R177, R210). -/
def State.storeGl (s : State) (core asid va : Nat) (x : Xl) (bs : List Byte) : State :=
  let off := va % 512
  if homeOnly x.pte then
    let s := (s.aliasesBack core (x.pa / 512) fun b => b.asid == asid && b.vb == va / 512).putHome x.pte x.pa bs
    match s.block? core asid va with
    | some b => if b.hit off bs.length && b.pb == x.pa / 512 then s.blockWrite b off bs false else s
    | none => s
  else
    let s := if Pte.coh x.pte = .dir then s.dirInvalidate (some core) x.pa bs.length x.pte wWch else s
    let s := s.l1Fill core asid va x bs.length false
    let s := if Pte.coh x.pte = .dir then s.putHome x.pte x.pa bs else s
    match s.block? core asid va with
    | some b => s.blockWrite b off bs true
    | none => s
/-- The 8-byte word at an address is marked poisoned where a load of it looks (R195). -/
def State.markWord (s : State) (core asid va : Nat) (x : Xl) : State :=
  match s.block? core asid va with
  | some b =>
    if Pte.coh b.pte == .si && !homeOnly x.pte && b.hit (va % 512) 4 then s.modBlock { b with poison := addPoison b.poison (va % 512 / 8) }
    else { s with poison := addPoison s.poison (x.pa / 8) }.peerFresh (x.pa / 512) (sectorsOf (x.pa % 512) 4)
  | none => { s with poison := addPoison s.poison (x.pa / 8) }.peerFresh (x.pa / 512) (sectorsOf (x.pa % 512) 4)

/-- Bytes written into a group's scratchpad (R143, R195). -/
def Group.spWrite (g : Group) (off : Nat) (bs : List Byte) : Group :=
  { g with sp := Memory.writeN g.sp off bs, spPoison := poisonAfter g.spPoison off bs.length }
/-- Bytes written into a launch's window on a stack (R147). -/
def Launch.chsWrite (l : Launch) (stack off : Nat) (bs : List Byte) : Launch :=
  { l with windows := l.windows.map fun w =>
      if w.stack = stack then { w with bytes := Memory.writeN w.bytes off bs, poison := poisonAfter w.poison off bs.length }
      else w }
/-- A .chs address: stack and offset (R147). -/
def chsStack (a : Nat) : Nat := a / 2 ^ 25 % 8
def chsOffset (a : Nat) : Nat := a % 2 ^ 25

/-- Scope wider than .gp: the SI actions of R152 apply. -/
def Scope.wide (c : Scope) : Bool := match c with | .bn => false | .gp => false | _ => true
def wideQ (q : Qual) : Bool := match q with | some c => Scope.wide c | none => false
/-- The run that a store's data error names (R320). -/
def State.storeRec (s : State) (st : Store) : LogRec :=
  match s.group? st.gid with
  | some g => { s.logOf g st.bunch (if st.wholeBunch = 0 then laneBit st.lane else st.wholeBunch) with kind := 3, code := Code.poison, pc := st.pc }
  | none => { kind := 3, code := Code.poison, pc := st.pc }
/-- Poisoned words among marks that n bytes at a touch and do not cover. -/
def partWords (p : List Nat) (a n : Nat) : List Nat := (wordsOf a n).filter fun w => p.contains w && !coversWord a n w
/-- The words that a write of n bytes merges into and leaves poisoned (R195), as byte addresses: physical, or of a
scratchpad. The scratchpad is that of a group, the window that of a launch. -/
def State.mergesAt (s : State) (core asid : Nat) (sp : Space) (gid launch addr pa n : Nat) : List Nat :=
  match sp with
  | .sp => match s.group? gid with
    | some g => (partWords g.spPoison addr n).map (8 * ·)
    | none => []
  | .csm => match s.group? gid with
    | some g => (partWords g.spPoison (addr % 2 ^ 20) n).map (8 * ·)
    | none => []
  | .chs => match (s.launch? launch).bind fun l => l.windows.find? fun w => w.stack == chsStack addr with
    | some w => (partWords w.poison (chsOffset addr) n).map (8 * ·)
    | none => []
  | _ =>
    match s.block? core asid addr with
    | some b =>
      if b.copies (sectorsOf (pa % 512) n) && b.hit (pa % 512) n then
        (partWords b.poison (pa % 512) n).map fun w => b.pb * 512 + 8 * w
      else (partWords s.poison pa n).map (8 * ·)
    | none => (partWords s.poison pa n).map (8 * ·)
/-- A store goes to another core's scratchpad (R143). -/
def Store.remote (st : Store) : Bool := st.sp == .csm && coreOfPos st.core (st.addr.toNat / 2 ^ 20 % 4) != st.core
/-- Those of a store; those of a remote one are found where it arrives. -/
def State.storeMerges (s : State) (st : Store) : List Nat :=
  if st.remote then [] else s.mergesAt st.core st.asid st.sp (if st.sp = .csm then st.target else st.gid) st.launch st.addr.toNat st.pa st.size

/-! ## Requests at a slice (R164, R198, R199) -/

/-- f(old, b) on w bits (R198): the new value, none where a compare fails. -/
def atomNew (code : Nat) {w : Nat} (old b c : BitVec w) : Option (BitVec w) :=
  match code with
  | 0 => some (old + b)
  | 1 => some (old &&& b)
  | 2 => some (old ||| b)
  | 3 => some (old ^^^ b)
  | 4 => some (if old.toInt ≤ b.toInt then old else b)
  | 5 => some (if old.toNat ≤ b.toNat then old else b)
  | 6 => some (if old.toInt ≤ b.toInt then b else old)
  | 7 => some (if old.toNat ≤ b.toNat then b else old)
  | 8 => some b
  | 9 => if old = c then some b else none
  | _ => some (BitVec.ofNat w (fp32.add .rne old.toNat b.toNat).code)
/-- The bytes an update leaves at its location, from the bytes there and the operand words; none: unchanged. -/
def atomBytes (op : ReqOp) (size : Nat) (old : List Byte) (b c : List Word) : Option (List Byte) :=
  match op with
  | .cas128 => if bytesWords old = c then some (wordBytes b) else none
  | .atom code =>
    if size = 8 then
      (atomNew code (BitVec.ofNat 64 (ofBytes old)) (pairOf (b.getD 0 0) (b.getD 1 0)) (pairOf (c.getD 0 0) (c.getD 1 0))).map
        fun x => toBytes 8 x
    else
      (atomNew code (BitVec.ofNat 32 (ofBytes old)) (b.getD 0 0) (c.getD 0 0)).map fun x => toBytes 4 (x.setWidth 64)
  | _ => none
def ReqOp.isAtomic : ReqOp → Bool
  | .atom _ => true
  | .cas128 => true
  | _ => false
def Req.cached (r : Req) : Bool := r.sp == .gl || r.sp == .lp
def outFault (l : Fin 32) (code : Nat) (a : DWord) : LaneOut := { fault := some { lane := l, code := code, addr := a } }
/-- A poisoned target (R195): a fault where a result is wanted, else a KIND 3 entry. -/
def State.atomPoison (s : State) (gid bi : Nat) (pc : DWord) (l : Fin 32) (ret : Bool) (a : Nat) (ea : DWord) : State × LaneOut :=
  if ret then (s, outFault l Code.poison ea)
  else
    let e : LogRec := match s.group? gid with | some g => s.logOf g bi (laneBit l) | none => { kind := 3 }
    (s.log { e with kind := 3, code := Code.poison, addr := BitVec.ofNat 64 (a / 8 * 8), pc := pc }, {})
/-- One update of a request at its home point (R172, R195, R198). -/
def State.updateHome (s : State) (r : Req) (x : ReqLane) : State × LaneOut :=
  let slot := Pte.key x.pte
  let m := sectorsOf (x.pa % 512) r.size
  let s := (s.sliceTake slot (x.pa / 512) m).peerFresh (x.pa / 512) m
  let old := s.readAs slot x.pa r.size
  if poisoned s.poison x.pa r.size then s.atomPoison r.gid r.bunch r.pc x.lane r.ret x.pa x.addr
  else
    let s := match atomBytes r.op r.size old x.b x.c with | some n => s.putHome x.pte x.pa n | none => s
    (s, { vals := if r.ret then bytesWords old else [] })
/-- Acts of a request's lanes in order. -/
def actReq (act : State → ReqLane → State × LaneOut) : List ReqLane → State → List (Fin 32 × LaneOut) → State × List (Fin 32 × LaneOut)
  | [], s, acc => (s, acc)
  | x :: xs, s, acc => let r := act s x; actReq act xs r.1 ((x.lane, r.2) :: acc)
/-- The copies of some bytes in a core's own L1 go back and leave (R152). -/
def State.dropOwn (s : State) (core pa n : Nat) (p : Pte) : State :=
  (s.l1.filter fun b => b.core == core && b.pb == pa / 512).foldl
    (fun s b =>
      let m := (grainMask p (pa % 512) n ||| grainMask b.pte (pa % 512) n) &&& b.valid &&& ~~~ b.ro
      if m = 0 then s else s.dropSectors b m wWch) s
/-- The copies of the grains that a request's lanes update go (R152, R165). -/
def State.clearFor (s : State) (r : Req) : State :=
  r.lanes.foldl (fun s x => (s.dropOwn r.core x.pa r.size x.pte).dirInvalidate none x.pa r.size x.pte wWch) s
/-- A run's updates of a block are applied in lane order, copies of the grain having been invalidated (R152, R199); what they
answer is kept. A location behind links that are down is not reached (R274). -/
def State.applyReq (s : State) (r : Req) : State :=
  if r.applied.isSome || r.lanes.any fun x => s.linkDown x.pa then s
  else
    let o := actReq (fun s x => s.updateHome r x) r.lanes (s.clearFor r) []
    { o.1 with reqs := o.1.reqs.map fun y => if y.id = r.id then { y with applied := some o.2 } else y }
def State.isLocked (s : State) (blk : Nat) : Bool := s.locks.any fun k => k.blk == blk
/-- Sectors that a request finds absent from its home slice: grains for an L1, and what a UC access itself touches (R152). -/
def State.absent (s : State) (r : Req) : BitVec 16 :=
  r.lanes.foldl (fun m x =>
    if isLocal x.pa then
      let want := if homeOnly x.pte then sectorsOf (x.pa % 512) r.size else grainMask x.pte (x.pa % 512) r.size
      m ||| ((sectorList want).foldl (fun m i => if s.sliceHolds (16 * (x.pa / 512) + i) then m else m ||| sectorMask i 1) 0)
    else m) 0
/-- The slice takes a request, behind those it has taken before; an atomic, or a fill from HBM, locks its block (R164). -/
def State.acceptReq (s : State) (r : Req) : State :=
  let m := s.absent r
  let key := ((r.lanes.head?).map fun x => Pte.key x.pte).getD 0
  let s := { s with reqs := (s.reqs.filter fun x => x.id != r.id) ++ [{ r with st := .accepted }] }
  if r.op.isAtomic || m != 0 then { s with locks := s.locks ++ [⟨r.blk, m, key, r.op.isAtomic⟩] } else s
/-- Requests queued for a block are taken in arrival order, up to one that locks it again. -/
def State.replay (blk : Nat) : List Req → State → State
  | [], s => s
  | r :: rs, s =>
    if r.blk = blk ∧ r.st = .queued then
      let s := s.acceptReq r
      if s.isLocked blk then s else State.replay blk rs s
    else State.replay blk rs s
/-- A request's lane reads memory at its home, through the L1 as its page says (R152, R154, R177, R196). Behind links that are
down it takes LINKTO (R288). -/
def State.readLane (s : State) (r : Req) (x : ReqLane) : State × LaneOut :=
  let y : Xl := ⟨x.pa, x.pte⟩
  let va := x.addr.toNat
  if s.linkDown x.pa then (s, outFault x.lane Code.linkTo x.addr)
  else
    let v : State × List Byte × Bool :=
      if r.op == .ldro && Pte.coh x.pte != .uc then
        let s := match s.block? r.core r.asid va with
          | some b => if b.pb == x.pa / 512 && b.hitRo (x.pa % 512) r.size then s else s.l1Fill r.core r.asid va y r.size true
          | none => s.l1Fill r.core r.asid va y r.size true
        match s.block? r.core r.asid va with
        | some b => (s, s.blockRead b (x.pa % 512) r.size)
        | none => (s, s.behind r.core x.pte x.pa r.size)
      else s.loadNow r.core r.asid va y r.size
    if v.2.2 then (v.1, outFault x.lane Code.poison x.addr) else (v.1, { vals := bytesWords v.2.1 })
def ReqOp.loads : ReqOp → Bool
  | .load => true
  | .acc _ => true
  | _ => false
/-- What an acquire does to the copies of its core, and of peers' blocks (R152, R188). -/
def State.afterAcquire (s : State) (core asid : Nat) (q : Qual) : State :=
  let s := if wideQ q then s.siAcquire core asid else s
  if q = some .sy then s.peerAcquire else s
/-- An acquire's SI action before its load takes its value (R178): the load reads its grain afresh from the home point, a peer's
too. -/
def State.acquireFor (s : State) (r : Req) : State :=
  if r.op.loads then
    let s := s.afterAcquire r.core r.asid r.q
    if wideQ r.q then
      r.lanes.foldl (fun s x => s.peerFresh (x.pa / 512) (grainMask x.pte (x.pa % 512) r.size)) s
    else s
  else s
/-- A load takes its values at its home. -/
def State.takeLoad (s : State) (r : Req) : State :=
  if r.applied.isSome then s
  else
    let o := actReq (fun s x => s.readLane r x) r.lanes (s.acquireFor r) []
    { o.1 with reqs := o.1.reqs.map fun y => if y.id = r.id then { y with applied := some o.2 } else y }
/-- A request that its slice has accepted is applied: an atomic updates its locations, a load takes its values. A WATCH's fill
takes none. -/
def State.serveReq (s : State) (r : Req) : State :=
  if r.op.isAtomic then s.applyReq r else if r.op = .watch then s else s.takeLoad r
/-- The requests of a block that its slice has accepted, in the order of acceptance (R164). -/
def State.acceptedOf (s : State) (blk : Nat) : List Req := s.reqs.filter fun r => r.cached && r.blk == blk && r.st == .accepted
def State.serveAll (s : State) (l : List Req) : State := l.foldl (fun s r => s.serveReq r) s
/-- Those of them that come before a request. -/
def State.before (s : State) (r : Req) : List Req := (s.acceptedOf r.blk).takeWhile fun x => x.id != r.id
/-- What held a block's lock is done, the lock clears, and the conflict queue is replayed (R164). -/
def State.endLock (s : State) (blk : Nat) : State :=
  match s.locks.find? fun k => k.blk == blk with
  | none => s
  | some k =>
    let s := s.sliceTake k.key blk k.fill
    let s := s.serveAll (s.acceptedOf blk)
    State.replay blk s.reqs { s with locks := s.locks.filter fun x => x.blk != blk }
/-- A block's locks clear in turn and what its slice has accepted is applied, before a later access of it; the first argument
bounds the locks. -/
def State.openBlock (blk : Nat) : Nat → State → State
  | 0, s => s
  | n + 1, s => if s.isLocked blk then State.openBlock blk n (s.endLock blk) else s.serveAll (s.acceptedOf blk)

/-- The blocks of n bytes at an address are opened, for an access that passes by the requests (R164). -/
def State.openFor (s : State) (pa n : Nat) : State :=
  (List.range ((pa % 512 + n + 511) / 512)).foldl (fun s k => State.openBlock (pa / 512 + k) (s.reqs.length + 1) s) s
/-- A .gl or .lp store whose place the slice opens first: it is applied after what the slice has accepted (R164). -/
def State.storeHome (s : State) (core asid va : Nat) (x : Xl) (bs : List Byte) : State :=
  (State.openBlock (x.pa / 512) (s.reqs.length + 1) s).storeGl core asid va x bs

/-! ## Stores inside a core (R172, R173, R192, R298, R306) -/

/-- A release's own grain on an SI page goes back with it: so it is performed at its scope (R172, R178). -/
def State.releaseGrain (s : State) (core asid va n : Nat) (pte : Pte) (q : Qual) : State :=
  if wideQ q && Pte.coh pte == .si then
    match s.block? core asid va with
    | some b => let r := s.writeBack b (grainMask pte (va % 512) n); r.1.modBlock r.2
    | none => s
  else s
/-- The place a store writes, as an aligned 8-byte word: two stores to one word are performed in issue order. -/
def Store.place (st : Store) : Nat × Nat × Nat :=
  match st.sp with
  | .gl => (0, 0, st.pa / 8)
  | .lp => (0, 0, st.pa / 8)
  | .sp => (1, st.gid, st.addr.toNat / 8)
  | .csm => (1, st.target, st.addr.toNat % 2 ^ 20 / 8)
  | .chs => (2, st.launch, st.addr.toNat / 8)
def Store.cached (st : Store) : Bool := st.sp == .gl || st.sp == .lp
/-- A store joins the message that carries its run's other stores to the word (R192); else a message of its own goes out. -/
def sendCsm (st : Store) : List CsmAccess → List CsmAccess
  | [] => [⟨coreOfPos st.core (st.addr.toNat / 2 ^ 20 % 4), st.target, [st], 0⟩]
  | [m] =>
    if m.stores.any fun x => x.issue == st.issue && x.place == st.place then [{ m with stores := m.stores ++ [st] }]
    else [m, ⟨coreOfPos st.core (st.addr.toNat / 2 ^ 20 % 4), st.target, [st], 0⟩]
  | m :: ms => m :: sendCsm st ms
/-- The bytes of a store go to their place; a remote .csm store is sent to the target core (R143, R144). -/
def State.putStore (s : State) (st : Store) : State :=
  let bs := toBytes st.size st.data
  match st.sp with
  | .sp => s.modGroup st.gid fun g => g.spWrite st.addr.toNat bs
  | .chs => s.modLaunch st.launch fun l => l.chsWrite (chsStack st.addr.toNat) (chsOffset st.addr.toNat) bs
  | .csm =>
    if st.remote then { s with csmNet := sendCsm st s.csmNet }
    else s.modGroup st.target fun g => g.spWrite (st.addr.toNat % 2 ^ 20) bs
  | _ =>
    (s.storeHome st.core st.asid st.addr.toNat ⟨st.pa, st.pte⟩ bs).releaseGrain st.core st.asid st.addr.toNat st.size st.pte st.q
/-- KIND 3 entries for words, by address, on behalf of a store (R195). -/
def State.logMerges (s : State) (st : Store) (l : List Nat) : State :=
  l.foldl (fun s a => s.log { s.storeRec st with addr := BitVec.ofNat 64 a }) s
/-- A store is performed; a KIND 3 entry names each word it merges into and leaves poisoned (R195). A store to a window
whose links are down is logged and lost (R288). -/
def State.applyStore (s : State) (st : Store) : State :=
  if st.cached && s.linkDown st.pa then s.log { s.storeRec st with kind := 4, code := Code.linkTo, addr := st.addr }
  else (s.logMerges st (s.storeMerges st)).putStore st
/-- Perform the chosen stores of the cores, in issue order. -/
def State.performStores (s : State) (sel : Store → Bool) : State :=
  let todo := s.stores.filter sel
  todo.foldl (fun s st => s.applyStore st) { s with stores := s.stores.filter fun st => !sel st }
/-- A group that has left and has no engine command and no access on its way any more is gone. -/
def Group.busy (g : Group) : Bool := g.bunches.any fun b => !b.mx.cmds.isEmpty || !b.cp.cmds.isEmpty
def State.reap (s : State) : State := { s with groups := s.groups.filter fun g => !(g.left && !g.busy && !s.csmBusy g.gid) }
/-- A remote .csm store reaches its core: applied, its poison logged, or discarded after departure (R145, R195). -/
def State.applyCsm (s : State) (m : CsmAccess) : State :=
  if (s.group? m.gid).any fun g => !g.left then
    m.stores.foldl (fun s st =>
      (s.logMerges st (s.mergesAt st.core st.asid .csm m.gid st.launch st.addr.toNat 0 st.size)).modGroup m.gid fun g =>
        g.spWrite (st.addr.toNat % 2 ^ 20) (toBytes st.size st.data)) s
  else s
/-- Remote stores on their way to the chosen groups arrive. -/
def State.drainTo (s : State) (sel : Nat → Bool) : State :=
  let goes := fun (m : CsmAccess) => !m.stores.isEmpty && sel m.gid
  let todo := s.csmNet.filter goes
  if todo.isEmpty then s
  else (todo.foldl (fun (s : State) m => s.applyCsm m) { s with csmNet := s.csmNet.filter fun m => !goes m }).reap
/-- Every remote store on its way arrives. -/
def State.drainCsm (s : State) : State := s.drainTo fun _ => true
/-- A store is of a thread: its own, or a bunch store of a run it was in (R139). -/
def Store.ofThread (st : Store) (gid bi : Nat) (l : Fin 32) : Bool :=
  st.gid == gid && st.bunch == bi && (st.lane == l || st.wholeBunch.getLsbD l.val)
/-- A store of a UO page, which only same-address order and FENCE.ALL order (R179). -/
def Store.isUo (st : Store) : Bool := st.cached && Pte.kind st.pte == .uo
/-- The earlier stores of some lanes of a bunch are performed, those of UO pages only where asked. With each go the cores'
stores to the same word, so that lanes of a run stay adjacent (R192). -/
def State.flushAll (s : State) (gid bi : Nat) (lanes : Lanes) (uo : Bool) : State :=
  let own := s.stores.filter fun st => (uo || !st.isUo) && (lanesOf lanes).any fun l => st.ofThread gid bi l
  (s.performStores fun st => own.any fun o => o.place == st.place).drainCsm
def State.flush (s : State) (gid bi : Nat) (lanes : Lanes) : State := s.flushAll gid bi lanes false
/-- Their earlier SO stores (R177); those of the issuing run itself stay together (R192). -/
def State.flushSo (s : State) (gid bi : Nat) (lanes : Lanes) : State :=
  let old := fun (st : Store) => st.issue != s.issues
  let own := s.stores.filter fun st =>
    old st && st.cached && Pte.kind st.pte == .so && (lanesOf lanes).any fun l => st.ofThread gid bi l
  s.performStores fun st => old st && own.any fun o => o.place == st.place
/-- Those of lanes that a test selects (R173, R186): with each go the cores' stores to the same word. -/
def State.flushWhere (s : State) (gid bi : Nat) (lanes : Lanes) (sel : Store → Bool) : State :=
  let own := s.stores.filter fun st => sel st && (lanesOf lanes).any fun l => st.ofThread gid bi l
  s.performStores fun st => own.any fun o => o.place == st.place
/-- Those on n bytes of memory. -/
def State.flushBytes (s : State) (gid bi : Nat) (lanes : Lanes) (pa n : Nat) : State :=
  s.flushWhere gid bi lanes fun st => st.cached && decide (st.pa < pa + n) && decide (pa < st.pa + st.size)
/-- Those on one word. -/
def State.flushPlace (s : State) (gid bi : Nat) (lanes : Lanes) (place : Nat × Nat × Nat) : State :=
  if s.stores.any fun st => st.place == place && (lanesOf lanes).any fun l => st.ofThread gid bi l then
    let s := s.performStores fun st => st.place == place
    if place.1 = 1 then s.drainTo fun gid => gid == place.2.1 else s
  else s
/-- A release of a thread at .sy would wait for a store, or a write-back of its core, that a link that is down loses
(R288). -/
def State.losesStore (s : State) (core gid bi : Nat) (l : Fin 32) : Bool :=
  (s.stores.any fun st => st.ofThread gid bi l && st.cached && !st.isUo && s.linkDown st.pa)
  || s.l1.any fun b => b.core == core && Pte.coh b.pte == .si && b.dirty != 0 && s.linkDown (512 * b.pb)
/-- A core, which holds at most 256 stores, makes room for n more before a run's stores retire into it (R192, R306); the
first argument bounds the stores performed. -/
def State.storeRoom (core n : Nat) : Nat → State → State
  | 0, s => s
  | k + 1, s =>
    if s.stores.countP (fun x => x.core == core) + n ≤ Config.coreStores then s
    else match s.stores.find? fun x => x.core == core with
      | some o => State.storeRoom core n k (s.performStores fun x => x.place == o.place)
      | none => s
/-- A store retires into its core. -/
def State.addStore (s : State) (st : Store) : State := { s with stores := s.stores ++ [st] }

end Sys2Proof.Machine
end

