-- ==== Sys2Proof/Machine/Ops.lean ====
section
/-! DEFINITION. Machine/Ops.lean: the shared operations of the instructions: work identifiers (R59), the error log
(R320), halts (R298), TAKING AN EXCEPTION (R311 to R315, R319) and the return from one (R316), the rename table with its
pools and spills (R82 to R93), and the pipeline of a lane instruction (R99). -/

namespace Sys2Proof.Machine

/-! ## Work identifiers (R59, R60) -/

/-- The mixed-radix digits of a number over extents, first extent fastest. -/
def digits : List Nat → Nat → List Nat
  | [], _ => []
  | e :: es, n => n % e :: digits es (n / e)
/-- The identifier's fields for a thread index and a group number. -/
def Header.fields (h : Header) (num t : Nat) : List Nat := digits (h.exts.take h.gl) t ++ digits (h.exts.drop h.gl) num
/-- Fields packed at their widths, field 0 lowest. -/
def packFields : List Nat → List Nat → Nat
  | w :: ws, f :: fs => f + 2 ^ w * packFields ws fs
  | _, _ => 0
def Header.wid (h : Header) (num t : Nat) : DWord := BitVec.ofNat 64 (packFields h.widths (h.fields num t))
/-- Thread index in the group, and number of the thread in the launch (R57, R148). -/
def threadIndex (bi : Nat) (l : Fin 32) : Nat := 32 * bi + l.val
def Header.threadNo (h : Header) (num bi : Nat) (l : Fin 32) : Nat := num * h.t + threadIndex bi l
/-- Lane-private addresses (R93, R131, R148): the slice, its return spill area, and a register's slot. -/
def Header.slice (h : Header) (num bi : Nat) (l : Fin 32) : Nat := h.lpb + h.threadNo num bi l * h.lps
def Header.programPart (h : Header) : Nat := h.lps - 256 - 32 * h.g
def Header.returnArea (h : Header) (num bi : Nat) (l : Fin 32) : Nat := h.slice num bi l + h.programPart
def Header.slot (h : Header) (num bi : Nat) (l : Fin 32) (r : Reg) : Nat := h.slice num bi l + h.lps - 256 + 4 * r.val

/-- A launch that is not there (a group always has one). -/
def Header.none : Header := ⟨0, 0, 0, 0, 0, 1, 0, 0, [], [], [], 0, 0, 0, 0, 0, 0, 0, 0, 0, []⟩
def State.hdrOf (s : State) (g : Group) : Header := match s.launch? g.launch with | some l => l.hdr | none => Header.none
def State.ctxOfGroup (s : State) (g : Group) : Nat := match s.launch? g.launch with | some l => l.ctx | none => 0

/-! ## Halts (R297 to R299, R308, R309) -/

def Cmd.started (c : Cmd) : Bool := c.done
/-- Threads of a core whose instructions wait for its engines look again (R66). -/
def State.engineFrees (s : State) (core : Nat) : State :=
  { s with groups := s.groups.map fun g =>
      if g.core = core then g.mapThreads fun _ _ t => if t.await == .engine then { t with await := .none } else t else g }
def Chain.undone (c : Chain) : Nat := c.cmds.countP fun x => !x.started
/-- Commands that have not started leave a chain; the batch of the first, and those after it, never complete (R299). -/
def Chain.discard (c : Chain) : Chain :=
  { c with
    cmds := c.cmds.filter fun x => x.started
    cut := match c.cmds.find? fun x => !x.started with
      | some x => some (c.cut.elim x.batch fun k => min k x.batch)
      | none => c.cut }
/-- They leave both chains of a bunch, and a form that waited for one of them is left at its counter (R257, R298). -/
def Bunch.discard (b : Bunch) : Bunch :=
  let b := b.mapThreads fun _ t =>
    match t.await with
    | .command id => match b.mx.cmds.find? fun c => c.id == id && !c.started with
      | some c => { t with pc := c.pc, await := .none }
      | none => t
    | _ => t
  { b with mx := b.mx.discard, cp := b.cp.discard }
/-- What a stopped group's chains hold that has not started is discarded and counted (R299), with that of instructions that
issued before the stop and execute after it; its subscriptions end. What its commands held on the core goes on (R66). -/
def State.discard (s : State) (gid : Nat) : State :=
  match s.group? gid with
  | none => s
  | some g =>
    let undone := (g.bunches.map fun b => b.mx.undone + b.cp.undone).sum
    let s := s.modGroup gid fun g => { g with
      bunches := g.bunches.map fun b => b.discard
      halted := g.halted.map fun h => { h with ndisc := h.ndisc + undone } }
    ({ s with subs := s.subs.map fun (u : Sub) => if u.gid = gid then { u with ending := true } else u }).engineFrees g.core
/-- The stop at a group (R298): stores of living threads inside the core become pending, and commands that have not started
are discarded. -/
def State.stopGroup (s : State) (gid reason : Nat) (o : Origin) : State :=
  match s.group? gid with
  | none => s
  | some g =>
    if g.halted.isSome then s
    else
      let alive := fun (st : Store) =>
        if st.wholeBunch = 0 then (match s.thread? st.gid st.bunch st.lane with | some t => t.live | none => false)
        else (lanesOf st.wholeBunch).any fun l => match s.thread? st.gid st.bunch l with | some t => t.live | none => false
      let mine := s.stores.filter fun st => st.gid == gid && alive st
      let s := s.modGroup gid fun g => { g with halted := some ⟨{ o with reason := reason }, s.clock, mine, 0, false⟩ }
      ({ s with stores := s.stores.filter fun st => !(st.gid == gid && alive st) }).discard gid
/-- The dump area's first byte (R296): the sections' sizes give DSZ. -/
def alignUp (n m : Nat) : Nat := (n + m - 1) / m * m
def Header.bunchCount (h : Header) : Nat := (h.t + 31) / 32
def Header.sectionSizes (h : Header) : List Nat :=
  [256 + 272 * h.bunchCount, (320 + 64 * h.accum) * h.t, h.scratch, 16 * h.nbar, 8192]
def Header.dsz (h : Header) : Nat := ((h.sectionSizes).map fun n => alignUp n 32768).sum
def Header.db (h : Header) : Nat := h.lpb + h.ngroup * h.t * h.lps
/-- A group halts (R298): its core applies the stop to every group of the launch at once, the other cores that hold one
get it later; the launch's first halt writes a KIND 2 entry (R320) and withdraws the groups not placed (R309). Of two
own halts the lower group number gives the origin of the others (R308). -/
def State.halt (s : State) (gid : Nat) (o : Origin) : State :=
  match s.group? gid with
  | none => s
  | some g =>
    if g.halted.isSome then s
    else
      match s.launch? g.launch with
      | none => s.stopGroup gid o.reason o
      | some l =>
        let s := s.stopGroup gid o.reason o
        let first := l.origin.isNone
        let orig := match l.origin with | none => o | some p => if o.group.toNat < p.group.toNat then o else p
        let s := s.modLaunch l.id fun l => { l with origin := some orig, withdrawn := true, waiting := [], reserved := [] }
        let here := (s.residentOn g.core).filter fun x => x.launch == l.id
        let s := here.foldl (fun s x => s.stopGroup x.gid 2 orig) s
        if first then
          let cores := ((s.groups.filter fun x => x.launch == l.id && x.core != g.core && !x.left).map fun x => x.core).eraseDups
          let e : LogRec := { kind := 2, easel := l.easel, ctx := l.ctx, code := o.code, addr := BitVec.ofNat 64 l.hdr.db, pc := o.pc,
                              queue := l.queue, index := l.index, group := o.group, lanes := o.lanes, core := coreWord o.core,
                              thread0 := o.thread0 }
          let n := s.dev.elcount.toNat
          let s := s.log e
          { s with haltMsgs := s.haltMsgs ++ cores.map (fun c => (c, l.id)),
                   openEntries := s.openEntries ++ [⟨n, 2, l.id, gid, 0, 0, 0⟩] }
        else s

/-! ## Taking an exception (R311 to R315, R319) -/

/-- Trap class, and unresolvable codes (R311); all others are escalated. -/
def Code.isTrap (c : Nat) : Bool := decide (c ≤ 0x1E)
def Code.unresolvable (c : Nat) : Bool := c == Code.addr || c == Code.ptFormat

def Thread.park (t : Thread) (code : Nat) (a : DWord) : Thread := { t with st := .parked code a, await := .none, heldAt := none }
def Thread.jump (t : Thread) (pc : DWord) : Thread := { t with pc := pc, await := .none, heldAt := none }

/-- The bytes of a trap frame (R314). -/
def frameBytes (f : LaneFault) (pc wid : DWord) : List Byte :=
  toBytes 8 (f.resume.getD pc) ++ toBytes 8 pc ++ toBytes 8 f.addr
  ++ toBytes 4 (BitVec.ofNat 64 (f.exc.toNat * 256 + f.code)) ++ toBytes 4 (f.arg.setWidth 64) ++ toBytes 8 wid
  ++ List.replicate 24 0
/-- The origin that a lane's own fault gives a halt (R302). -/
def State.originOf (s : State) (g : Group) (bi : Nat) (l : Fin 32) (reason code : Nat) (a pc : DWord) (lanes : Lanes) : Origin :=
  ⟨reason, code, a, pc, (s.hdrOf g).wid g.num (threadIndex bi l), lanes, BitVec.ofNat 32 g.num, g.core, 32 * bi⟩
/-- Address of a thread's frame (R314). -/
def Group.frameAddr (g : Group) (bi : Nat) (l : Fin 32) : DWord := g.tfb + BitVec.ofNat 64 (64 * threadIndex bi l)

/-- The entry without V at which a walk of an address ends: its physical address, and the bytes that it stands for (R156). -/
def State.invalidEntry (s : State) (va : Nat) : Nat → Nat → Option (Nat × Nat)
  | 0, table => if Pte.v (s.entryAt va 0 table) then none else some (table + 8 * (va / spanOf 0 % 4096), spanOf 0)
  | n + 1, table =>
    let e := s.entryAt va (n + 1) table
    if !Pte.v e then some (table + 8 * (va / spanOf (n + 1) % 4096), spanOf (n + 1))
    else if Pte.leaf e then none
    else s.invalidEntry va n (Pte.pa e)
/-- The entry is one that a migration has marked invalid (R289). -/
def State.movingEntry (s : State) (g : Group) (a : DWord) : Option (Nat × Nat) :=
  (s.invalidEntry a.toNat 3 (s.ctxOf (s.ctxOfGroup g)).2).filter fun e => s.migrations.any fun m => m.leaves.contains e.1
/-- A fault that is a meeting with a page on the move: no fault is delivered (R289). -/
def State.meetsMove (s : State) (g : Group) (code : Nat) (a : DWord) : Bool :=
  code == Code.notMapped && !s.migrations.isEmpty && (s.movingEntry g a).isSome
/-- A lane waits, with no fault, until the page has moved (R289). -/
def State.parkOnMove (s : State) (g : Group) (bi : Nat) (l : Fin 32) (a : DWord) : State :=
  s.modThread g.gid bi l fun t => { t with st := .moved a, await := .none }

/-- Deliver a trap-class fault of a lane (R315): to the routine, or a halt of the group. A frame that meets a page on the move
waits for it, and the lane meets its fault again. -/
def State.deliverTrap (s : State) (g : Group) (bi : Nat) (f : LaneFault) (pc : DWord) (same : Lanes) : State :=
  match s.thread? g.gid bi f.lane with
  | none => s
  | some t =>
    let o := s.originOf g bi f.lane 1 f.code f.addr pc same
    let park := fun (s : State) => s.modThread g.gid bi f.lane fun t => t.park f.code f.addr
    if g.tra = 0 || t.inTrap then (park s).halt g.gid o
    else
      let va := g.frameAddr bi f.lane
      match s.xlate g.core (s.ctxOfGroup g) va.toNat .store with
      | (s, .error c) =>
        if s.meetsMove g c va then s.parkOnMove g bi f.lane va
        else
          let s := (park s).halt g.gid o
          s.log { s.logOf g bi (laneBit f.lane) with kind := 4, code := c, addr := va, pc := pc }
      | (s, .ok x) =>
        let s := if Pte.kind x.pte == .so then s.flushSo g.gid bi (laneBit f.lane) else s
        let s := s.flushBytes g.gid bi (laneBit f.lane) x.pa 64
        let wid := (s.hdrOf g).wid g.num (threadIndex bi f.lane)
        let s := s.storeHome g.core (s.asidOf (s.ctxOfGroup g)) va.toNat x (frameBytes f pc wid)
        s.modThread g.gid bi f.lane fun t => { t.jump g.tra with inTrap := true }

/-- One faulting lane of a run (R311, R319): trap class to the trap routine, unresolvable to a halt, escalated to the
host: the lane is parked, and the lowest lane of a code writes the entry that names all lanes of that code, whether or not
the group has halted by then. Lanes that have only met a page on the move are in no entry. -/
def State.deliverOne (s : State) (gid bi : Nat) (pc : DWord) (all : List LaneFault) (f : LaneFault) : State :=
  match s.group? gid with
  | none => s
  | some g =>
    let same := lanesFrom ((all.filter fun x => x.code == f.code && !s.meetsMove g x.code x.addr).map fun x => x.lane)
    let parked := s.modThread gid bi f.lane fun t => t.park f.code f.addr
    if s.meetsMove g f.code f.addr then s.parkOnMove g bi f.lane f.addr
    else if !Code.isTrap f.code && !Code.unresolvable f.code then
      if (lanesOf same).head? = some f.lane then
        let n := s.dev.elcount.toNat
        let p := parked.log { s.logOf g bi same with kind := 1, code := f.code, addr := f.addr, pc := pc }
        { p with openEntries := p.openEntries ++ [⟨n, 1, g.launch, gid, bi, same, f.code⟩] }
      else parked
    else if g.halted.isSome then parked
    else if Code.isTrap f.code then s.deliverTrap g bi f pc same
    else parked.halt gid (s.originOf g bi f.lane 1 f.code f.addr pc same)
/-- TAKING AN EXCEPTION: the faults of the lanes of a run at an instruction, delivered in ascending lane order (R312). -/
def State.deliver (s : State) (gid bi : Nat) (pc : DWord) (fs : List LaneFault) : State :=
  fs.foldl (fun s f => s.deliverOne gid bi pc fs f) s

/-- THE RETURN FROM AN EXCEPTION in one thread (R316): the frame's RESUME gives the counter. -/
def Thread.resume (t : Thread) (r : DWord) : Thread := { t.jump (r &&& ~~~ 3#64) with inTrap := false }

/-! ## The rename table (R82 to R93) -/

def Rep.isFull : Rep → Bool
  | .full _ => true
  | _ => false
def Rep.isCompressed : Rep → Bool
  | .compressed _ => true
  | _ => false
def Rep.isSpilled (r : Rep) : Bool := r == .spilled
/-- What a register holds of the pools. -/
inductive Hold where
  | nothing | full | compressed | spilled
  deriving DecidableEq, Repr
def Rep.hold : Rep → Hold
  | .released => .nothing
  | .full _ => .full
  | .compressed _ => .compressed
  | .spilled => .spilled
/-- An instruction in flight has taken an entry for a register, and the lanes that are releasing it (R84). -/
def Bunch.claims (b : Bunch) (r : Reg) : Bool := b.flights.any fun f => f.dests.contains r
def Bunch.leaving (b : Bunch) (r : Reg) : Lanes := b.flights.foldl (fun m f => if f.marked.contains r then m ||| f.lanes else m) 0
/-- What a register holds as the rename actions of every issued instruction leave it (R84, R94): an entry taken counts until
the values come, and a copy that is being released no longer does. -/
def Bunch.hold (b : Bunch) (r : Reg) : Hold :=
  if b.claims r then (if b.away.getLsbD r.val then .spilled else .full)
  else if b.leaving r != 0 && (b.regs[r].live &&& ~~~ b.leaving r) == 0 then .nothing
  else b.regs[r].rep.hold
def Bunch.holding (b : Bunch) (k : Hold) : Nat := (List.finRange 64).countP fun r => b.hold r == k
def Bunch.full (b : Bunch) : Nat := b.holding .full
def Bunch.compressed (b : Bunch) : Nat := b.holding .compressed
def Bunch.spilledCount (b : Bunch) : Nat := b.holding .spilled
/-- Entries beyond the floor (R87). -/
def Bunch.excess (b : Bunch) : Nat := b.full - Config.vectorFloor

/-- The bunches resident on a core, with their groups and indexes. -/
def State.bunchesOn (s : State) (core : Nat) : List (Nat × Nat × Bunch) :=
  (s.residentOn core).flatMap fun g => (List.range g.bunches.length).filterMap fun i =>
    (g.bunches[i]?).map fun b => (g.gid, i, b)
/-- The shared pool of a core and its free entries (R87, R94). -/
def State.sharedSize (s : State) (core : Nat) : Nat := Config.vectorPool - Config.vectorFloor * (s.bunchesOn core).length
def State.sharedFree (s : State) (core : Nat) : Nat :=
  s.sharedSize core - ((s.bunchesOn core).map fun x => x.2.2.excess).sum
/-- Scalar entries free beyond the reserves of the resident bunches (R89). -/
def State.scalarFree (s : State) (core : Nat) : Nat :=
  Config.scalarPool - Config.scalarRegs * (s.bunchesOn core).length - ((s.bunchesOn core).map fun x => x.2.2.compressed).sum
/-- A placement waits on the core for scalar entries (R91). -/
def State.placementWaits (s : State) (core : Nat) : Bool := s.launches.any fun l =>
  decide (s.scalarFree core < Config.scalarRegs * ((l.waiting.countP fun w => w.2 == core) * l.hdr.bunchCount))

/-- What the pools leave to one bunch: entries of the shared pool that others do not hold, and scalar entries for
compressed registers (none while a placement waits, R91). -/
structure Room where
  shared : Nat
  scalar : Nat
  deriving DecidableEq, Repr
def State.roomFor (s : State) (core gid bi : Nat) : Room :=
  let others := (s.bunchesOn core).filter fun x => !(x.1 == gid && x.2.1 == bi)
  ⟨s.sharedSize core - (others.map fun x => x.2.2.excess).sum,
   if s.placementWaits core then 0
   else Config.scalarPool - Config.scalarRegs * (s.bunchesOn core).length - (others.map fun x => x.2.2.compressed).sum⟩

/-- Where a rename action happens. -/
structure RegCtx where
  gid : Nat
  num : Nat
  bi : Nat
  core : Nat
  ctx : Nat
  hdr : Header
  room : Room
  /-- Registers the instruction names: no candidates for its spills (R90). -/
  keep : List Reg
  /-- Its address and executing lanes, for the error log; none at placement (R91, R320). -/
  pc : DWord
  exec : Lanes
  deriving DecidableEq, Repr

/-- A failed spill or refill: the translation fault and the slot (R93). -/
abbrev SpillFail := Nat × DWord

def Bunch.setReg (b : Bunch) (r : Reg) (v : VReg) : Bunch := { b with regs := b.regs.set r.val v }
/-- Lanes the group has, and those whose thread lives (R57, R83). -/
def Bunch.presentLanes (b : Bunch) : Lanes := laneSet fun l => b.threads[l].present
def Bunch.liveLanes (b : Bunch) : Lanes := laneSet fun l => b.threads[l].live
/-- The value a lane's copy holds: 0 where it is released (R86). -/
def VReg.val (v : VReg) (l : Fin 32) : Word :=
  if v.live.getLsbD l.val then
    match v.rep with
    | .full x => x[l]
    | .compressed w => w
    | _ => 0
  else 0
def Bunch.val (b : Bunch) (r : Reg) (l : Fin 32) : Word := b.regs[r].val l
def Bunch.isLive (b : Bunch) (r : Reg) (l : Fin 32) : Bool := b.regs[r].live.getLsbD l.val
def Bunch.isBad (b : Bunch) (r : Reg) (l : Fin 32) : Bool := b.isLive r l && b.regs[r].bad.getLsbD l.val
/-- The issue of a read or write of registers (R90). -/
def Bunch.touch (b : Bunch) (rs : List Reg) (now : Nat) : Bunch :=
  rs.foldl (fun b r => b.setReg r { b.regs[r] with access := now }) b
def Bunch.countSpill (b : Bunch) : Bunch := { b with pspill := b.pspill + 0x10000 }
def Bunch.countRefill (b : Bunch) : Bunch :=
  { b with pspill := (b.pspill &&& 0xFFFF0000) ||| ((b.pspill + 1) &&& 0xFFFF) }

/-- The log names the run whose register action met a word, or the lane whose slot it is. -/
def State.recOfCtx (s : State) (x : RegCtx) (lanes : Lanes) : LogRec :=
  match s.group? x.gid with
  | some g => { s.logOf g x.bi (if x.exec = 0 then lanes else x.exec) with kind := 3, code := Code.poison, pc := x.pc }
  | none => { kind := 3, code := Code.poison }
/-- A store of a bunch's own (a spilled register or return address) to lane-private memory, cached as a .gl store (R148,
R195). -/
def State.ownStore (s : State) (x : RegCtx) (l : Fin 32) (va : Nat) (y : Xl) (bs : List Byte) : State :=
  let asid := s.asidOf x.ctx
  let s := (s.mergesAt x.core asid .lp 0 0 va y.pa bs.length).foldl
    (fun s a => s.log { s.recOfCtx x (laneBit l) with addr := BitVec.ofNat 64 a }) s
  s.storeHome x.core asid va y bs
/-- The value a full register's entry holds for a lane, live or not. -/
def VReg.entry (v : VReg) (l : Fin 32) : Word :=
  match v.rep with
  | .full z => z[l]
  | .compressed w => w
  | _ => 0
/-- Values go to the slots of a register's threads (R90, R93). -/
def spillLanes (x : RegCtx) (r : Reg) (v : VReg) : List (Fin 32) → State → Except SpillFail State
  | [], s => .ok s
  | l :: ls, s =>
    let va := x.hdr.slot x.num x.bi l r
    match s.xlate x.core x.ctx va .store with
    | (_, .error c) => .error (c, BitVec.ofNat 64 va)
    | (s, .ok y) =>
      let s := s.ownStore x l va y (toBytes 4 ((v.entry l).setWidth 64))
      let s := if v.bad.getLsbD l.val then s.markWord x.core (s.asidOf x.ctx) va y else s
      spillLanes x r v ls s
/-- The bunch as rename actions leave it, with the events that their stores and loads have fired in its threads since. -/
def Bunch.withEvents (x : RegCtx) (s : State) (b : Bunch) : Bunch :=
  match s.bunch? x.gid x.bi with
  | some c => { b with threads := c.threads }
  | none => b
/-- A victim's 32 values leave for its slots. One whose entry an instruction in flight has taken gives it up again: the values
that come go to the slots too. -/
def Bunch.spill (x : RegCtx) (s : State) (b : Bunch) (r : Reg) : Except SpillFail (State × Bunch) :=
  match spillLanes x r b.regs[r] (lanesOf b.presentLanes) s with
  | .error e => .error e
  | .ok s =>
    let taken := b.claims r
    let b := b.setReg r { b.regs[r] with rep := if taken && b.regs[r].live == 0 then .released else .spilled, bad := 0 }
    .ok (s, ({ b with away := if taken then b.away ||| (1#64 <<< r.val) else b.away }.countSpill).withEvents x s)
/-- The victim among a bunch's full registers: oldest access, then lower number (R90). -/
def Bunch.victim (b : Bunch) (keep : List Reg) : Option Reg :=
  (List.finRange 64).foldl (fun best r =>
    if b.hold r == .full && !keep.contains r then
      match best with
      | none => some r
      | some q => if b.regs[r].access < b.regs[q].access then some r else some q
    else best) none
/-- An entry is free for one more full register: of the floor, or of the shared pool (R90). -/
def Bunch.hasRoom (b : Bunch) (room : Room) : Bool :=
  decide (b.full < Config.vectorFloor) || decide (b.excess < room.shared)
/-- An allocation (R90); x.keep holds at most the 16 registers an instruction names, so there is a victim. -/
def allocate (x : RegCtx) (s : State) (b : Bunch) : Except SpillFail (State × Bunch) :=
  if b.hasRoom x.room then .ok (s, b)
  else match b.victim x.keep with
    | some r => b.spill x s r
    | none => .ok (s, b)

/-- Live lanes' values come from their slots; a poisoned slot leaves a bad value (R92, R93). -/
def refillLanes (x : RegCtx) (r : Reg) : List (Fin 32) → State → Vector Word 32 → Lanes → Except SpillFail (State × Vector Word 32 × Lanes)
  | [], s, v, bad => .ok (s, v, bad)
  | l :: ls, s, v, bad =>
    let va := x.hdr.slot x.num x.bi l r
    match s.xlate x.core x.ctx va .load with
    | (_, .error c) => .error (c, BitVec.ofNat 64 va)
    | (s, .ok y) =>
      let m := s.loadNow x.core (s.asidOf x.ctx) va y 4
      refillLanes x r ls m.1 (v.set l.val (BitVec.ofNat 32 (ofBytes m.2.1))) (if m.2.2 then bad ||| laneBit l else bad)
/-- An entry for a register that may hold one already. -/
def allocateFor (x : RegCtx) (s : State) (b : Bunch) (r : Reg) : Except SpillFail (State × Bunch) :=
  if b.hold r == .full then .ok (s, b) else allocate x s b
/-- A refill (R92). -/
def refill (x : RegCtx) (s : State) (b : Bunch) (r : Reg) : Except SpillFail (State × Bunch) :=
  if !b.regs[r].rep.isSpilled && b.hold r != .spilled then .ok (s, b)
  else
    match allocateFor x s b r with
    | .error e => .error e
    | .ok (s, b) =>
      match refillLanes x r (lanesOf b.regs[r].live) s (Vector.replicate 32 0) 0 with
      | .error e => .error e
      | .ok (s, v, bad) =>
        let b := { b with away := b.away &&& ~~~ (1#64 <<< r.val) }
        .ok (s, ((if b.regs[r].rep.isSpilled then b.setReg r { b.regs[r] with rep := .full v, bad := bad } else b).countRefill).withEvents x s)
def refillAll (x : RegCtx) : List Reg → State → Bunch → Except SpillFail (State × Bunch)
  | [], s, b => .ok (s, b)
  | r :: rs, s, b =>
    match refill x s b r with
    | .error e => .error e
    | .ok (s, b) => refillAll x rs s b

/-- Clear lanes' live bits for a register; its storage returns when the last goes (R85). -/
def VReg.release (v : VReg) (m : Lanes) : VReg :=
  let live := v.live &&& ~~~ m
  { v with live := live, rep := if live = 0 then .released else v.rep, bad := v.bad &&& live }
def Bunch.release (b : Bunch) (rs : List Reg) (m : Lanes) : Bunch :=
  rs.foldl (fun b r => b.setReg r (b.regs[r].release m)) b
def Bunch.releaseAll (b : Bunch) (m : Lanes) : Bunch := { b with regs := b.regs.map fun v => v.release m }

/-- All lanes of a set hold one value. -/
def uniform (w : Lanes) (f : Fin 32 → Word) : Option Word :=
  match lanesOf w with
  | [] => none
  | l :: ls => if ls.all fun k => f k == f l then some (f l) else none
/-- The record after a write that stores it full: W takes the values, the other lanes keep theirs (R83). -/
def VReg.writeFull (v : VReg) (w : Lanes) (f : Fin 32 → Word) : VReg :=
  { v with live := v.live ||| w, bad := v.bad &&& ~~~ w,
           rep := .full (Vector.ofFn fun l : Fin 32 => if w.getLsbD l.val then f l else v.val l) }
def VReg.writeCompressed (v : VReg) (w : Lanes) (x : Word) : VReg :=
  { v with live := v.live ||| w, bad := 0, rep := .compressed x }
/-- A write of some lanes (R83, R89), which may be whole or is known not to be. It is whole where no other lane has a living
thread or holds a copy; the copies of exited lanes are released (R85). -/
def writeRegAs (may : Bool) (x : RegCtx) (s : State) (b : Bunch) (r : Reg) (w : Lanes) (f : Fin 32 → Word) :
    Except SpillFail (State × Bunch) :=
  if w = 0 then .ok (s, b)
  else
    let whole := may && ((b.liveLanes ||| b.regs[r].live) &&& ~~~ w) == 0
    let entry := b.regs[r].rep.isCompressed || decide (b.compressed < x.room.scalar)
    match (if whole && entry then uniform w f else none) with
    | some u => .ok (s, b.setReg r (b.regs[r].writeCompressed w u))
    | none =>
      match (if !whole && (b.regs[r].rep.isSpilled || b.hold r == .spilled) then refill x s b r else allocateFor x s b r) with
      | .error e => .error e
      | .ok (s, b) => .ok (s, b.setReg r (b.regs[r].writeFull w f))
def writeReg (x : RegCtx) (s : State) (b : Bunch) (r : Reg) (w : Lanes) (f : Fin 32 → Word) : Except SpillFail (State × Bunch) :=
  writeRegAs true x s b r w f

/-! ## The issuing run -/

/-- The group, bunch and launch of the run that issues. -/
structure Here where
  g : Group
  b : Bunch
  l : Launch
  deriving DecidableEq, Repr
def State.hereOf (s : State) (gid bi : Nat) : Option Here :=
  match s.group? gid with
  | none => none
  | some g =>
    match g.bunches[bi]? with
    | none => none
    | some b =>
      match s.launch? g.launch with
      | none => none
      | some l => some ⟨g, b, l⟩
def State.here? (s : State) : Option Here := s.hereOf s.cur.gid s.cur.bunch
def State.regCtx (s : State) (h : Here) (bi : Nat) (keep : List Reg) : RegCtx :=
  ⟨h.g.gid, h.g.num, bi, h.g.core, h.l.ctx, h.l.hdr, s.roomFor h.g.core h.g.gid bi, keep, s.cur.pc, s.cur.exec⟩
def State.putBunch (s : State) (gid bi : Nat) (b : Bunch) : State := s.modBunch gid bi fun _ => b
/-- Lanes of the run that a GUARD gates off (R43). -/
def State.gated (s : State) : Lanes := s.cur.run &&& ~~~ s.cur.exec
/-- Counters of lanes move on. -/
def Bunch.jumpLanes (b : Bunch) (m : Lanes) (pc : Fin 32 → DWord) : Bunch :=
  b.mapThreads fun l t => if m.getLsbD l.val then t.jump (pc l) else t
def State.setGs (s : State) (gid : Nat) (w : Word) : State := s.modGroup gid fun g => { g with gs := g.gs ||| w, gsNow := g.gsNow ||| w }
/-- A failed spill or refill of the issuing run's instruction (R93): no effect, and the group halts; a slot on a page on the
move only parks the lanes (R289). -/
def State.spillHalt (s : State) (h : Here) (bi : Nat) (pc : DWord) (exec : Lanes) (e : SpillFail) : State :=
  if s.meetsMove h.g e.1 e.2 then (lanesOf exec).foldl (fun s l => s.parkOnMove h.g bi l e.2) s
  else s.halt h.g.gid (s.originOf h.g bi ((lanesOf exec).headD 0) 1 e.1 e.2 pc exec)

/-! ## Operands of a lane (R25, R35, R41, R86) -/

/-- The next register of a pair or quad (R19). -/
def regNext (r : Reg) (k : Nat) : Reg := Fin.ofNat 64 (r.val + k)
/-- A register read by a lane: register, pattern, last-use mark. -/
structure Read where
  reg : Reg
  pat : Pat
  last : Bool
  deriving DecidableEq, Repr
/-- The registers that a source field names: n of them from its register on. -/
def srcReads (a : Src) (n : Nat) : List Read := (List.range n).map fun k => ⟨regNext a.reg k, a.pat, a.last⟩
def ownReads (a : Own) (n : Nat) : List Read := (List.range n).map fun k => ⟨regNext a.reg k, .self, a.last⟩
/-- A destination read as a source (R106, R111). -/
def regReads (r : Reg) (n : Nat) : List Read := (List.range n).map fun k => ⟨regNext r k, .self, false⟩
def srcWord (a : Src) (b : Bunch) (l : Fin 32) : Word := b.val a.reg (patLane a.pat l)
def srcPair (a : Src) (b : Bunch) (l : Fin 32) : DWord :=
  pairOf (b.val a.reg (patLane a.pat l)) (b.val (regNext a.reg 1) (patLane a.pat l))
def ownWord (a : Own) (b : Bunch) (l : Fin 32) : Word := b.val a.reg l
def Read.stale (r : Read) (b : Bunch) (l : Fin 32) : Bool := !b.isLive r.reg (patLane r.pat l)
def Read.bad (r : Read) (b : Bunch) (l : Fin 32) : Bool := b.isBad r.reg (patLane r.pat l)

/-- A read of a copy whose slot was found poisoned (R93). -/
def badFault (h : Here) (bi : Nat) (b : Bunch) (rs : List Read) (l : Fin 32) : Option LaneFault :=
  match rs.find? fun r => r.bad b l with
  | some r => some { lane := l, code := Code.poison,
                     addr := BitVec.ofNat 64 (h.l.hdr.slot h.g.num bi (patLane r.pat l) r.reg) }
  | none => none
/-- Faults of a lane's reads, in the order STALE, POISON (R86, R93). -/
def readFault (h : Here) (bi : Nat) (b : Bunch) (rs : List Read) (l : Fin 32) : Option LaneFault :=
  if rs.any (fun r => r.stale b l) && staleTrap b.threads[l].fmode then some { lane := l, code := Code.stale }
  else badFault h bi b rs l
/-- Some executing lane reads a released copy. -/
def anyStale (b : Bunch) (rs : List Read) (m : Lanes) : Bool := (lanesOf m).any fun l => rs.any fun r => r.stale b l

/-! ## The pipeline of a lane instruction (R99) -/

/-- What a form reads and writes: its vector sources in reading order, its destination registers, lowest first, and
registers named and released besides the sources (the shuffles' source, R120). -/
structure Operands where
  reads : List Read
  dests : List Reg
  more : List Reg := []
  mark : List Reg := []
  deriving DecidableEq, Repr
def Operands.sources (o : Operands) : List Reg := o.reads.map (fun r => r.reg) ++ o.more
def Operands.named (o : Operands) : List Reg := o.sources ++ o.dests
/-- The registers a completing lane releases (R22). -/
def Operands.marked (o : Operands) : List Reg := (o.reads.filter fun r => r.last).map (fun r => r.reg) ++ o.mark

/-- Write each destination register in turn (R83, R84). -/
def writeRegs (x : RegCtx) (w : Lanes) (f : Fin 32 → List Word) : List Reg → Nat → State → Bunch → Except SpillFail (State × Bunch)
  | [], _, s, b => .ok (s, b)
  | r :: rs, k, s, b =>
    match writeReg x s b r w (fun l => (f l).getD k 0) with
    | .error e => .error e
    | .ok (s, b) => writeRegs x w f rs (k + 1) s b

/-- A lane's outcome under the reads' faults and FPX (R86, R109). -/
def laneOut (h : Here) (bi : Nat) (b : Bunch) (rs : List Read) (r : LaneOut) (l : Fin 32) : LaneOut :=
  match readFault h bi b rs l with
  | some e => { fault := some e }
  | none =>
    match r.fault with
    | some _ => r
    | none =>
      if fpxTraps b.threads[l].fmode r.exc then { exc := r.exc, fault := some { lane := l, code := Code.fpx, exc := r.exc } }
      else r
/-- The same where the form's own faults come before the STALE trap of its reads (R233, R263); a value that is poisoned is
none to check. -/
def laneOutLate (h : Here) (bi : Nat) (b : Bunch) (rs : List Read) (r : LaneOut) (l : Fin 32) : LaneOut :=
  match badFault h bi b rs l with
  | some e => { fault := some e }
  | none =>
    match r.fault with
    | some _ => r
    | none => laneOut h bi b rs r l
/-! ## Instructions in flight (R26, R83, R84, log 35) -/

/-- The instruction that issues has an entry for a destination, or owes the spill that gets it one. -/
def Bunch.claim (b : Bunch) (r : Reg) : Bunch :=
  { b with flights := match b.flights with | f :: fs => { f with dests := f.dests ++ [r] } :: fs | [] => [] }
def Bunch.owe (b : Bunch) (r : Reg) : Bunch :=
  { b with flights := match b.flights with | f :: fs => { f with owes := f.owes ++ [r] } :: fs | [] => [] }
/-- The storage of a destination whose values come later (R84, R90). A partial write refills or allocates at issue. A whole one
needs no slot, and takes an entry that is free; where none is, a load spills for it when its values turn out not to be uniform,
and an atomic, which cannot be taken back, at issue. -/
def reserve (x : RegCtx) (whole late : Bool) (s : State) (b : Bunch) (r : Reg) : Except SpillFail (State × Bunch) :=
  if b.hold r == .full then .ok (s, b.claim r)
  else if whole && b.hasRoom x.room then .ok (s, b.claim r)
  else if whole && late then .ok (s, b.owe r)
  else
    match (if !whole && b.hold r == .spilled then refill x s b r else allocate x s b) with
    | .error e => .error e
    | .ok (s, b) => .ok (s, b.claim r)
def reserveAll (x : RegCtx) (whole late : Bool) : List Reg → State → Bunch → Except SpillFail (State × Bunch)
  | [], s, b => .ok (s, b)
  | r :: rs, s, b =>
    match reserve x whole late s b r with
    | .error e => .error e
    | .ok (s, b) => reserveAll x whole late rs s b
/-- An instruction takes off: lanes that will release some registers and write others. -/
def takeOff (x : RegCtx) (id : Nat) (late : Bool) (lanes : Lanes) (marked dests : List Reg) (s : State) (b : Bunch) :
    Except SpillFail (State × Bunch) :=
  let whole := (b.liveLanes &&& ~~~ lanes) == 0
  reserveAll x whole late dests s { b with flights := ⟨id, lanes, marked, whole, [], []⟩ :: b.flights }
/-- Its values come for a register: in place where it has its entry; to the slots where that has been spilled since; after the
spill it owes. -/
def landReg (x : RegCtx) (f : Flight) (s : State) (b : Bunch) (r : Reg) (w : Lanes) (vals : Fin 32 → Word) :
    Except SpillFail (State × Bunch) :=
  if w != 0 && b.claims r && b.away.getLsbD r.val then
    match spillLanes x r ⟨w, .full (Vector.ofFn vals), 0, 0⟩ (lanesOf w) s with
    | .error e => .error e
    | .ok s => .ok (s, (b.setReg r { b.regs[r] with live := b.regs[r].live ||| w, rep := .spilled }).withEvents x s)
  else writeRegAs f.whole (if f.owes.contains r then { x with room := { x.room with shared := 0 } } else x) s b r w vals
def landRegs (x : RegCtx) (f : Flight) (w : Lanes) (vals : Fin 32 → List Word) : List Reg → Nat → State → Bunch → Except SpillFail (State × Bunch)
  | [], _, s, b => .ok (s, b)
  | r :: rs, k, s, b =>
    match landReg x f s b r w (fun l => (vals l).getD k 0) with
    | .error e => .error e
    | .ok (s, b) => landRegs x f w vals rs (k + 1) s b
/-- Some lanes of an instruction are in flight no more; with the last, what it had taken and not written is given back (R83). -/
def Bunch.landedIn (b : Bunch) (id : Nat) (m : Lanes) : Bunch :=
  let fs := (b.flights.map fun f => if f.id = id then { f with lanes := f.lanes &&& ~~~ m } else f).filter fun f => f.id != id || f.lanes != 0
  let still := fs.foldl (fun m f => f.dests.foldl (fun m r => m ||| (1#64 <<< r.val)) m) (0 : BitVec 64)
  { b with flights := fs, away := b.away &&& still }
def Bunch.landed (b : Bunch) (id : Nat) : Bunch := b.landedIn id 0xFFFFFFFF
def Bunch.flight (b : Bunch) (id : Nat) : Flight := (b.flights.find? fun f => f.id == id).getD ⟨id, 0, [], true, [], []⟩
/-- An instruction lands in some lanes: their marked copies are released, then their destinations written (R22). -/
def land (x : RegCtx) (id : Nat) (good w : Lanes) (dests : List Reg) (vals : Fin 32 → List Word) (s : State) (b : Bunch) :
    Except SpillFail (State × Bunch) :=
  let f := b.flight id
  match landRegs x f w vals dests 0 s (b.release f.marked good) with
  | .error e => .error e
  | .ok (s, b) => .ok (s, b.landed id)

/-- Issue (R92, R99): the sources of the form are refilled and read. Nothing is read where every lane is gated off. -/
def State.openOp (s : State) (h : Here) (o : Operands) : Except SpillFail (State × Bunch) :=
  if s.cur.exec = 0 then .ok (s, h.b)
  else refillAll (s.regCtx h s.cur.bunch o.named) o.sources s (h.b.touch o.named s.issues)
/-- Lanes that complete: executing, with no fault and no request outstanding. -/
def State.goodLanes (s : State) (out : Fin 32 → LaneOut) : Lanes :=
  laneSet fun l => s.cur.exec.getLsbD l.val && (out l).fault.isNone && !(out l).held
/-- GS bits that the lanes' outcomes and stale reads set (R86, R109). -/
def State.flagsOf (s : State) (out : Fin 32 → LaneOut) (stale : Bool) : Word :=
  (lanesOf s.cur.exec).foldl (fun w l => w ||| gsOfExc (out l).exc) (if stale then gsStale else 0)
/-- What retires with a run's registers: the counters of completing and gated-off lanes; then the faults, in ascending lane
order. `post` and `gpost` do to the bunch and the group what the form does besides. -/
def State.retireLanes (s : State) (h : Here) (s2 : State) (b2 : Bunch) (out : Fin 32 → LaneOut) (stale : Bool)
    (post : (Fin 32 → LaneOut) → Lanes → Bunch → Bunch) (gpost : (Fin 32 → LaneOut) → Lanes → Group → Group) : State :=
  let good := s.goodLanes out
  let b3 := (post out good b2).jumpLanes (good ||| s.gated) fun l =>
    if good.getLsbD l.val then (out l).goto.getD s.cur.next else s.cur.next
  (((s2.putBunch h.g.gid s.cur.bunch b3).modGroup h.g.gid (gpost out good)).setGs h.g.gid (s.flagsOf out stale)).deliver
    h.g.gid s.cur.bunch s.cur.pc ((lanesOf s.cur.exec).filterMap fun l => (out l).fault)
/-- The lanes that write: those that complete and do not fail their condition (R83). -/
def State.writers (s : State) (out : Fin 32 → LaneOut) : Lanes := laneSet fun l => (s.goodLanes out).getLsbD l.val && !(out l).skip
/-- Retirement (R22, R83, R99): releases, writes, and the rest. A failed spill or refill leaves the instruction without effect. -/
def State.closeTry (s : State) (h : Here) (o : Operands) (s1 : State) (b1 : Bunch) (out : Fin 32 → LaneOut) (stale : Bool)
    (post : (Fin 32 → LaneOut) → Lanes → Bunch → Bunch) (gpost : (Fin 32 → LaneOut) → Lanes → Group → Group) :
    Except SpillFail State :=
  match writeRegs (s.regCtx h s.cur.bunch o.named) (s.writers out) (fun l => (out l).vals) o.dests 0 s1
      (b1.release o.marked (s.goodLanes out)) with
  | .error e => .error e
  | .ok (s2, b2) => .ok (s.retireLanes h s2 b2 out stale post gpost)
/-- What comes of an instruction's effect, or of its failed spill or refill. -/
def State.orHalt (s : State) (h : Here) : Except SpillFail State → State
  | .error e => s.spillHalt h s.cur.bunch s.cur.pc s.cur.exec e
  | .ok t => t
def noPost (_ : Fin 32 → LaneOut) (_ : Lanes) (b : Bunch) : Bunch := b
def noGpost (_ : Fin 32 → LaneOut) (_ : Lanes) (g : Group) : Group := g

/-- A lane instruction whose lanes compute from registers alone (R99). `rs` are copies a lane reads besides the sources
(the shuffles' members); `pick` orders the lane's own faults and those of its reads. -/
def State.laneTry (s : State) (h : Here) (pick : Here → Nat → Bunch → List Read → LaneOut → Fin 32 → LaneOut) (o : Operands)
    (rs : Bunch → Fin 32 → List Read) (f : Bunch → Fin 32 → LaneOut)
    (post : (Fin 32 → LaneOut) → Lanes → Bunch → Bunch) (gpost : (Fin 32 → LaneOut) → Lanes → Group → Group) :
    Except SpillFail State :=
  match s.openOp h o with
  | .error e => .error e
  | .ok (s1, b1) =>
    let reads := fun l => o.reads ++ rs b1 l
    s.closeTry h o s1 b1 (fun l => pick h s.cur.bunch b1 (reads l) (f b1 l) l)
      ((lanesOf s.cur.exec).any fun l => (reads l).any fun r => r.stale b1 l) post gpost
def State.laneOp (s : State) (o : Operands) (rs : Bunch → Fin 32 → List Read) (f : Bunch → Fin 32 → LaneOut)
    (post : (Fin 32 → LaneOut) → Lanes → Bunch → Bunch) (gpost : (Fin 32 → LaneOut) → Lanes → Group → Group) : State :=
  match s.here? with
  | none => s
  | some h => s.orHalt h (s.laneTry h laneOut o rs f post gpost)
/-- The same with the form's own faults before those of its reads. -/
def State.laneOpLate (s : State) (o : Operands) (rs : Bunch → Fin 32 → List Read) (f : Bunch → Fin 32 → LaneOut)
    (post : (Fin 32 → LaneOut) → Lanes → Bunch → Bunch) (gpost : (Fin 32 → LaneOut) → Lanes → Group → Group) : State :=
  match s.here? with
  | none => s
  | some h => s.orHalt h (s.laneTry h laneOutLate o rs f post gpost)

/-- The acts of lanes in ascending order on the state, each with its outcome. -/
def actLanes (act : State → Fin 32 → State × LaneOut) (bad : Fin 32 → Option LaneFault) :
    List (Fin 32) → State → List (Fin 32 × LaneOut) → State × List (Fin 32 × LaneOut)
  | [], s, acc => (s, acc)
  | l :: ls, s, acc =>
    match bad l with
    | some e => actLanes act bad ls s ((l, { fault := some e }) :: acc)
    | none => let r := act s l; actLanes act bad ls r.1 ((l, r.2) :: acc)
def outcomeIn (outs : List (Fin 32 × LaneOut)) (l : Fin 32) : LaneOut :=
  match outs.find? fun x => x.1 == l with
  | some x => x.2
  | none => {}
/-- Lanes of the run that wait for requests they have sent. -/
def State.askedLanes (s : State) (out : Fin 32 → LaneOut) (b : Bunch) : Lanes :=
  laneSet fun l => s.cur.exec.getLsbD l.val && (out l).held && b.threads[l].await == .request
/-- The run of an instruction with requests on their way (R66, R84, R192, R199): its releases and its destinations' storage
are accounted now, in issue order; what other runs read of its registers, its values, counters and faults follow once every
lane has its answer (R26). -/
def State.suspend (s : State) (h : Here) (o : Operands) (s1 : State) (b1 : Bunch) (out : Fin 32 → LaneOut) (stale : Bool)
    (asked : Lanes) : Except SpillFail State :=
  let good := s.goodLanes out
  let fin := laneSet fun l => s.cur.exec.getLsbD l.val && !(out l).held
  let mine := fun (p : Pend) => p.id == s.issues && p.gid == h.g.gid && p.bunch == s.cur.bunch
  let late := (s1.pends.find? mine).any fun p => match p.op with | .atom _ => false | .cas128 => false | _ => true
  match takeOff (s.regCtx h s.cur.bunch o.named) s.issues late (asked ||| good) o.marked o.dests s1 b1 with
  | .error e => .error e
  | .ok (s3, b3) =>
    let b4 := (b3.jumpLanes s.gated fun _ => s.cur.next).mapThreads fun l t =>
      if (asked ||| fin).getLsbD l.val then { t with await := .request } else t
    let s4 := (s3.putBunch h.g.gid s.cur.bunch b4).setGs h.g.gid (s.flagsOf out stale)
    let told := fun (p : Pend) => { p with waiting := asked, outs := (lanesOf fin).map fun l => (l, out l), keep := o.named }
    .ok { s4 with pends := s4.pends.map fun p => if mine p then told p else p }
/-- A lane instruction whose lanes act on the state one after the other, in ascending lane order (memory, stacks, ports).
`pre` acts once for the run before its lanes, on what the executing lanes are that read their sources without fault; `bad`
gives a lane's fault before it acts. -/
def State.laneSeqBy (s : State) (bad : Here → Bunch → Fin 32 → Option LaneFault) (o : Operands)
    (pre : Here → Bunch → Lanes → State → State) (act : Here → Bunch → State → Fin 32 → State × LaneOut)
    (post : (Fin 32 → LaneOut) → Lanes → Bunch → Bunch) : State :=
  match s.here? with
  | none => s
  | some h =>
    match s.openOp h o with
    | .error e => s.spillHalt h s.cur.bunch s.cur.pc s.cur.exec e
    | .ok (s1, b1) =>
      let start := pre h b1 (laneSet fun l => s.cur.exec.getLsbD l.val && (bad h b1 l).isNone) (s1.putBunch h.g.gid s.cur.bunch b1)
      let r := actLanes (act h b1) (bad h b1) (lanesOf s.cur.exec) start []
      let b2 := (r.1.bunch? h.g.gid s.cur.bunch).getD b1
      let out := outcomeIn r.2
      let stale := anyStale b1 o.reads s.cur.exec
      let asked := s.askedLanes out b2
      s.orHalt h (if asked = 0 then s.closeTry h o r.1 b2 out stale post noGpost else s.suspend h o r.1 b2 out stale asked)
def State.laneSeq (s : State) (o : Operands) (pre : Here → Bunch → Lanes → State → State)
    (act : Here → Bunch → State → Fin 32 → State × LaneOut) (post : (Fin 32 → LaneOut) → Lanes → Bunch → Bunch) : State :=
  s.laneSeqBy (fun h b => readFault h s.cur.bunch b o.reads) o pre act post
def noPre (_ : Here) (_ : Bunch) (_ : Lanes) (s : State) : State := s

/-- Forms with one 32-bit result, a pair, or a lane result with exceptions. -/
def outWord (w : Word) : LaneOut := { vals := [w] }
def outPair (x : DWord) : LaneOut := { vals := [lowWord x, highWord x] }
def outRes (r : LaneRes) : LaneOut := { vals := [lowWord r.val], exc := r.exc }
def State.alu (s : State) (o : Operands) (f : Bunch → Fin 32 → LaneOut) : Host.Outcome State Fault Refusal :=
  .next (s.laneOp o (fun _ _ => []) f noPost noGpost)

/-- Bits of a mask register in some lanes. -/
def Bunch.setMask (b : Bunch) (m : Mask) (w : Lanes) (f : Fin 32 → Bool) : Bunch :=
  { b with masks := b.masks.set m.val ((b.masks[m] &&& ~~~ w) ||| laneSet fun l => w.getLsbD l.val && f l) }
/-- A form whose destination is a mask register: the lane's bit is 1 where its outcome's word is not 0 (R117, R119). -/
def outBit (c : Bool) (x : Exc) : LaneOut := { vals := [if c then 1 else 0], exc := x }
def maskPost (m : Mask) (out : Fin 32 → LaneOut) (good : Lanes) (b : Bunch) : Bunch :=
  b.setMask m good fun l => (out l).vals.headD 0 != 0
def State.aluMask (s : State) (m : Mask) (rs : List Read) (f : Bunch → Fin 32 → LaneOut) : Host.Outcome State Fault Refusal :=
  .next (s.laneOp { reads := rs, dests := [] } (fun _ _ => []) f (maskPost m) noGpost)

/-! ## Bunch instructions (R135) -/

/-- A fault of a bunch instruction, taken in every thread of the run (R135, R312). -/
def State.bunchFault (s : State) (h : Here) (code : Nat) (addr : DWord) : State :=
  s.deliver h.g.gid s.cur.bunch s.cur.pc ((lanesOf s.cur.run).map fun l => { lane := l, code := code, addr := addr })
/-- Every thread of the run goes to a counter. -/
def State.runTo (s : State) (h : Here) (b : Bunch) (pc : DWord) : State :=
  s.putBunch h.g.gid s.cur.bunch (b.jumpLanes s.cur.run fun _ => pc)
def Bunch.sreg (b : Bunch) (r : Reg) : Word := b.sregs[r]
def Bunch.spair (b : Bunch) (r : Reg) : DWord := pairOf b.sregs[r] b.sregs[regNext r 1]
/-- A scalar write (R81, R89). -/
def Bunch.setS (b : Bunch) (r : Reg) (w : Word) : Bunch :=
  { b with sregs := b.sregs.set r.val w, swritten := b.swritten ||| (1#64 <<< r.val) }
def Bunch.setSPair (b : Bunch) (r : Reg) (x : DWord) : Bunch := (b.setS r (lowWord x)).setS (regNext r 1) (highWord x)
/-- A bunch instruction that writes scalar registers and advances (R65, R135). -/
def State.bunchOp (s : State) (f : Here → Bunch) : Host.Outcome State Fault Refusal :=
  match s.here? with
  | none => .next s
  | some h => .next (s.runTo h (f h) s.cur.next)

end Sys2Proof.Machine
end

