-- ==== Sys2Proof/Machine/Groups.lean ====
section
/-! DEFINITION. Machine/Groups.lean: what groups share: neighbour ports and their pairings (R54, R96, R97, R329), named
barriers (R73), the barrier tree (R76, R77), debug records (R325 to R327), the end of a thread and the departure of a
group (R58, R133). -/

namespace Sys2Proof.Machine

/-! ## Ports -/

def Port.idx (p : Port) : Fin 6 := match p with | .lo => 0 | .hi => 1 | .n => 2 | .s => 3 | .e => 4 | .w => 5
def Port.ofIdx (i : Fin 6) : Port := match i.val with | 0 => .lo | 1 => .hi | 2 => .n | 3 => .s | 4 => .e | _ => .w
def Port.opposite (p : Port) : Port := match p with | .lo => .hi | .hi => .lo | .n => .s | .s => .n | .e => .w | .w => .e
def corePorts : List Port := [.n, .s, .e, .w]
/-- The group a core port faces, and whether across a die edge (R54, R329). -/
def State.pairAt (s : State) (g : Group) (p : Port) : Option (Group × Bool) :=
  match neighbour g.core p with
  | none => none
  | some c => ((s.residentOn c.1).find? fun x => x.launch == g.launch && x.rank == g.rank).map fun x => (x, c.2)
def portDepth (edge : Bool) : Nat := if edge then 8 else 4
/-- The lane a lane port of a thread faces (R54). -/
def lanePeer (b : Bunch) (l : Fin 32) (p : Port) : Option (Fin 32) :=
  match p with
  | .hi => if h : l.val + 1 < 32 then (if b.threads[l.val + 1].present then some ⟨l.val + 1, h⟩ else none) else none
  | .lo => if 0 < l.val then some (Fin.ofNat 32 (l.val - 1)) else none
  | _ => none
def Thread.port (t : Thread) (p : Port) : PortQ := t.ports[Port.idx p]
def Thread.setPort (t : Thread) (p : Port) (q : PortQ) : Thread := { t with ports := t.ports.set (Port.idx p).val q }
/-- An entry enters a queue: PRT where the queue was empty and the thread is armed for it (R68, R96); an exited thread's
entry is discarded (R97). -/
def Thread.enter (t : Thread) (p : Port) (x : Word) : Thread :=
  if !t.live then t
  else
    let q := t.port p
    let t' := t.setPort p { q with entries := q.entries ++ [x] }
    if q.entries.isEmpty && t.armedPort == some (Port.idx p, .entry) then t'.wake wPrt else t'
/-- A credit returns: PRT where none was held and the thread is armed for it. -/
def Thread.credit (t : Thread) (p : Port) : Thread :=
  if !t.live then t
  else
    let q := t.port p
    let t' := t.setPort p { q with credits := q.credits + 1 }
    if q.credits = 0 && t.armedPort == some (Port.idx p, .credit) then t'.wake wPrt else t'
/-- Arming (R141): a pending PRT stays only where port and kind are unchanged. -/
def Thread.arm (t : Thread) (p : Port) (k : PortWait) : Thread :=
  if t.armedPort == some (Port.idx p, k) then t
  else { t with armedPort := some (Port.idx p, k), pend := t.pend &&& ~~~ wPrt }
/-- Lane-port credits at placement: 4 where a neighbour lane exists (R96). -/
def Bunch.laneCredits (b : Bunch) : Bunch :=
  b.mapThreads fun l t =>
    if !t.present then t
    else
      let t := t.setPort .hi ⟨[], if (lanePeer b l .hi).isSome then 4 else 0⟩
      t.setPort .lo ⟨[], if (lanePeer b l .lo).isSome then 4 else 0⟩
/-- The queue that thread t of a group pops through a port. -/
def Group.queueOf (g : Group) (bi : Nat) (l : Fin 32) (p : Port) : List Word :=
  match g.bunches[bi]? with
  | some b => (b.threads[l].port p).entries
  | none => []
/-- Entries on their way to a queue (R96). -/
def entriesTo (net : List PortMsg) (gid bi : Nat) (l : Fin 32) (p : Port) : Nat :=
  net.countP fun m => m.gid == gid && m.bunch == bi && m.lane == l && m.port == Port.idx p && m.entry.isSome
/-- Each thread of a group gets the credits of a new pairing through a port: the free places of the paired queue, which neither
an entry in it nor one of an earlier pairing on its way to it takes (R96, R329). They arm nothing (log 27). -/
def Group.giveCredits (g other : Group) (net : List PortMsg) (p : Port) (edge : Bool) : Group :=
  g.mapThreads fun bi l t =>
    if t.present then
      let q := t.port p
      let o := Port.opposite p
      t.setPort p { q with credits := portDepth edge - (other.queueOf bi l o).length - entriesTo net other.gid bi l o }
    else t
def Group.dropCredits (g : Group) (p : Port) : Group :=
  g.mapThreads fun _ _ t => let q := t.port p; t.setPort p { q with credits := 0 }
/-- Pairings that a newly resident group forms (R329). -/
def State.formPairings (s : State) (gid : Nat) : State :=
  corePorts.foldl (fun s p =>
    match s.group? gid with
    | none => s
    | some g =>
      match s.pairAt g p with
      | none => s
      | some (x, edge) =>
        let s := s.modGroup gid fun _ => g.giveCredits x s.portNet p edge
        s.modGroup x.gid fun y => y.giveCredits g s.portNet (Port.opposite p) edge) s
/-- Pairings end when a group leaves: the facing ports lose their credits, those in flight too, and entries for the
departed group are discarded (R96, R97). -/
def State.endPairings (s : State) (g : Group) : State :=
  let s := corePorts.foldl (fun s p =>
    match s.pairAt g p with
    | none => s
    | some (x, _) =>
      let s := s.modGroup x.gid fun y => y.dropCredits (Port.opposite p)
      { s with portNet := s.portNet.filter fun m =>
          !(m.gid == x.gid && m.entry.isNone && m.port == Port.idx (Port.opposite p)) }) s
  { s with portNet := s.portNet.filter fun m => m.gid != g.gid }

/-! ## Debug records (R325 to R328) -/

def Group.traceOn (g : Group) : Bool := g.dbg.getLsbD 31
def Group.period (g : Group) : Nat := g.dbg.toNat % 65536
/-- A counter less CODE, for the lanes of a mask (R326). -/
def pcOffs (h : Header) (m : Lanes) (pc : Fin 32 → DWord) : List Word :=
  allLanes.map fun l => if m.getLsbD l.val then lowWord (pc l - h.code) else 0xFFFFFFFF
/-- The 512 bytes of a record, as words (R326). -/
def debugWords (cyc : Nat) (m : Lanes) (kind cause num : Nat) (ph tree : Bool) (thread0 : Nat) (join : Word) (core : Nat)
    (num' : Nat) (offs aux : List Word) : List Word :=
  let w : Nat := kind + 256 * cause + 65536 * num + (if ph then 4194304 else 0) + (if tree then 8388608 else 0)
  [BitVec.ofNat 32 cyc, BitVec.ofNat 32 (cyc / 2 ^ 32), m, BitVec.ofNat 32 w, BitVec.ofNat 32 thread0, join, coreWord core,
   BitVec.ofNat 32 num'] ++ List.replicate 8 0 ++ offs ++ aux ++ List.replicate 48 0
def noAux : List Word := List.replicate 32 0xFFFFFFFF
/-- A group's debug area (R325). -/
def Header.debugArea (h : Header) (num : Nat) : Nat := h.db + h.ngroup * h.dsz + num * Config.debugArea
/-- A record joins those the core has still to take. -/
def State.record (s : State) (g : Group) (ws : List Word) : State :=
  { s with dbgRecs := s.dbgRecs ++ [⟨g.gid, g.core, s.ctxOfGroup g, (s.hdrOf g).debugArea g.num, s.clock, ws⟩] }
/-- An event of a bunch's lanes, where the group traces (R327). -/
def State.trace (s : State) (g : Group) (bi : Nat) (m : Lanes) (kind num : Nat) (ph tree : Bool) (join : Word)
    (pc : Fin 32 → DWord) : State :=
  if g.traceOn then
    s.record g (debugWords s.clock m kind 0 num ph tree (32 * bi) join g.core g.num (pcOffs (s.hdrOf g) m pc) noAux)
  else s
/-- An issued run's lanes have parted: a divergence record (R327). -/
def State.traceSplit (s : State) (g : Group) (bi : Nat) (m : Lanes) (join : Word) (counter : Fin 32 → Option DWord) (pc : DWord) : State :=
  if g.traceOn then
    let pcs := (lanesOf m).filterMap counter
    if pcs.any fun p => some p != pcs.head? then s.trace g bi m 1 0 false false join fun l => (counter l).getD pc else s
  else s
/-- A barrier or tag releases (R327): one record per bunch with armed lanes, or one with MASK 0. -/
def State.traceRelease (s : State) (g : Group) (num : Nat) (ph tree : Bool) (armed : Bunch → Thread → Bool) : State :=
  if !g.traceOn then s
  else
    let recs := (List.range g.bunches.length).filterMap fun i =>
      match g.bunches[i]? with
      | none => none
      | some b =>
        let m := laneSet fun l => armed b b.threads[l]
        if m = 0 then none
        else some (debugWords s.clock m 4 0 num ph tree (32 * i) 0xFFFFFFFF g.core g.num
              (pcOffs (s.hdrOf g) m fun l => b.threads[l].pc) noAux)
    let recs := if recs.isEmpty then
        [debugWords s.clock 0 4 0 num ph tree 0 0xFFFFFFFF g.core g.num (pcOffs (s.hdrOf g) 0 fun _ => 0) noAux]
      else recs
    recs.foldl (fun s r => s.record g r) s

/-! ## Named barriers (R73) -/

/-- What an arrival of n threads does to a barrier (R73): overflow, or the new barrier and whether the phase flips. -/
def Bar.arrive (b : Bar) (n : Nat) : Option (Bar × Bool) :=
  if b.count < b.arrived + n then none
  else if b.arrived + n = b.count then some ({ b with arrived := 0, phase := !b.phase, waiters := 0 }, true)
  else some ({ b with arrived := b.arrived + n }, false)
def slotBit (b : Bunch) : BitVec 64 := 1#64 <<< b.slot
/-- A thread of a bunch that a waiter mask marks is armed on a barrier (R68, R73). -/
def armedOn (bar : Nat) (waiters : BitVec 64) (b : Bunch) (t : Thread) : Bool :=
  (waiters &&& slotBit b) != 0 && t.armedBar.any fun k => k.val == bar
/-- The completing arrival sets BAR pending in every thread armed on the barrier in a bunch that waits (R73). -/
def Group.flipWake (g : Group) (bar : Nat) (waiters : BitVec 64) : Group :=
  { g with bunches := g.bunches.map fun b => b.mapThreads fun _ t => if armedOn bar waiters b t then t.wake wBar else t }

/-! ## The barrier tree (R76, R77) -/

/-- The span of a tag of a launch: 0 unused, 1 cluster, 2 stack, 3 module (R282). -/
def Header.span (h : Header) (tag : Nat) : Nat := h.tags.getD tag 0
def instanceOf (span core : Nat) : Nat := match span with | 1 => clusterOf core | 2 => coreStack core | _ => 0
/-- The scope of a tag (R77). -/
def spanScope (span : Nat) : Scope := if span = 1 then .cl else .dv
def Launch.treeAt (l : Launch) (core : Nat) (tag : Fin 8) : Option TreeCore :=
  l.tree.find? fun t => t.core == core && t.tag == tag
def Launch.setTree (l : Launch) (t : TreeCore) : Launch :=
  { l with tree := l.tree.map fun x => if x.core = t.core ∧ x.tag = t.tag then t else x }
/-- A core has sent for the phase, or has no threads left (R76). -/
def TreeCore.hasSent (t : TreeCore) : Bool := t.sent || t.local_ == 0
/-- After a send: once every core of the instance has sent, and some core has threads, the release is due a fixed time
later (R76, R77). -/
def State.treeCheck (s : State) (lid : Nat) (tag : Fin 8) (core : Nat) : State :=
  match s.launch? lid with
  | none => s
  | some l =>
    let span := l.hdr.span tag.val
    let inst := instanceOf span core
    let mine := l.tree.filter fun t => t.tag == tag && instanceOf span t.core == inst
    let due := s.treeDue.any fun d => d.launch == lid && d.tag == tag && d.inst == inst
    if !due && mine.all (fun t => t.hasSent) && mine.any (fun t => t.local_ != 0 || t.arrived != 0 || t.sent)
        && mine.any (fun t => t.local_ != 0) then
      { s with treeDue := s.treeDue ++ [⟨lid, tag, inst, s.clock + Config.treeCycles span⟩] }
    else s
/-- An arrival of n threads at the core's state of a tag: overflow, or the new state (R76). -/
def TreeCore.arrive (t : TreeCore) (n : Nat) : Option TreeCore :=
  if t.sent || t.local_ < t.arrived + n then none
  else if t.arrived + n = t.local_ then some { t with arrived := 0, sent := true }
  else some { t with arrived := t.arrived + n }
/-- A thread of the launch exits (R76): the local count falls; an arrival of its own that is not sent yet falls too. -/
def TreeCore.leave (t : TreeCore) (hadArrived : Bool) : TreeCore :=
  let t' := { t with local_ := t.local_ - 1, arrived := if hadArrived && !t.sent then t.arrived - 1 else t.arrived }
  if !t.sent && t'.local_ == t'.arrived then { t' with arrived := 0, sent := true } else t'

/-! ## The end of a thread and the departure of a group (R58, R97, R133) -/

def Thread.exit (t : Thread) (pc : DWord) : Thread :=
  { t with st := .exited, exitPc := pc, ret := [], spilled := 0, watch := none, armedBar := none, armedTag := none,
           armedPort := none, pend := 0, await := .none, fetched := none,
           ports := t.ports.map fun q => ⟨[], q.credits⟩ }
def Bunch.exitLanes (b : Bunch) (m : Lanes) (pc : DWord) : Bunch :=
  (b.releaseAll m).mapThreads fun l t => if m.getLsbD l.val then t.exit pc else t
def Group.allExited (g : Group) : Bool := g.bunches.all fun b => b.liveLanes == 0
/-- A group leaves its core (R58): pairings end, subscriptions end, its launch counts it. It goes once its engine commands and the
accesses on their way to its scratchpad are done (R145). -/
def State.depart (s : State) (gid : Nat) : State :=
  match s.group? gid with
  | none => s
  | some g =>
    let s := s.endPairings g
    let s := s.modGroup gid fun g => { g with left := true }
    let s := { s with subs := s.subs.map fun (u : Sub) => if u.gid = gid then { u with ending := true } else u }
    (s.modLaunch g.launch fun l => { l with ended := l.ended + 1 }).reap
/-- The tags' counts after lanes of a bunch exit, in one cycle; arr are the tags each lane has arrived on. -/
def State.exitTree (s : State) (g : Group) (lanes : List (Fin 32)) (arr : Fin 32 → BitVec 8) : State :=
  (List.finRange 8).foldl (fun s tag =>
    match s.launch? g.launch with
    | none => s
    | some l =>
      match l.treeAt g.core tag with
      | none => s
      | some t =>
        let t' := lanes.foldl (fun t x => t.leave ((arr x).getLsbD tag.val)) t
        (s.modLaunch g.launch fun l => l.setTree t').treeCheck g.launch tag g.core) s
/-- After an EXIT: tree counts fall, and a group whose threads have all exited leaves. -/
def State.afterExit (s : State) (h : Here) (lanes : Lanes) : State :=
  let s := s.exitTree h.g (lanesOf lanes) fun l => h.b.threads[l].treeArr
  match s.group? h.g.gid with
  | none => s
  | some g => if g.allExited && g.halted.isNone then s.depart h.g.gid else s

end Sys2Proof.Machine
end

