-- ==== Sys2Proof/Machine/Lane.lean ====
section
/-! DEFINITION. Machine/Lane.lean: the uniform copies (R103) and the integer and logic instructions of the lane set
(R104 to R107), each one call of a shape over State.alu. -/

namespace Sys2Proof.Machine

/-! ## Shapes -/

def opsRR (d : Reg) (a : Src) (n m : Nat) : Operands :=
  { reads := srcReads a m, dests := (List.range n).map (regNext d) }
def opsRRR (d : Reg) (a b : Src) (n m k : Nat) : Operands :=
  { reads := srcReads a m ++ srcReads b k, dests := (List.range n).map (regNext d) }
def opsD (ds : List Reg) : Operands := { reads := [], dests := ds }
/-- Two sources and the destination itself read as the third (R106, R111). -/
def opsFma (d : Reg) (a b : Src) : Operands :=
  { reads := srcReads a 1 ++ srcReads b 1 ++ regReads d 1, dests := [d] }
/-- 32-bit results: of one source, of two, of a source and a constant. -/
def State.un32 (s : State) (d : Reg) (a : Src) (f : Word → Word) : Host.Outcome State Fault Refusal :=
  s.alu (opsRR d a 1 1) fun x l => outWord (f (srcWord a x l))
def State.bin32 (s : State) (d : Reg) (a b : Src) (f : Word → Word → Word) : Host.Outcome State Fault Refusal :=
  s.alu (opsRRR d a b 1 1 1) fun x l => outWord (f (srcWord a x l) (srcWord b x l))
/-- Pair results: of a pair, of two pairs, of a pair and a 32-bit source. -/
def State.un64 (s : State) (d : Reg) (a : Src) (f : DWord → DWord) : Host.Outcome State Fault Refusal :=
  s.alu (opsRR d a 2 2) fun x l => outPair (f (srcPair a x l))
def State.bin64 (s : State) (d : Reg) (a b : Src) (f : DWord → DWord → DWord) : Host.Outcome State Fault Refusal :=
  s.alu (opsRRR d a b 2 2 2) fun x l => outPair (f (srcPair a x l) (srcPair b x l))
def State.mix64 (s : State) (d : Reg) (a b : Src) (f : DWord → Word → DWord) : Host.Outcome State Fault Refusal :=
  s.alu (opsRRR d a b 2 2 1) fun x l => outPair (f (srcPair a x l) (srcWord b x l))

/-! ## Meanings -/

/-- Every executing lane copies a scalar register into a vector register. (R103) -/
def execMovuN32 (d : Reg) (a : Reg) (s : State) : Host.Outcome State Fault Refusal :=
  s.alu (opsD [d]) fun x _ => outWord (x.sreg a)

/-- Every executing lane copies a scalar pair into a vector pair. (R103) -/
def execMovuN64 (d : Reg) (a : Reg) (s : State) : Host.Outcome State Fault Refusal :=
  s.alu (opsD [d, regNext d 1]) fun x _ => outPair (x.spair a)

/-- 32-bit sum modulo 2^32 per lane. (R104) -/
def execAddN32 (d : Reg) (a b : Src) (s : State) : Host.Outcome State Fault Refusal :=
  s.bin32 d a b (· + ·)

/-- 64-bit pair sum modulo 2^64 per lane. (R104) -/
def execAddN64 (d : Reg) (a b : Src) (s : State) : Host.Outcome State Fault Refusal :=
  s.bin64 d a b (· + ·)

/-- 32-bit difference modulo 2^32 per lane. (R104) -/
def execSubN32 (d : Reg) (a b : Src) (s : State) : Host.Outcome State Fault Refusal :=
  s.bin32 d a b (· - ·)

/-- 64-bit pair difference modulo 2^64 per lane. (R104) -/
def execSubN64 (d : Reg) (a b : Src) (s : State) : Host.Outcome State Fault Refusal :=
  s.bin64 d a b (· - ·)

/-- Low 32 bits of the product per lane. (R104) -/
def execMulloN32 (d : Reg) (a b : Src) (s : State) : Host.Outcome State Fault Refusal :=
  s.bin32 d a b (· * ·)

/-- High 32 bits of the signed product per lane. (R104) -/
def execMulhiI32 (d : Reg) (a b : Src) (s : State) : Host.Outcome State Fault Refusal :=
  s.bin32 d a b mulhiI

/-- High 32 bits of the unsigned product per lane. (R104) -/
def execMulhiN32 (d : Reg) (a b : Src) (s : State) : Host.Outcome State Fault Refusal :=
  s.bin32 d a b mulhiN

/-- Adds a sign-extended 32-bit index scaled by 4 to a 64-bit pair. (R105) -/
def execShaddN64 (d : Reg) (a b : Src) (s : State) : Host.Outcome State Fault Refusal :=
  s.mix64 d a b shadd

/-- Bitwise and per lane. (R104) -/
def execAndN32 (d : Reg) (a b : Src) (s : State) : Host.Outcome State Fault Refusal :=
  s.bin32 d a b (· &&& ·)

/-- Bitwise or per lane. (R104) -/
def execOrN32 (d : Reg) (a b : Src) (s : State) : Host.Outcome State Fault Refusal :=
  s.bin32 d a b (· ||| ·)

/-- Bitwise exclusive or per lane. (R104) -/
def execXorN32 (d : Reg) (a b : Src) (s : State) : Host.Outcome State Fault Refusal :=
  s.bin32 d a b (· ^^^ ·)

/-- 32-bit logical left shift by a register count. (R105) -/
def execShlN32 (d : Reg) (a b : Src) (s : State) : Host.Outcome State Fault Refusal :=
  s.bin32 d a b shl

/-- 64-bit logical left shift by a register count. (R105) -/
def execShlN64 (d : Reg) (a b : Src) (s : State) : Host.Outcome State Fault Refusal :=
  s.mix64 d a b shl

/-- 32-bit logical right shift by a register count. (R105) -/
def execShrN32 (d : Reg) (a b : Src) (s : State) : Host.Outcome State Fault Refusal :=
  s.bin32 d a b shr

/-- 64-bit logical right shift by a register count. (R105) -/
def execShrN64 (d : Reg) (a b : Src) (s : State) : Host.Outcome State Fault Refusal :=
  s.mix64 d a b shr

/-- 32-bit arithmetic right shift by a register count. (R105) -/
def execSarI32 (d : Reg) (a b : Src) (s : State) : Host.Outcome State Fault Refusal :=
  s.bin32 d a b sar

/-- 64-bit arithmetic right shift by a register count. (R105) -/
def execSarI64 (d : Reg) (a b : Src) (s : State) : Host.Outcome State Fault Refusal :=
  s.mix64 d a b sar

/-- Smaller signed operand per lane. (R104) -/
def execMinI32 (d : Reg) (a b : Src) (s : State) : Host.Outcome State Fault Refusal :=
  s.bin32 d a b minI

/-- Smaller unsigned operand per lane. (R104) -/
def execMinN32 (d : Reg) (a b : Src) (s : State) : Host.Outcome State Fault Refusal :=
  s.bin32 d a b minN

/-- Larger signed operand per lane. (R104) -/
def execMaxI32 (d : Reg) (a b : Src) (s : State) : Host.Outcome State Fault Refusal :=
  s.bin32 d a b maxI

/-- Larger unsigned operand per lane. (R104) -/
def execMaxN32 (d : Reg) (a b : Src) (s : State) : Host.Outcome State Fault Refusal :=
  s.bin32 d a b maxN

/-- Extracts an unsigned bit field. (R106) -/
def execBfxN32 (d : Reg) (a b : Src) (s : State) : Host.Outcome State Fault Refusal :=
  s.bin32 d a b bfxN

/-- Extracts a sign-extended bit field. (R106) -/
def execBfxI32 (d : Reg) (a b : Src) (s : State) : Host.Outcome State Fault Refusal :=
  s.bin32 d a b bfxI

/-- Inserts a bit field into the destination. (R106) -/
def execBfiN32 (d : Reg) (a b : Src) (s : State) : Host.Outcome State Fault Refusal :=
  s.alu (opsFma d a b) fun x l =>
    outWord (bfi (x.val d l) (srcWord a x l) (srcWord b x l))

/-- Signed saturating sum. (R104) -/
def execAddsatI32 (d : Reg) (a b : Src) (s : State) : Host.Outcome State Fault Refusal :=
  s.bin32 d a b addsatI

/-- Unsigned saturating sum. (R104) -/
def execAddsatN32 (d : Reg) (a b : Src) (s : State) : Host.Outcome State Fault Refusal :=
  s.bin32 d a b addsatN

/-- Signed saturating difference. (R104) -/
def execSubsatI32 (d : Reg) (a b : Src) (s : State) : Host.Outcome State Fault Refusal :=
  s.bin32 d a b subsatI

/-- Unsigned saturating difference clamped to 0. (R104) -/
def execSubsatN32 (d : Reg) (a b : Src) (s : State) : Host.Outcome State Fault Refusal :=
  s.bin32 d a b subsatN

/-- UNI selector 0: copies a vector register. (R107) -/
def execMovN32 (d : Reg) (a : Src) (s : State) : Host.Outcome State Fault Refusal :=
  s.un32 d a id

/-- UNI selector 1: copies a vector pair. (R107) -/
def execMovN64 (d : Reg) (a : Src) (s : State) : Host.Outcome State Fault Refusal :=
  s.un64 d a id

/-- UNI selector 2: bitwise not. (R107) -/
def execNotN32 (d : Reg) (a : Src) (s : State) : Host.Outcome State Fault Refusal :=
  s.un32 d a (~~~ ·)

/-- UNI selector 3: two's-complement negation. (R107) -/
def execNegI32 (d : Reg) (a : Src) (s : State) : Host.Outcome State Fault Refusal :=
  s.un32 d a (- ·)

/-- UNI selector 4: absolute value modulo 2^32. (R107) -/
def execAbsI32 (d : Reg) (a : Src) (s : State) : Host.Outcome State Fault Refusal :=
  s.un32 d a absI

/-- UNI selector 5: 64-bit negation of a pair. (R107) -/
def execNegI64 (d : Reg) (a : Src) (s : State) : Host.Outcome State Fault Refusal :=
  s.un64 d a (- ·)

/-- UNI selector 6: population count. (R107) -/
def execPopcN32 (d : Reg) (a : Src) (s : State) : Host.Outcome State Fault Refusal :=
  s.un32 d a popc

/-- UNI selector 7: count of leading zeros. (R107) -/
def execClzN32 (d : Reg) (a : Src) (s : State) : Host.Outcome State Fault Refusal :=
  s.un32 d a clz

/-- UNI selector 8: bit reversal. (R107) -/
def execBrevN32 (d : Reg) (a : Src) (s : State) : Host.Outcome State Fault Refusal :=
  s.un32 d a brev

/-- UNI selector 9: sign-extends the low byte. (R107) -/
def execSextI8 (d : Reg) (a : Src) (s : State) : Host.Outcome State Fault Refusal :=
  s.un32 d a sext8

/-- UNI selector 10: sign-extends the low half. (R107) -/
def execSextI16 (d : Reg) (a : Src) (s : State) : Host.Outcome State Fault Refusal :=
  s.un32 d a sext16

/-- Writes an immediate into every executing lane. (R104) -/
def execMovN32Imm (d : Reg) (imm : Word) (s : State) : Host.Outcome State Fault Refusal :=
  s.alu (opsD [d]) fun _ _ => outWord imm

/-- 32-bit sum with an immediate. (R104) -/
def execAddN32Imm (d : Reg) (a : Src) (imm : Word) (s : State) : Host.Outcome State Fault Refusal :=
  s.un32 d a (· + imm)

/-- 64-bit pair sum with a sign-extended immediate. (R104) -/
def execAddN64Imm (d : Reg) (a : Src) (imm : Word) (s : State) : Host.Outcome State Fault Refusal :=
  s.un64 d a (· + immSext imm)

/-- Low 32 bits of the product with an immediate. (R104) -/
def execMulloN32Imm (d : Reg) (a : Src) (imm : Word) (s : State) : Host.Outcome State Fault Refusal :=
  s.un32 d a (· * imm)

/-- Bitwise and with an immediate. (R104) -/
def execAndN32Imm (d : Reg) (a : Src) (imm : Word) (s : State) : Host.Outcome State Fault Refusal :=
  s.un32 d a (· &&& imm)

/-- Bitwise or with an immediate. (R104) -/
def execOrN32Imm (d : Reg) (a : Src) (imm : Word) (s : State) : Host.Outcome State Fault Refusal :=
  s.un32 d a (· ||| imm)

/-- 32-bit left shift by an immediate count. (R105) -/
def execShlN32Imm (d : Reg) (a : Src) (imm : Word) (s : State) : Host.Outcome State Fault Refusal :=
  s.un32 d a (shl · imm)

/-- 64-bit left shift by an immediate count. (R105) -/
def execShlN64Imm (d : Reg) (a : Src) (imm : Word) (s : State) : Host.Outcome State Fault Refusal :=
  s.un64 d a (shl · imm)

/-- 32-bit logical right shift by an immediate count. (R105) -/
def execShrN32Imm (d : Reg) (a : Src) (imm : Word) (s : State) : Host.Outcome State Fault Refusal :=
  s.un32 d a (shr · imm)

/-- 32-bit arithmetic right shift by an immediate count. (R105) -/
def execSarI32Imm (d : Reg) (a : Src) (imm : Word) (s : State) : Host.Outcome State Fault Refusal :=
  s.un32 d a (sar · imm)

end Sys2Proof.Machine
end

