-- ==== Sys2Proof/Machine/Masks.lean ====
section
/-! DEFINITION. Machine/Masks.lean: compares, select and mask forms (R117 to R119) and the shuffles over the members of
the run (R120 to R122). -/

namespace Sys2Proof.Machine

/-! ## Compares and masks -/

def Bunch.bit (b : Bunch) (m : Mask) (l : Fin 32) : Bool := b.masks[m].getLsbD l.val
def State.cmp (s : State) (m : Mask) (a b : Src) (f : Word → Word → Bool × Exc) : Host.Outcome State Fault Refusal :=
  s.aluMask m (srcReads a 1 ++ srcReads b 1) fun x l => let r := f (srcWord a x l) (srcWord b x l); outBit r.1 r.2
def State.maskOp (s : State) (d a b : Mask) (f : Bool → Bool → Bool) : Host.Outcome State Fault Refusal :=
  s.aluMask d [] fun x l => outBit (f (x.bit a l) (x.bit b l)) 0

/-- Signed compare with an immediate into a mask bit. (R117) -/
def execCmpI32Imm (c : ICond) (m : Mask) (a : Src) (imm : Word) (s : State) : Host.Outcome State Fault Refusal :=
  s.aluMask m (srcReads a 1) fun x l => outBit (icondI c (srcWord a x l) imm) 0

/-- Signed compare into a mask bit. (R117) -/
def execCmpI32 (c : ICond) (m : Mask) (a b : Src) (s : State) : Host.Outcome State Fault Refusal :=
  s.cmp m a b fun x y => (icondI c x y, 0)

/-- Unsigned compare into a mask bit. (R117) -/
def execCmpN32 (c : ICond) (m : Mask) (a b : Src) (s : State) : Host.Outcome State Fault Refusal :=
  s.cmp m a b fun x y => (icondN c x y, 0)

/-- FP32 compare into a mask bit; NV for a signalling NaN alone. (R117) -/
def execCmpF32 (c : FCond) (m : Mask) (a b : Src) (s : State) : Host.Outcome State Fault Refusal :=
  s.cmp m a b (fcond c)

/-- Selects by the lane's bit of m0. (R118) -/
def execSelN32 (d : Reg) (a b : Src) (s : State) : Host.Outcome State Fault Refusal :=
  s.alu (opsRRR d a b 1 1 1) fun x l => outWord (if x.bit 0 l then srcWord a x l else srcWord b x l)

/-- Lane-wise and of two mask registers. (R119) -/
def execMand (d a b : Mask) (s : State) : Host.Outcome State Fault Refusal := s.maskOp d a b and

/-- Lane-wise or of two mask registers. (R119) -/
def execMor (d a b : Mask) (s : State) : Host.Outcome State Fault Refusal := s.maskOp d a b or

/-- Lane-wise exclusive or of two mask registers. (R119) -/
def execMxor (d a b : Mask) (s : State) : Host.Outcome State Fault Refusal := s.maskOp d a b xor

/-- Sets the lane's bit where a register is not 0. (R119) -/
def execMset (m : Mask) (a : Src) (s : State) : Host.Outcome State Fault Refusal :=
  s.aluMask m (srcReads a 1) fun x l => outBit (srcWord a x l != 0) 0

/-- Every lane's bit of a mask register; a lane the group does not have reads 0. Of an instruction of another run in flight
every effect shows, of the two outcomes that R119 and R26 allow (log 35). (R119) -/
def execMget (d : Reg) (m : Mask) (s : State) : Host.Outcome State Fault Refusal :=
  s.alu (opsD [d]) fun x _ => outWord (x.masks[m] &&& x.presentLanes)

/-- The members' bits of a mask register. (R119, R120) -/
def execBallot (d : Reg) (m : Mask) (s : State) : Host.Outcome State Fault Refusal :=
  s.alu (opsD [d]) fun x _ => outWord (x.masks[m] &&& s.cur.exec)

/-! ## Shuffles (R120 to R122) -/

/-- The copies a member reads: a lane that is no member gives none. -/
def memberRead (exec : Lanes) (a : Own) (j : Option (Fin 32)) : List Read :=
  match j with
  | some j => if exec.getLsbD j.val then [⟨a.reg, .bc j, false⟩] else []
  | none => []
def memberVal (exec : Lanes) (b : Bunch) (a : Own) (j : Option (Fin 32)) : Word :=
  match j with
  | some j => if exec.getLsbD j.val then b.val a.reg j else 0
  | none => 0
/-- The source of a shuffle is named, refilled and released where marked; whose copy is read, the form says. -/
def opsShuffle (d : Reg) (a : Own) (extra : List Read) : Operands :=
  { reads := extra, dests := [d], more := [a.reg], mark := if a.last then [a.reg] else [] }
def State.shuffle (s : State) (d : Reg) (a : Own) (extra : List Read) (j : Bunch → Fin 32 → Option (Fin 32)) :
    Host.Outcome State Fault Refusal :=
  .next (s.laneOp (opsShuffle d a extra) (fun b l => memberRead s.cur.exec a (j b l))
    (fun b l => outWord (memberVal s.cur.exec b a (j b l))) noPost noGpost)
/-- Every member's copy is read. -/
def State.reduce (s : State) (d : Reg) (a : Own) (f : Lanes → Bunch → Fin 32 → Word) : Host.Outcome State Fault Refusal :=
  .next (s.laneOp (opsShuffle d a []) (fun _ _ => (lanesOf s.cur.exec).map fun j => ⟨a.reg, .bc j, false⟩)
    (fun b l => outWord (f s.cur.exec b l)) noPost noGpost)

/-- Each member reads va of member lane minus k, else 0. (R121) -/
def execShflup (d : Reg) (a : Own) (k : Fin 32) (s : State) : Host.Outcome State Fault Refusal :=
  s.shuffle d a [] fun _ l => if k.val ≤ l.val then some (Fin.ofNat 32 (l.val - k.val)) else none

/-- Each member reads va of member lane plus k, else 0. (R121) -/
def execShfldn (d : Reg) (a : Own) (k : Fin 32) (s : State) : Host.Outcome State Fault Refusal :=
  s.shuffle d a [] fun _ l => if l.val + k.val < 32 then some (Fin.ofNat 32 (l.val + k.val)) else none

/-- Each member reads va of member lane xor k, else 0. (R121) -/
def execShflx (d : Reg) (a : Own) (k : Fin 32) (s : State) : Host.Outcome State Fault Refusal :=
  s.shuffle d a [] fun _ l => some (Fin.ofNat 32 (l.val ^^^ k.val))

/-- Each member reads va of the member lane its vb names in bits [4:0], else 0. (R121) -/
def execShfl (d : Reg) (a : Own) (b : Src) (s : State) : Host.Outcome State Fault Refusal :=
  s.shuffle d a (srcReads b 1) fun x l => some (Fin.ofNat 32 (srcWord b x l).toNat)

/-- The set of members that hold the same value. (R122) -/
def execMatch (d : Reg) (a : Own) (s : State) : Host.Outcome State Fault Refusal :=
  s.reduce d a fun m b l => laneSet fun j => m.getLsbD j.val && b.val a.reg j == b.val a.reg l

/-- The sum over the members, modulo 2^32. (R122) -/
def execRdaddN32 (d : Reg) (a : Own) (s : State) : Host.Outcome State Fault Refusal :=
  s.reduce d a fun m b _ => (lanesOf m).foldl (fun w j => w + b.val a.reg j) 0

end Sys2Proof.Machine
end

