-- ==== Sys2Proof/Machine/Control.lean ====
section
/-! DEFINITION. Machine/Control.lean: the system registers (R123 to R128), the lane control cells (R129 to R134, R317),
the ILLEGAL trap (R51) and the neighbour ports (R140, R141). -/

namespace Sys2Proof.Machine

/-! ## System registers (R60, R94, R123 to R127) -/

/-- PSTAT of a bunch on a core (R94). -/
def State.pstat (s : State) (core : Nat) (b : Bunch) : Word :=
  BitVec.ofNat 32 (s.sharedFree core * 2 ^ 20 + b.full * 2 ^ 13 + b.compressed * 64 + b.spilledCount)
/-- Return stack depth (R131). -/
def Thread.rsd (t : Thread) : Nat := t.ret.length + 4 * t.spilled
/-- The value of a register for a lane of a bunch of a group. -/
def State.sysVal (s : State) (h : Here) (bi : Nat) (b : Bunch) (l : Fin 32) (r : SysReg) : Word :=
  let wid := h.l.hdr.wid h.g.num (threadIndex bi l)
  let wf := fun k => BitVec.ofNat 32 ((h.l.hdr.fields h.g.num (threadIndex bi l)).getD k 0)
  match r with
  | .lane => BitVec.ofNat 32 l.val
  | .wid => lowWord wid
  | .widh => highWord wid
  | .wf0 => wf 0
  | .wf1 => wf 1
  | .wf2 => wf 2
  | .wf3 => wf 3
  | .wf4 => wf 4
  | .wf5 => wf 5
  | .core => coreWord h.g.core
  | .cyc => BitVec.ofNat 32 s.clock
  | .cych => b.threads[l].latch
  | .gs => h.g.gs
  | .fmode => b.threads[l].fmode
  | .pstat => s.pstat h.g.core b
  | .pspill => b.pspill
  | .rsd => BitVec.ofNat 32 b.threads[l].rsd
/-- A GETS of CYC latches the count's high half (R127): for a bunch form, in every thread of the run (log 36). -/
def State.latchCyc (s : State) (r : SysReg) (m : Lanes) (b : Bunch) : Bunch :=
  if r = .cyc then
    b.mapThreads fun l t => if m.getLsbD l.val then { t with latch := BitVec.ofNat 32 (s.clock / 2 ^ 32) } else t
  else b
/-- A value SETS may write to a register (R124, R125, R128). -/
def sysValOk (r : SysReg) (v : Word) : Bool :=
  match r with
  | .gs => gsOk v
  | .fmode => fmodeOk v
  | _ => true
/-- Events of the writing instruction count after the write (R95): a field's rise from old to new joins the value. -/
def pspillSet (old new v : Word) : Word :=
  ((v + (new - old)) &&& 0xFFFF) ||| ((v + ((new &&& 0xFFFF0000) - (old &&& 0xFFFF0000))) &&& 0xFFFF0000)
/-- The thread or bunch register written, lane values given. -/
def setsBunch' (r : SysReg) (old : Word) (m : Lanes) (v : Fin 32 → Word) (b : Bunch) : Bunch :=
  match r with
  | .fmode => b.mapThreads fun l t => if m.getLsbD l.val then { t with fmode := v l } else t
  | .pspill =>
    match (lanesOf m).getLast? with
    | some l => { b with pspill := pspillSet old b.pspill (v l) }
    | none => b
  | _ => b
def setsGroup' (r : SysReg) (m : Lanes) (v : Fin 32 → Word) (g : Group) : Group :=
  match r, (lanesOf m).getLast? with
  | .gs, some l => { g with gs := (v l &&& gsMask) ||| g.gsNow }
  | _, _ => g

/-- Each executing lane reads a system register into a vector register. (R128) -/
def execGets (d : Reg) (r : SysReg) (s : State) : Host.Outcome State Fault Refusal :=
  match s.here? with
  | none => .next s
  | some h => .next (s.laneOp (opsD [d]) (fun _ _ => []) (fun _ l => outWord (s.sysVal h s.cur.bunch h.b l r))
      (fun _ good b => s.latchCyc r good b) noGpost)

/-- Executing lanes write a vector value into a thread, bunch or group system register. For other threads
R128 fixes only what later cycles see: a run that executes later in the same cycle sees it too (log 37). (R128) -/
def execSets (r : SysReg) (a : Src) (s : State) : Host.Outcome State Fault Refusal :=
  match s.here? with
  | none => .next s
  | some h =>
    let v := fun (out : Fin 32 → LaneOut) l => (out l).vals.headD 0
    .next (s.laneOp { reads := srcReads a 1, dests := [] } (fun _ _ => [])
      (fun x l => if sysValOk r (srcWord a x l) then outWord (srcWord a x l) else outFault l Code.badSys 0)
      (fun out good b => setsBunch' r h.b.pspill good (v out) b) (fun out good g => setsGroup' r good (v out) g))

/-! ## Illegal sequences (R51) -/

/-- Every lane of the run, gated or not, takes ILLEGAL; off is the offending word's distance from the sequence's first
word. No state changes but the delivery. (R51) -/
def execIllegal (off : Nat) (s : State) : Host.Outcome State Fault Refusal :=
  .next (s.deliver s.cur.gid s.cur.bunch s.cur.pc
    ((lanesOf s.cur.run).map fun l => { lane := l, code := Code.illegal, addr := s.cur.pc + BitVec.ofNat 64 off }))

/-! ## Branches, calls, exits (R129 to R134) -/

/-- Target of an LB word (R39, R129): the word's address plus 4 times the signed field. -/
def State.lbTarget (s : State) (l : BitVec 24) : DWord := s.cur.word + (l.signExtend 64 <<< 2)
/-- Target of a GI or LI branch (R39, R130, R137). -/
def State.immTarget (s : State) (imm : Word) : DWord := s.cur.word + (imm.signExtend 64 <<< 2)

/-- Every executing lane's counter goes to the label. (R129) -/
def execBra (l : BitVec 24) (s : State) : Host.Outcome State Fault Refusal :=
  .next (s.laneOp (opsD []) (fun _ _ => []) (fun _ _ => { goto := some (s.lbTarget l) }) noPost noGpost)

/-- A word on the instruction path (R52, R61): its translation with X, and its value, as the home point has it now (log 23). -/
def State.fetchWord (s : State) (core ctx : Nat) (va : DWord) : State × Except Nat Word :=
  match s.xlate core ctx va.toNat .fetch with
  | (s, .error c) => (s, .error c)
  | (s, .ok x) => (s, if poisoned s.poison x.pa 4 then .error Code.poison else .ok (BitVec.ofNat 32 (ofBytes (s.readAs (Pte.key x.pte) x.pa 4))))

/-- A lane's branch through a table whose header is read (R130). -/
def State.brxLane (s : State) (h : Here) (t : DWord) (n : Nat) (idx : Word) (l : Fin 32) : State × LaneOut :=
  if n ≤ idx.toNat then (s, outFault l Code.brxRange 0)
  else
    let ea := t + BitVec.ofNat 64 (4 * (2 + idx.toNat))
    match s.fetchWord h.g.core h.l.ctx ea with
    | (s, .error c) => (s, outFault l c ea)
    | (s, .ok e) =>
      if e.toNat / 2 ^ 24 != 0 then (s, outFault l Code.illegal ea)
      else (s, { goto := some (t + ((e.setWidth 24).signExtend 64 <<< 2)) })
/-- The first fetch fault of the entries that some lanes select (R130): it is every executing lane's. DESIGN CHOICE (log 80): where
several entries fail differently, it is that of the lowest lane that selects one. -/
def State.brxFault (s : State) (h : Here) (t : DWord) (n : Nat) (idx : Fin 32 → Word) (ls : List (Fin 32)) : Option (Nat × DWord) :=
  ls.findSome? fun l =>
    if n ≤ (idx l).toNat then none
    else
      let ea := t + BitVec.ofNat 64 (4 * (2 + (idx l).toNat))
      match (s.fetchWord h.g.core h.l.ctx ea).2 with
      | .error c => some (c, ea)
      | .ok _ => none
/-- Multiway branch through a table that the header word heads, read once per run with an executing lane. (R130, R50) -/
def execBrx (a : Src) (imm : Word) (s : State) : Host.Outcome State Fault Refusal :=
  match s.here? with
  | none => .next s
  | some h =>
    if s.cur.exec = 0 then .next (s.laneOp (opsD []) (fun _ _ => []) (fun _ _ => {}) noPost noGpost)
    else
      let t := s.immTarget imm
      match s.fetchWord h.g.core h.l.ctx t with
      | (s, .error c) => .next (s.laneOp (opsD []) (fun _ _ => []) (fun _ l => outFault l c t) noPost noGpost)
      | (s, .ok hd) =>
        if hd.toNat / 2 ^ 24 != 0 || hd.toNat % 2 ^ 14 != 0 then
          .next (s.laneOp (opsD []) (fun _ _ => []) (fun _ l => outFault l Code.illegal t) noPost noGpost)
        else
          let n := hd.toNat / 2 ^ 14 % 1024 + 1
          let o : Operands := { reads := srcReads a 1, dests := [] }
          let bad := fun (h : Here) (b : Bunch) => readFault h s.cur.bunch b o.reads
          .next (s.laneSeqBy (fun h b l =>
              match s.brxFault h t n (srcWord a b) ((lanesOf s.cur.exec).filter fun l => (bad h b l).isNone) with
              | some e => some { lane := l, code := e.1, addr := e.2 }
              | none => bad h b l) o noPre
            (fun h b s l => s.brxLane h t n (srcWord a b l) l) noPost)

/-- Where a bunch's own spills happen. -/
def State.ownCtx (s : State) (h : Here) (bi : Nat) : RegCtx :=
  ⟨h.g.gid, h.g.num, bi, h.g.core, h.l.ctx, h.l.hdr, ⟨0, 0⟩, [], s.cur.pc, s.cur.exec⟩
/-- The four oldest entries of a full stack go to the next group of the return spill area (R131, R148). -/
def State.putReturns (s : State) (x : RegCtx) (l : Fin 32) (base : Nat) : List DWord → State × Option (Nat × DWord)
  | [] => (s, none)
  | r :: rs =>
    match s.xlate x.core x.ctx base .store with
    | (s, .error c) => (s, some (c, BitVec.ofNat 64 base))
    | (s, .ok y) => (s.ownStore x l base y (toBytes 8 r)).putReturns x l (base + 8) rs
/-- Four entries of a group of the area, oldest first (R131, R148). -/
def State.getReturns (s : State) (x : RegCtx) : Nat → Nat → State × Except (Nat × DWord) (List DWord)
  | 0, _ => (s, .ok [])
  | n + 1, base =>
    match s.xlate x.core x.ctx base .load with
    | (s, .error c) => (s, .error (c, BitVec.ofNat 64 base))
    | (s, .ok y) =>
      let m := s.loadNow x.core (s.asidOf x.ctx) base y 8
      if m.2.2 then (m.1, .error (Code.poison, BitVec.ofNat 64 base))
      else
        match m.1.getReturns x n (base + 8) with
        | (s, .error e) => (s, .error e)
        | (s, .ok l) => (s, .ok (BitVec.ofNat 64 (ofBytes m.2.1) :: l))
/-- push (R131): the entry goes on top of a thread's stack. -/
def State.pushRet (s : State) (h : Here) (bi : Nat) (l : Fin 32) (x : DWord) : State × Option (Nat × DWord) :=
  match s.thread? h.g.gid bi l with
  | none => (s, none)
  | some t =>
    if 8 ≤ t.ret.length then
      if t.spilled = h.l.hdr.g then (s, some (Code.retOver, 0))
      else
        match s.putReturns (s.ownCtx h bi) l (h.l.hdr.returnArea h.g.num bi l + 32 * t.spilled) (t.ret.take 4) with
        | (_, some e) => (s, some e)
        | (s, none) =>
          (s.modThread h.g.gid bi l fun t => { t with ret := t.ret.drop 4 ++ [x], spilled := t.spilled + 1 }, none)
    else (s.modThread h.g.gid bi l fun t => { t with ret := t.ret ++ [x] }, none)
/-- pop (R131). -/
def State.popRet (s : State) (h : Here) (bi : Nat) (l : Fin 32) : State × Except (Nat × DWord) DWord :=
  match s.thread? h.g.gid bi l with
  | none => (s, .error (Code.retEmpty, 0))
  | some t =>
    match t.ret.getLast? with
    | some x => (s.modThread h.g.gid bi l fun t => { t with ret := t.ret.dropLast }, .ok x)
    | none =>
      if t.spilled = 0 then (s, .error (Code.retEmpty, 0))
      else
        match s.getReturns (s.ownCtx h bi) 4 (h.l.hdr.returnArea h.g.num bi l + 32 * (t.spilled - 1)) with
        | (_, .error e) => (s, .error e)
        | (s, .ok g) =>
          (s.modThread h.g.gid bi l fun t => { t with ret := g.dropLast, spilled := t.spilled - 1 }, .ok (g.getLastD 0))
/-- A lane calls a target (R132). -/
def State.callLane (s : State) (h : Here) (l : Fin 32) (tgt : DWord) : State × LaneOut :=
  match s.pushRet h s.cur.bunch l s.cur.next with
  | (s, some e) => (s, outFault l e.1 e.2)
  | (s, none) => (s, { goto := some tgt })

/-- Each executing lane pushes the address after the sequence and goes to the label. (R132) -/
def execCall (l : BitVec 24) (s : State) : Host.Outcome State Fault Refusal :=
  .next (s.laneSeq (opsD []) noPre (fun h _ s' k => s'.callLane h k (s.lbTarget l)) noPost)

/-- Each executing lane pushes the address after the sequence and goes to the pair's address. (R132) -/
def execCallx (a : Src) (s : State) : Host.Outcome State Fault Refusal :=
  .next (s.laneSeq { reads := srcReads a 2, dests := [] } noPre
    (fun h b s' k =>
      let tgt := srcPair a b k
      if tgt.toNat % 4 != 0 then (s', outFault k Code.align tgt) else s'.callLane h k tgt) noPost)

/-- Each executing lane goes to the address it pops from its stack. (R132) -/
def execRet (s : State) : Host.Outcome State Fault Refusal :=
  .next (s.laneSeq (opsD []) noPre
    (fun h _ s' k =>
      match s'.popRet h s'.cur.bunch k with
      | (s', .error e) => (s', outFault k e.1 e.2)
      | (s', .ok x) => (s', { goto := some x })) noPost)

/-- Ends each executing lane's thread: its copies are released, its waking and its ports end; tree counts fall, and the
group leaves once every thread has exited. (R133) -/
def execExit (s : State) : Host.Outcome State Fault Refusal :=
  match s.here? with
  | none => .next s
  | some h =>
    .next ((s.laneOp (opsD []) (fun _ _ => []) (fun _ _ => {}) (fun _ good b => b.exitLanes good s.cur.pc) noGpost).afterExit h
      s.cur.exec)

/-- A software trap in each executing lane; the frame's RESUME is the address after the sequence. (R134, R315) -/
def execTrap (imm : Word) (s : State) : Host.Outcome State Fault Refusal :=
  .next (s.laneOp (opsD []) (fun _ _ => [])
    (fun _ l => { fault := some { lane := l, code := Code.trap, arg := imm, resume := some s.cur.next } }) noPost noGpost)

/-- A breakpoint in each executing lane, resuming after the sequence. (R317) -/
def execBkpt (s : State) : Host.Outcome State Fault Refusal :=
  .next (s.laneOp (opsD []) (fun _ _ => [])
    (fun _ l => { fault := some { lane := l, code := Code.bkpt, resume := some s.cur.next } }) noPost noGpost)

/-! ## Neighbour ports (R140, R141) -/

/-- A pushed entry goes to the queue of the paired thread: at once to a lane port, through the network to a core port. -/
def State.sendEntry (s : State) (g : Group) (bi : Nat) (b : Bunch) (l : Fin 32) (p : Port) (x : Word) : State :=
  match p with
  | .lo => match lanePeer b l p with
    | some k => s.modThread g.gid bi k fun t => t.enter (Port.opposite p) x
    | none => s
  | .hi => match lanePeer b l p with
    | some k => s.modThread g.gid bi k fun t => t.enter (Port.opposite p) x
    | none => s
  | _ => match s.pairAt g p with
    | some (y, _) => { s with portNet := s.portNet ++ [⟨y.gid, bi, l, Port.idx (Port.opposite p), some x⟩] }
    | none => s
/-- A popped entry's credit goes back to the pusher. -/
def State.sendCredit (s : State) (g : Group) (bi : Nat) (b : Bunch) (l : Fin 32) (p : Port) : State :=
  match p with
  | .lo => match lanePeer b l p with
    | some k => s.modThread g.gid bi k fun t => t.credit (Port.opposite p)
    | none => s
  | .hi => match lanePeer b l p with
    | some k => s.modThread g.gid bi k fun t => t.credit (Port.opposite p)
    | none => s
  | _ => match s.pairAt g p with
    | some (y, _) => { s with portNet := s.portNet ++ [⟨y.gid, bi, l, Port.idx (Port.opposite p), none⟩] }
    | none => s
def State.pushLane (s : State) (h : Here) (p : Port) (x : Word) (l : Fin 32) : State × LaneOut :=
  match s.thread? h.g.gid s.cur.bunch l with
  | none => (s, {})
  | some t =>
    let q := t.port p
    let s := s.modThread h.g.gid s.cur.bunch l fun t => t.arm p .credit
    if 0 < q.credits then
      let s := s.modThread h.g.gid s.cur.bunch l fun t => t.setPort p { t.port p with credits := q.credits - 1 }
      (s.sendEntry h.g s.cur.bunch h.b l p x, outWord 1)
    else (s, outWord 0)
/-- POP takes the oldest entry, PEEK leaves it; none writes no vd. The second word is the mask bit. -/
def State.popLane (s : State) (h : Here) (p : Port) (take : Bool) (l : Fin 32) : State × LaneOut :=
  match s.thread? h.g.gid s.cur.bunch l with
  | none => (s, {})
  | some t =>
    let s := s.modThread h.g.gid s.cur.bunch l fun t => t.arm p .entry
    match (t.port p).entries with
    | [] => (s, { vals := [0, 0], skip := true })
    | x :: xs =>
      if take then
        let s := s.modThread h.g.gid s.cur.bunch l fun t => t.setPort p { t.port p with entries := xs }
        (s.sendCredit h.g s.cur.bunch h.b l p, { vals := [x, 1] })
      else (s, { vals := [x, 1] })
def popPost (m : Mask) (out : Fin 32 → LaneOut) (good : Lanes) (b : Bunch) : Bunch :=
  b.setMask m good fun l => (out l).vals.getD 1 0 != 0

/-- Sends the value through the port where the thread holds a credit; the lane's mask bit says whether it did. (R141) -/
def execPush (m : Mask) (a : Src) (p : Port) (s : State) : Host.Outcome State Fault Refusal :=
  .next (s.laneSeq { reads := srcReads a 1, dests := [] } noPre (fun h b s l => s.pushLane h p (srcWord a b l) l) (maskPost m))

/-- Takes the oldest entry of the lane's queue and returns a credit; the mask bit says whether there was one. (R141) -/
def execPop (d : Reg) (p : Port) (m : Mask) (s : State) : Host.Outcome State Fault Refusal :=
  .next (s.laneSeq (opsD [d]) noPre (fun h _ s l => s.popLane h p true l) (popPost m))

/-- Reads the oldest entry of the lane's queue and leaves it there. (R141) -/
def execPeek (d : Reg) (p : Port) (m : Mask) (s : State) : Host.Outcome State Fault Refusal :=
  .next (s.laneSeq (opsD [d]) noPre (fun h _ s l => s.popLane h p false l) (popPost m))

end Sys2Proof.Machine
end

