-- ==== Sys2Proof/Machine/Bunch.lean ====
section
/-! DEFINITION. Machine/Bunch.lean: the bunch set without memory and engines (R135 to R138): it acts once for the run on
scalar registers and moves every thread of the run. The trap registers and HALT stand here too (R313, R316, R318). -/

namespace Sys2Proof.Machine

/-- One scalar result, or a scalar pair, from two scalar registers or one and an immediate (R136). -/
def State.sbin (s : State) (d a b : Reg) (f : Word → Word → Word) : Host.Outcome State Fault Refusal :=
  s.bunchOp fun h => h.b.setS d (f (h.b.sreg a) (h.b.sreg b))
def State.sun (s : State) (d a : Reg) (f : Word → Word) : Host.Outcome State Fault Refusal :=
  s.bunchOp fun h => h.b.setS d (f (h.b.sreg a))
def State.sbin64 (s : State) (d a b : Reg) (f : DWord → DWord → DWord) : Host.Outcome State Fault Refusal :=
  s.bunchOp fun h => h.b.setSPair d (f (h.b.spair a) (h.b.spair b))
/-- 1 where a condition holds, else 0. -/
def flag (c : Bool) : Word := if c then 1 else 0

/-- Bunch instruction with no effect. (R136) -/
def execNop (s : State) : Host.Outcome State Fault Refusal :=
  s.bunchOp fun h => h.b

/-- Reads a system register into a scalar register once per run; of CYC every thread of the run latches the high half (log 36).
(R128) -/
def execGetsBunch (d : Reg) (r : SysReg) (s : State) : Host.Outcome State Fault Refusal :=
  s.bunchOp fun h =>
    s.latchCyc r s.cur.run (h.b.setS d (s.sysVal h s.cur.bunch h.b ((lanesOf s.cur.run).headD 0) r))

/-- Writes a scalar value into a system register for the run. (R128) -/
def execSetsBunch (r : SysReg) (a : Reg) (s : State) : Host.Outcome State Fault Refusal :=
  match s.here? with
  | none => .next s
  | some h =>
    let v := h.b.sreg a
    if sysValOk r v then
      .next ((s.runTo h (setsBunch' r h.b.pspill s.cur.run (fun _ => v) h.b) s.cur.next).modGroup h.g.gid
        (setsGroup' r s.cur.run fun _ => v))
    else .next (s.bunchFault h Code.badSys 0)

/-- Writes an immediate into a scalar register. (R136) -/
def execMovN32Bunch (d : Reg) (imm : Word) (s : State) : Host.Outcome State Fault Refusal :=
  s.bunchOp fun h => h.b.setS d imm

/-- Moves one run member's vector value into a scalar register. (R138) -/
def execRdlaneN32 (d a b : Reg) (s : State) : Host.Outcome State Fault Refusal :=
  match s.here? with
  | none => .next s
  | some h =>
    let j : Fin 32 := Fin.ofNat 32 (h.b.sreg b).toNat
    if s.cur.run.getLsbD j.val then
      match refillAll (s.regCtx h s.cur.bunch [a]) [a] s (h.b.touch [a] s.issues) with
      | .error e => .next (s.spillHalt h s.cur.bunch s.cur.pc s.cur.run e)
      | .ok (s1, b1) =>
        let stale := !b1.isLive a j
        let low := (lanesOf s.cur.run).headD 0
        let s2 := s1.putBunch h.g.gid s.cur.bunch b1
        let s2 := if stale then s2.setGs h.g.gid gsStale else s2
        if stale && staleTrap h.b.threads[low].fmode then .next (s2.bunchFault h Code.stale 0)
        else if b1.isBad a j then
          .next (s2.bunchFault h Code.poison (BitVec.ofNat 64 (h.l.hdr.slot h.g.num s.cur.bunch j a)))
        else .next (s2.runTo h (b1.setS d (b1.val a j)) s.cur.next)
    else .next (s.runTo h (h.b.setS d 0) s.cur.next)

/-- Branches the whole run if a scalar register is zero. (R137) -/
def execBz (a : Reg) (imm : Word) (s : State) : Host.Outcome State Fault Refusal :=
  match s.here? with
  | none => .next s
  | some h => .next (s.runTo h h.b (if h.b.sreg a = 0 then s.immTarget imm else s.cur.next))

/-- Branches the whole run if a scalar register is non-zero. (R137) -/
def execBnz (a : Reg) (imm : Word) (s : State) : Host.Outcome State Fault Refusal :=
  match s.here? with
  | none => .next s
  | some h => .next (s.runTo h h.b (if h.b.sreg a = 0 then s.cur.next else s.immTarget imm))

/-- Scalar 32-bit sum. (R136) -/
def execAddN32Bunch (d a b : Reg) (s : State) : Host.Outcome State Fault Refusal :=
  s.sbin d a b (· + ·)

/-- Scalar 64-bit pair sum. (R136) -/
def execAddN64Bunch (d a b : Reg) (s : State) : Host.Outcome State Fault Refusal :=
  s.sbin64 d a b (· + ·)

/-- Scalar 32-bit difference. (R136) -/
def execSubN32Bunch (d a b : Reg) (s : State) : Host.Outcome State Fault Refusal :=
  s.sbin d a b (· - ·)

/-- Scalar 64-bit pair difference. (R136) -/
def execSubN64Bunch (d a b : Reg) (s : State) : Host.Outcome State Fault Refusal :=
  s.sbin64 d a b (· - ·)

/-- Scalar low 32 bits of the product. (R136) -/
def execMulloN32Bunch (d a b : Reg) (s : State) : Host.Outcome State Fault Refusal :=
  s.sbin d a b (· * ·)

/-- Scalar bitwise and. (R136) -/
def execAndN32Bunch (d a b : Reg) (s : State) : Host.Outcome State Fault Refusal :=
  s.sbin d a b (· &&& ·)

/-- Scalar bitwise or. (R136) -/
def execOrN32Bunch (d a b : Reg) (s : State) : Host.Outcome State Fault Refusal :=
  s.sbin d a b (· ||| ·)

/-- Scalar bitwise exclusive or. (R136) -/
def execXorN32Bunch (d a b : Reg) (s : State) : Host.Outcome State Fault Refusal :=
  s.sbin d a b (· ^^^ ·)

/-- Scalar left shift by a register count. (R136) -/
def execShlN32Bunch (d a b : Reg) (s : State) : Host.Outcome State Fault Refusal :=
  s.sbin d a b shl

/-- Scalar logical right shift by a register count. (R136) -/
def execShrN32Bunch (d a b : Reg) (s : State) : Host.Outcome State Fault Refusal :=
  s.sbin d a b shr

/-- Scalar arithmetic right shift by a register count. (R136) -/
def execSarI32Bunch (d a b : Reg) (s : State) : Host.Outcome State Fault Refusal :=
  s.sbin d a b sar

/-- Scalar signed minimum. (R136) -/
def execMinI32Bunch (d a b : Reg) (s : State) : Host.Outcome State Fault Refusal :=
  s.sbin d a b minI

/-- Scalar unsigned minimum. (R136) -/
def execMinN32Bunch (d a b : Reg) (s : State) : Host.Outcome State Fault Refusal :=
  s.sbin d a b minN

/-- Scalar signed maximum. (R136) -/
def execMaxI32Bunch (d a b : Reg) (s : State) : Host.Outcome State Fault Refusal :=
  s.sbin d a b maxI

/-- Scalar unsigned maximum. (R136) -/
def execMaxN32Bunch (d a b : Reg) (s : State) : Host.Outcome State Fault Refusal :=
  s.sbin d a b maxN

/-- Scalar 1 if equal, else 0. (R136) -/
def execSeqN32 (d a b : Reg) (s : State) : Host.Outcome State Fault Refusal :=
  s.sbin d a b (fun x y => flag (x == y))

/-- Scalar 1 if signed less than, else 0. (R136) -/
def execSltI32 (d a b : Reg) (s : State) : Host.Outcome State Fault Refusal :=
  s.sbin d a b (fun x y => flag (x.slt y))

/-- Scalar 1 if unsigned less than, else 0. (R136) -/
def execSltN32 (d a b : Reg) (s : State) : Host.Outcome State Fault Refusal :=
  s.sbin d a b (fun x y => flag (x.ult y))

/-- Scalar 32-bit sum with an immediate. (R136) -/
def execAddN32BunchImm (d a : Reg) (imm : Word) (s : State) : Host.Outcome State Fault Refusal :=
  s.sun d a (· + imm)

/-- Scalar 64-bit pair sum with a sign-extended immediate. (R136) -/
def execAddN64BunchImm (d a : Reg) (imm : Word) (s : State) : Host.Outcome State Fault Refusal :=
  s.bunchOp fun h => h.b.setSPair d (h.b.spair a + immSext imm)

/-- Scalar bitwise and with an immediate. (R136) -/
def execAndN32BunchImm (d a : Reg) (imm : Word) (s : State) : Host.Outcome State Fault Refusal :=
  s.sun d a (· &&& imm)

/-- Scalar left shift by an immediate. (R136) -/
def execShlN32BunchImm (d a : Reg) (imm : Word) (s : State) : Host.Outcome State Fault Refusal :=
  s.sun d a (shl · imm)

/-- Scalar logical right shift by an immediate. (R136) -/
def execShrN32BunchImm (d a : Reg) (imm : Word) (s : State) : Host.Outcome State Fault Refusal :=
  s.sun d a (shr · imm)

/-- Debug control: bits [30:16] are reserved (R325). -/
def dbgOk (w : Word) : Bool := (w &&& 0x7FFF0000) == 0
/-- Bits [63:57] of an address are zero (R155). -/
def addrOk (a : DWord) : Bool := decide (a.toNat < 2 ^ 57)

/-- Sets the group's trap routine, frame base and debug control. (R313) -/
def execSettrap (d a b : Reg) (s : State) : Host.Outcome State Fault Refusal :=
  match s.here? with
  | none => .next s
  | some h =>
    let tra := h.b.spair a
    let tfb := h.b.spair b
    let sc := h.b.sreg d
    if tra.toNat % 4 != 0 || tfb.toNat % 64 != 0 then .next (s.bunchFault h Code.align 0)
    else if !addrOk tra then .next (s.bunchFault h Code.addr tra)
    else if !addrOk tfb then .next (s.bunchFault h Code.addr tfb)
    else if !dbgOk sc then .next (s.bunchFault h Code.badSys 0)
    else .next ((s.runTo h h.b s.cur.next).modGroup h.g.gid fun g =>
        { g with trapNext := some (tra, tfb, sc) })

/-- RESUME of each thread of the run, read in its program order: own earlier stores are performed first (R173, R316). -/
def State.readResumes (s : State) (h : Here) : List (Fin 32) → List (Fin 32 × DWord) → State × Except (Fin 32 × Nat × DWord) (List (Fin 32 × DWord))
  | [], acc => (s, .ok acc)
  | l :: ls, acc =>
    let va := h.g.frameAddr s.cur.bunch l
    match s.xlate h.g.core h.l.ctx va.toNat .load with
    | (s, .error c) => (s, .error (l, c, va))
    | (s, .ok x) =>
      let s := s.flushAll h.g.gid s.cur.bunch (laneBit l) true
      let r := s.loadNow h.g.core (s.asidOf h.l.ctx) va.toNat x 8
      if r.2.2 then (r.1, .error (l, Code.poison, va))
      else r.1.readResumes h ls ((l, BitVec.ofNat 64 (ofBytes r.2.1)) :: acc)

/-- Returns each thread of the run from its trap routine to its RESUME address. (R316) -/
def execRtt (s : State) : Host.Outcome State Fault Refusal :=
  match s.here? with
  | none => .next s
  | some h =>
    if (lanesOf s.cur.run).any fun l => !h.b.threads[l].inTrap then .next (s.bunchFault h Code.badSys 0)
    else
      match s.readResumes h (lanesOf s.cur.run) [] with
      | (s, .error (l, c, va)) =>
        if s.meetsMove h.g c va then .next ((lanesOf s.cur.run).foldl (fun s l => s.parkOnMove h.g s.cur.bunch l va) s)
        else .next (s.halt h.g.gid (s.originOf h.g s.cur.bunch l 1 c va s.cur.pc s.cur.run))
      | (s, .ok rs) =>
        .next (s.modBunch h.g.gid s.cur.bunch fun b => b.mapThreads fun l t =>
          match rs.find? fun x => x.1 == l with
          | some x => t.resume x.2
          | none => t)

/-- Halts the group with REASON 3. (R318) -/
def execHalt (s : State) : Host.Outcome State Fault Refusal :=
  match s.here? with
  | none => .next s
  | some h => .next (s.halt h.g.gid (s.originOf h.g s.cur.bunch ((lanesOf s.cur.run).headD 0) 3 0 0 s.cur.pc 0))

end Sys2Proof.Machine
end

