-- ==== Sys2Proof/Machine/Cores.lean ====
section
/-! DEFINITION. Machine/Cores.lean: what a core takes of a launch's groups, and where the shapes let them go (R283): what the
check against an empty module and the placements share. -/

namespace Sys2Proof.Machine

/-! ## The tests of a core (R283) -/

/-- The launch is placed whole. -/
def Header.isWhole (h : Header) : Bool := h.shape != 0 || h.tags.any fun t => t != 0
def Header.permits (h : Header) (core : Nat) : Bool :=
  (h.kind == 2 || (h.kind == 1) == isVector core) && (h.accum == 0 || !isVector core)
  && (h.stackMask == 0 || h.stackMask / 2 ^ coreStack core % 2 == 1)
/-- What a core's groups hold of what placement counts: chunks also of groups gone whose region is not yet free (R145). -/
structure Load where
  groups : Nat
  bunches : Nat
  threads : Nat
  rows : Nat
  bars : Nat
  chunks : Nat
  deriving DecidableEq, Repr
def Load.none : Load := ⟨0, 0, 0, 0, 0, 0⟩
/-- Room for n groups of a header beside a load. -/
def Load.takes (a : Load) (h : Header) (core n : Nat) : Bool :=
  decide (a.groups + n ≤ Config.maxGroups) && decide (a.bunches + n * h.bunchCount ≤ Config.maxBunches)
  && decide (a.threads + n * h.t ≤ Config.maxThreads)
  && decide (a.rows + n * h.t * h.accum ≤ if isVector core then 0 else Config.accRows)
  && decide (a.bars + n * h.nbar ≤ Config.maxBarriers) && decide (a.chunks + n * h.chunks ≤ chunksOf core)
/-- An empty core can take n groups. -/
def Header.fitsEmpty (h : Header) (core n : Nat) : Bool := h.permits core && Load.none.takes h core n

/-! ## Shapes (R283) -/

/-- How many groups, at most n, a core takes. -/
def maxFit (cap : Nat → Bool) (n : Nat) : Nat := min n ((List.range Config.maxGroups).takeWhile fun i => cap (i + 1)).length
/-- Groups in number order onto cores in order; the second number is the first group. -/
def fillCores (cap : Nat → Nat → Bool) : List Nat → Nat → Nat → List (Nat × Nat)
  | [], _, _ => []
  | c :: cs, j, n =>
    if n = 0 then []
    else
      let k := maxFit (cap c) n
      ((List.range k).map fun i => (j + i, c)) ++ fillCores cap cs (j + k) (n - k)
def allCores : List Nat := List.range Config.cores
def stackCores (st : Nat) : List Nat := (List.range Config.coresPerStack).map fun i => st * Config.coresPerStack + i
/-- The regions a shape allows: cores that groups may fill, or a line with group j on its core j. -/
def shapeRegions (h : Header) : List (List Nat × Bool) :=
  let ats := fun (f : Nat → Nat → Nat → List Nat) =>
    (List.range 8).flatMap fun st => (List.range 12).flatMap fun r => (List.range 12).map fun c => f st r c
  match h.shape with
  | 1 => (List.range 8).flatMap fun st => (List.range 6).flatMap fun r => (List.range 6).map fun c =>
      ([coreAt st (2 * r) (2 * c), coreAt st (2 * r) (2 * c + 1), coreAt st (2 * r + 1) (2 * c), coreAt st (2 * r + 1) (2 * c + 1)], false)
  | 2 => ((ats fun st r c => if c + h.ngroup ≤ 12 then (List.range h.ngroup).map fun j => coreAt st r (c + j) else []).filter
      fun l => !l.isEmpty).map fun l => (l, true)
  | 3 => ((ats fun st r c => if r + h.ngroup ≤ 12 then (List.range h.ngroup).map fun j => coreAt st (r + j) c else []).filter
      fun l => !l.isEmpty).map fun l => (l, true)
  | 4 => (List.range 8).map fun st => (stackCores st, false)
  | _ => [(allCores, false)]
/-- Places for every group of a whole launch, on cores not to be avoided, region by region. -/
def wholePlans (h : Header) (avoid : List Nat) (cap : Nat → Nat → Bool) : List (List (Nat × Nat)) :=
  (shapeRegions h).filterMap fun r =>
    let ok := fun c n => !avoid.contains c && cap c n
    if r.2 then
      (if r.1.all fun c => ok c 1 then some ((List.range h.ngroup).zip r.1) else none)
    else if 16 * r.1.length < h.ngroup then none
    else
      let p := fillCores ok r.1 0 h.ngroup
      if p.length = h.ngroup then some p else none
def wholePlan (h : Header) (avoid : List Nat) (cap : Nat → Nat → Bool) : Option (List (Nat × Nat)) := (wholePlans h avoid cap).head?
/-- Some placement on the empty module satisfies the launch (R280, R283). -/
def Header.placeable (h : Header) : Bool :=
  if h.isWhole then (wholePlan h [] h.fitsEmpty).isSome else allCores.any fun c => h.fitsEmpty c 1

end Sys2Proof.Machine
end

