-- ==== Sys2Proof/Machine/Ecc.lean ====
section
/-! DEFINITION. Machine/Ecc.lean: what an ECC finding does (R167, R195, log 25): a word corrected, refilled or poisoned, and a
bad tag, with their entries in the error log (R320). -/

namespace Sys2Proof.Machine

def State.req? (s : State) (id : Nat) : Option Req := s.reqs.find? fun r => r.id == id
/-- The log names the run of a request. -/
def State.recOfReq (s : State) (r : Req) : LogRec :=
  match s.group? r.gid with
  | some g => { s.logOf g r.bunch (lanesFrom (r.lanes.map fun x => x.lane)) with kind := 3, pc := r.pc }
  | none => { kind := 3 }
/-- The log names the run of a remote .csm access. -/
def State.recOfCsm (s : State) (m : CsmAccess) : LogRec :=
  match m.stores.head? with
  | some st => s.storeRec st
  | none => match s.req? m.req with
    | some r => s.recOfReq r
    | none => { kind := 3 }
/-- Launches that hold lines of a block in some cores' L1s halt for a device error (R167, R302). -/
def State.haltHolders (s : State) (blk : Nat) (at_ : Nat → Bool) : State :=
  let hit := s.groups.filter fun g => !g.left && at_ g.core
    && s.l1.any fun b => b.core == g.core && b.pb == blk && b.asid == s.asidOf (s.ctxOfGroup g)
  hit.foldl (fun s g => s.halt g.gid ⟨4, 0, 0, 0, 0, 0, BitVec.ofNat 32 g.num, g.core, 0⟩) s
/-- The address that names an ECC word in the log: physical, or of a scratchpad. -/
def State.eccAddr (s : State) (w : EccPlace) : Nat :=
  match w with
  | .home pa => pa
  | .slice _ pa => pa
  | .l1 core asid va => (s.block? core asid va).elim 0 fun b => b.pb * 512 + va % 512
  | .sp _ off => off
  | .chs _ _ off => off
/-- The L1s whose lines a bad tag or directory entry at the place concerns: of an L1's own tag, that L1. -/
def EccPlace.cores (w : EccPlace) (core : Nat) : Bool :=
  match w with
  | .l1 c _ _ => c == core
  | .slice st _ => coreStack core == st
  | _ => true
/-- The word lies in a dirty sector of its L1 or slice; a scratchpad word has no other copy. -/
def State.eccDirty (s : State) (w : EccPlace) : Bool :=
  match w with
  | .home pa => (s.slice? (homeStack pa) (pa / 512)).any fun b => b.dirty.getLsbD (pa % 512 / 32)
  | .slice _ _ => false
  | .l1 core asid va => (s.block? core asid va).any fun b => b.dirty.getLsbD (va % 512 / 32)
  | .sp _ _ => true
  | .chs _ _ _ => true
/-- The word becomes poisoned (R167, R195). -/
def State.eccPoison (s : State) (w : EccPlace) : State :=
  match w with
  | .home pa => { s with poison := addPoison s.poison (pa / 8) }
  | .slice _ _ => s
  | .l1 core asid va =>
    match s.block? core asid va with
    | some b =>
      if b.copies (sectorsOf (va % 512) 1) then s.modBlock { b with poison := addPoison b.poison (va % 512 / 8) }
      else { s with poison := addPoison s.poison (64 * b.pb + va % 512 / 8) }
    | none => s
  | .sp gid off => s.modGroup gid fun g => { g with spPoison := addPoison g.spPoison (off / 8) }
  | .chs lid st off => s.modLaunch lid fun l =>
      { l with windows := l.windows.map fun w => if w.stack = st then { w with poison := addPoison w.poison (off / 8) } else w }
/-- A clean sector is dropped and filled again (R167). -/
def State.eccRefill (s : State) (w : EccPlace) : State :=
  match w with
  | .home pa =>
    match s.slice? (homeStack pa) (pa / 512) with
    | some b =>
      let m := sectorsOf (pa % 512) 1 &&& b.valid
      (s.putSlice { b with valid := b.valid &&& ~~~ m }).sliceTake b.key b.pb m
    | none => s
  | .slice st pa =>
    match s.slice? st (pa / 512) with
    | some b => if isPeer pa then s.putSlice (b.takeHome s (sectorsOf (pa % 512) 1)) else s
    | none => s
  | .l1 core asid va =>
    match s.block? core asid va with
    | some b =>
      let m := sectorsOf (va % 512) 1 &&& b.valid
      s.modBlock (Block.fill s (b.clear m) m ((b.ro &&& m) != 0))
    | none => s
  | .sp _ _ => s
  | .chs _ _ _ => s
/-- The finding that the event's card brings (R167, log 25): in the word it names, or else in one given. A tag error names no
run (R320). -/
def State.eccFinds (s : State) (e : LogRec) (w : Option EccPlace) : State :=
  match s.event.at_ <|> w with
  | none => s
  | some w =>
    let a := BitVec.ofNat 64 (s.eccAddr w / 8 * 8)
    let hard := if s.eccDirty w then s.eccPoison w else s.eccRefill w
    match s.event.ecc with
    | .none => s
    | .corrected => s.log { e with kind := 3, code := 0, addr := a }
    | .clean => hard
    | .dirty => hard
    | .tag => (s.haltHolders (s.eccAddr w / 512) w.cores).log { kind := 3, code := Code.poison, addr := a }
/-- The home address of a finding that the agenda holds next, on a slice request's card that names no request. -/
def State.findingNext (s : State) : Option Nat :=
  match s.agenda with
  | e :: _ =>
    if e.row = .sliceRequest && e.ecc != .none && (s.req? e.a).isNone then
      (match e.at_ with | some (.home pa) => some pa | _ => none)
    else none
  | [] => none
/-- Such a finding, in a word that a test selects, is made now, between two transactions of one instruction (log 40). -/
def State.between (s : State) (e : LogRec) (words : Nat → Bool) : State :=
  match s.findingNext, s.agenda with
  | some pa, x :: xs => if words pa then { ({ s with event := x, agenda := xs }).eccFinds e none with event := s.event } else s
  | _, _ => s

end Sys2Proof.Machine
end

