-- ==== Sys2Proof/Machine/Regions.lean ====
section
/-! DEFINITION. Machine/Regions.lean: the regions engine commands declare (R236, R253, R256, R260, R262, R265) and the
range scoreboard over them (R187). -/

namespace Sys2Proof.Machine

/-- The space a region is compared in (R253): .gl by virtual address of an address space, a scratchpad by its group (the
own quarter of .csm and .sp name one scratchpad), .chs by launch and stack. -/
inductive RKey where
  | gl (asid : Nat)
  | sp (gid : Nat)
  | chs (launch stack : Nat)
  deriving DecidableEq, Repr
structure Region where
  key : RKey
  lo : Nat
  len : Nat
  deriving DecidableEq, Repr
def Region.meets (a b : Region) : Bool :=
  a.key == b.key && decide (a.lo < b.lo + b.len) && decide (b.lo < a.lo + a.len)
def regionsMeet (a b : List Region) : Bool := a.any fun x => b.any fun y => x.meets y

/-- Bits of an element (R255). -/
def MmaFmt.bits : MmaFmt → Nat
  | .f16 => 16
  | .bf16 => 16
  | .i4 => 4
  | .q4 => 4
  | _ => 8
def bytesOfBits' (n : Nat) : Nat := (n + 7) / 8
/-- Rows of a B tile as read, as offset and length (R236, R256). -/
def bRows (fmt : MmaFmt) (len : Nat) (b : Tile) (depth : Nat) (t : Bool) : List (Nat × Nat) :=
  if t then (List.range (16 * len)).map fun c => (b.base + c * b.pitch, bytesOfBits' (depth * fmt.bits))
  else (List.range depth).map fun k => (b.base + k * b.pitch, 2 * len * fmt.bits)
/-- The run of an A row (R236, R256). -/
def aRow (fmt : MmaFmt) (a : Tile) (k0 depth row : Nat) : Nat × Nat :=
  (a.base + row * a.pitch + k0 * fmt.bits / 8, bytesOfBits' (depth * fmt.bits))
/-- Scale byte and super-scale of a line's block (R246). -/
def TEntry.scaleAt (e : TEntry) (l j : Nat) : Nat := e.sbase + (l * e.spitch + j)
def TEntry.superAt (e : TEntry) (l j : Nat) : Nat := e.ssbase + 4 * ((l * e.spitch + j) / 256)
/-- Lines of a SCACC (R260). -/
def scaleLines (rows : Bool) (len : Nat) (idx : Vector Word 32) (lanes : Lanes) : List Nat :=
  if rows then (lanesOf lanes).map fun l => idx[l].toNat else List.range (16 * len)
/-- A place in a space, for a group. -/
def spaceKey (asid launch gid target : Nat) (spc : ASpace) (a : Nat) : RKey × Nat :=
  match spc with
  | .gl => (.gl asid, a)
  | .sp => (.sp gid, a)
  | .csm => (.sp target, a % 2 ^ 20)
  | .chs => (.chs launch (chsStack a), chsOffset a)
/-- Rows of a copy's region. -/
def copyRows (asid launch gid target : Nat) (spc : ASpace) (a len rows pitch : Nat) : List Region :=
  (List.range rows).map fun r =>
    let k := spaceKey asid launch gid target spc (a + r * pitch)
    ⟨k.1, k.2, len⟩

/-- What a command reads and writes in memory (R253). -/
def Cmd.reads (c : Cmd) (asid : Nat) (g : Group) : List Region :=
  match c.op with
  | .mma fmt _ len a b _ _ k0 depth t =>
    ((bRows fmt len b depth t).map fun x => ⟨.sp g.gid, x.1, x.2⟩)
    ++ (lanesOf c.lanes).map fun l => let x := aRow fmt a k0 depth c.idx[l].toNat; ⟨.sp g.gid, x.1, x.2⟩
  | .scacc _ len _ e j rows _ =>
    (scaleLines rows len c.idx c.lanes).flatMap fun l => [⟨.sp g.gid, e.scaleAt l j, 1⟩, ⟨.sp g.gid, e.superAt l j, 4⟩]
  | .accadd _ _ _ => []
  | .copy job => copyRows asid g.launch g.gid job.sgid job.ss job.sa job.len job.rows job.spitch
def Cmd.writes (c : Cmd) (asid : Nat) (g : Group) : List Region :=
  match c.op with
  | .accadd _ len spc =>
    (lanesOf c.lanes).map fun l =>
      let k := spaceKey asid g.launch g.gid c.target[l] spc c.addr[l]
      ⟨k.1, k.2, 64 * len⟩
  | .copy job => copyRows asid g.launch g.gid job.dgid job.ds job.da job.len job.rows job.dpitch
  | _ => []
def Cmd.footprint (c : Cmd) (asid : Nat) (g : Group) : List Region := c.reads asid g ++ c.writes asid g

/-- What a store inside a core covers, as regions are compared. -/
def Store.region (st : Store) : Region :=
  match st.sp with
  | .gl => ⟨.gl st.asid, st.addr.toNat, st.size⟩
  | .lp => ⟨.gl st.asid, st.addr.toNat, st.size⟩
  | .sp => ⟨.sp st.gid, st.addr.toNat, st.size⟩
  | .csm => ⟨.sp st.target, st.addr.toNat % 2 ^ 20, st.size⟩
  | .chs => ⟨.chs st.launch (chsStack st.addr.toNat), chsOffset st.addr.toNat, st.size⟩
/-- The dirty SI grains of a core that some regions meet go back (R172, R186). -/
def State.siBack (s : State) (core asid : Nat) (rs : List Region) : State :=
  (s.l1.filter fun b => b.core == core && b.asid == asid && Pte.coh b.pte == .si && b.dirty != 0).foldl (fun s b =>
    let m := (sectorList b.valid).foldl (fun m i =>
      if rs.any fun r => r.meets ⟨.gl asid, b.vb * 512 + 32 * i, 32⟩ then m ||| sectorMask i 1 else m) 0
    let r := s.writeBack b m
    r.1.modBlock r.2) s

/-- An access of the core to some regions is held by a command of a thread of the core (R187, R236), of those numbered below a
limit. -/
def State.engineHolds (s : State) (core limit : Nat) (rs : List Region) : Bool :=
  s.groups.any fun g => g.core == core && g.bunches.any fun b =>
    (b.mx.cmds ++ b.cp.cmds).any fun c => decide (c.id < limit) && regionsMeet (c.footprint (s.asidOf (s.ctxOfGroup g)) g) rs
/-- The limit for an instruction of a lane: commands appended after its issue never hold it (R187). -/
def State.heldLimit (s : State) (gid bi : Nat) (l : Fin 32) : Nat := ((s.thread? gid bi l).bind fun t => t.heldAt).getD s.fresh
/-- A lane's access to some regions is held. -/
def State.laneHeld (s : State) (core gid bi : Nat) (l : Fin 32) (rs : List Region) : Bool :=
  s.engineHolds core (s.heldLimit gid bi l) rs
/-- A later command of a bunch waits for an earlier one (R253). -/
def Cmd.edge (a b : Cmd) (asid : Nat) (g : Group) : Bool :=
  regionsMeet (a.writes asid g) (b.footprint asid g) || regionsMeet (a.reads asid g) (b.writes asid g)
/-- A thread's instruction stays unretired until an engine of its core retires a command (R66). -/
def State.engineWait (s : State) (gid bi : Nat) (l : Fin 32) : State :=
  s.modThread gid bi l fun t => { t with await := .engine, heldAt := some (t.heldAt.getD s.fresh) }

end Sys2Proof.Machine
end

