-- ==== Sys2Proof/Machine/Memory.lean ====
section
/-! DEFINITION. Machine/Memory.lean: loads and stores of lanes and bunches (R139, R191 to R196), atomics (R197 to R202),
fences (R142, R180, R203, R204), and how a request's answer ends its instruction (R192, R199). -/

namespace Sys2Proof.Machine

/-! ## Checked accesses (R143, R147, R192, R194) -/

/-- A checked access: space, address, translation (.gl and .lp), the group or launch a scratchpad address names, and the
core that holds the scratchpad. -/
structure Spot where
  sp : Space
  addr : DWord
  pa : Nat
  pte : Pte
  target : Nat
  core : Nat
  deriving DecidableEq, Repr

/-- The group that quarter p of the cluster names (R143, R329). -/
def State.csmTarget (s : State) (g : Group) (p : Nat) : Option Group :=
  (s.residentOn (coreOfPos g.core p)).find? fun x => x.launch == g.launch && x.rank == g.rank
/-- The limit of a space, for n bytes at an address of a thread (R147). -/
def State.limitFault (s : State) (h : Here) (bi : Nat) (l : Fin 32) (spc : Space) (a n : Nat) : Option Nat :=
  match spc with
  | .gl => if 2 ^ 57 ≤ a then some Code.addr else none
  | .lp =>
    let b := h.l.hdr.slice h.g.num bi l
    if b ≤ a ∧ a + n ≤ b + h.l.hdr.programPart then none else some Code.lpRange
  | .sp => if a < 2 ^ 20 ∧ a + n ≤ h.l.hdr.scratch then none else some Code.spRange
  | .csm =>
    if 2 ^ 22 ≤ a then some Code.csmRange
    else match s.csmTarget h.g (a / 2 ^ 20 % 4) with
      | some _ => if a % 2 ^ 20 + n ≤ h.l.hdr.scratch then none else some Code.csmRange
      | none => some Code.csmRange
  | .chs =>
    if 2 ^ 28 ≤ a then some Code.chsRange
    else if h.l.windows.any (fun w => w.stack == chsStack a) && decide (chsOffset a + n ≤ h.l.hdr.chsz * 65536) then none
    else some Code.chsRange
/-- The checks of an access in the order of R192: limit, alignment, translation and permission. The address is exact (R10,
R192). -/
def State.spot (s : State) (h : Here) (bi : Nat) (l : Fin 32) (spc : Space) (ea n align : Nat) (need : Need) :
    State × Except (Nat × DWord) Spot :=
  let a := BitVec.ofNat 64 ea
  match s.limitFault h bi l spc ea n with
  | some c => (s, .error (c, a))
  | none =>
    if ea % align != 0 then (s, .error (Code.align, a))
    else
      match spc with
      | .sp => (s, .ok ⟨.sp, a, 0, 0, h.g.gid, h.g.core⟩)
      | .csm =>
        match s.csmTarget h.g (ea / 2 ^ 20 % 4) with
        | some t => (s, .ok ⟨.csm, a, 0, 0, t.gid, t.core⟩)
        | none => (s, .error (Code.csmRange, a))
      | .chs => (s, .ok ⟨.chs, a, 0, 0, h.l.id, h.g.core⟩)
      | _ =>
        match s.xlate h.g.core h.l.ctx ea need with
        | (s, .error c) => (s, .error (c, a))
        | (s, .ok x) => (s, .ok ⟨spc, a, x.pa, x.pte, h.g.gid, h.g.core⟩)
def Spot.cached (p : Spot) : Bool := p.sp == .gl || p.sp == .lp
/-- A .csm access of another core. -/
def Spot.remote (p : Spot) (g : Group) : Bool := p.sp == .csm && p.core != g.core
/-- Byte offset in the scratchpad or window. -/
def Spot.off (p : Spot) : Nat := match p.sp with | .csm => p.addr.toNat % 2 ^ 20 | .chs => chsOffset p.addr.toNat | _ => p.addr.toNat
/-- The region an access covers, as engines' footprints are compared (R187, R253). -/
def Spot.region (p : Spot) (asid n : Nat) : Region :=
  match p.sp with
  | .gl => ⟨.gl asid, p.addr.toNat, n⟩
  | .lp => ⟨.gl asid, p.addr.toNat, n⟩
  | .chs => ⟨.chs p.target (chsStack p.addr.toNat), p.off, n⟩
  | _ => ⟨.sp p.target, p.off, n⟩
/-- The word an access of at most 8 bytes names, as stores are ordered on it (R173). -/
def Spot.place (p : Spot) (launch : Nat) : Nat × Nat × Nat :=
  match p.sp with
  | .gl => (0, 0, p.pa / 8)
  | .lp => (0, 0, p.pa / 8)
  | .chs => (2, launch, p.addr.toNat / 8)
  | _ => (1, p.target, p.off / 8)
/-- Bytes of a scratchpad or a window, and whether they are poisoned (R195). -/
def State.padRead (s : State) (p : Spot) (n : Nat) : List Byte × Bool :=
  match p.sp with
  | .chs =>
    match (s.launch? p.target).bind fun l => l.windows.find? fun w => w.stack == chsStack p.addr.toNat with
    | some w => (Memory.readN w.bytes p.off n, poisoned w.poison p.off n)
    | none => (List.replicate n 0, false)
  | _ =>
    match s.group? p.target with
    | some g => (Memory.readN g.sp p.off n, poisoned g.spPoison p.off n)
    | none => (List.replicate n 0, false)
def State.padWrite (s : State) (p : Spot) (bs : List Byte) : State :=
  match p.sp with
  | .chs => s.modLaunch p.target fun l => l.chsWrite (chsStack p.addr.toNat) p.off bs
  | _ => s.modGroup p.target fun g => g.spWrite p.off bs
/-- Before a release of some lanes (R178): their earlier stores are performed; wider than .gp, dirty SI grains go back. -/
def State.releaseOf (s : State) (gid bi core : Nat) (lanes : Lanes) (wide : Bool) : State :=
  let s := s.flush gid bi lanes
  if wide then s.siRelease core else s
def releasePre (bi : Nat) (q : Qual) (h : Here) (_ : Bunch) (lanes : Lanes) (s : State) : State :=
  match q with
  | some c => if lanes = 0 then s else s.releaseOf h.g.gid bi h.g.core lanes (Scope.wide c)
  | none => s
/-- Before the value of an acquire of some lanes is taken (R178): the SI action. -/
def acquirePre (q : Qual) (h : Here) (_ : Bunch) (lanes : Lanes) (s : State) : State :=
  if lanes = 0 then s else s.afterAcquire h.g.core (s.asidOf h.l.ctx) q
/-- Same-address order with the lanes' own earlier stores (R173); an SO access follows their earlier SO accesses (R177). -/
def State.settleOwn (s : State) (h : Here) (bi : Nat) (lanes : Lanes) (p : Spot) : State :=
  let s := if p.cached && Pte.kind p.pte == .so then s.flushSo h.g.gid bi lanes else s
  s.flushPlace h.g.gid bi lanes (p.place h.l.id)

/-- The same for an access of n bytes. -/
def State.settleOver (s : State) (h : Here) (bi : Nat) (lanes : Lanes) (p : Spot) (n : Nat) : State :=
  let q := p.place h.l.id
  let s := if p.cached && Pte.kind p.pte == .so then s.flushSo h.g.gid bi lanes else s
  let s := s.flushWhere h.g.gid bi lanes fun st =>
    st.place.1 == q.1 && st.place.2.1 == q.2.1 && decide (q.2.2 ≤ st.place.2.2) && decide (st.place.2.2 < q.2.2 + (n + 7) / 8)
  s.drainTo fun gid => p.sp == .csm && gid == p.target

/-! ## Requests (R164, R192, R199) -/

/-- What a run asks of memory: operation, scope, data register, and bytes. -/
structure Ask where
  op : ReqOp
  q : Qual
  vd : Option Reg
  size : Nat
  deriving DecidableEq, Repr
/-- The block a request is for: a physical block, or a remote scratchpad. -/
def Spot.blk (p : Spot) : Nat := if p.cached then p.pa / 512 else 2 ^ 64 + p.target
def Pend.is (p : Pend) (id gid bi : Nat) : Bool := p.id == id && p.gid == gid && p.bunch == bi
/-- The record of the issuing run's instruction, which waits for its requests. -/
def State.pendOf (s : State) (k : Ask) (scalar : Bool) (lane : Fin 32) : State :=
  if s.pends.any fun p => p.is s.issues s.cur.gid s.cur.bunch then s
  else
    { s with pends := s.pends ++ [{ id := s.issues, gid := s.cur.gid, bunch := s.cur.bunch, run := s.cur.run, exec := s.cur.exec, pc := s.cur.pc, next := s.cur.next, op := k.op, vd := k.vd, scalar := scalar, size := k.size, keep := [], waiting := laneBit lane, outs := [] }] }
/-- A lane of the issuing run joins the run's request for its block, or sends a new one; it waits for the answer. -/
def State.sendReq (s : State) (h : Here) (k : Ask) (p : Spot) (scalar : Bool) (x : ReqLane) : State :=
  let s := s.pendOf k scalar x.lane
  let st : ReqSt := if p.cached then .sent else .accepted
  let same := fun (r : Req) => r.pend == s.issues && r.gid == h.g.gid && r.bunch == s.cur.bunch && r.blk == p.blk && r.st == st
  let s := if s.reqs.any same then
      { s with reqs := s.reqs.map fun r => if same r then { r with lanes := r.lanes ++ [x] } else r }
    else
      let r : Req :=
        { id := s.fresh, pend := s.issues, core := h.g.core, gid := h.g.gid, bunch := s.cur.bunch, op := k.op, sp := p.sp,
          q := k.q, ret := k.vd.isSome, size := k.size, asid := s.asidOf h.l.ctx, ctx := h.l.ctx, blk := p.blk, pc := s.cur.pc,
          target := p.target, launch := h.l.id, st := st, run := s.cur.run, lanes := [x], applied := none }
      let s := { s.fresh' with reqs := s.reqs ++ [r] }
      if p.cached then s else { s with csmNet := s.csmNet ++ [⟨p.core, p.target, [], r.id⟩] }
  if scalar then
    s.modBunch h.g.gid s.cur.bunch fun b => b.mapThreads fun l t => if s.cur.run.getLsbD l.val then { t with await := .request } else t
  else s.modThread h.g.gid s.cur.bunch x.lane fun t => { t with await := .request }

/-! ## Loads -/

/-- A value the core has at issue: a scratchpad's, or an L1 hit (R151, R154). UC data, and generic SO loads of SI pages, come
from the home point (R152, R177). -/
def State.valueNow (s : State) (h : Here) (p : Spot) (ro : Bool) (n : Nat) : State × Option (List Byte × Bool) :=
  if p.remote h.g then (s, none)
  else if !p.cached then (s, some (s.padRead p n))
  else if Pte.coh p.pte == .uc || (!ro && homeOnly p.pte) then (s, none)
  else
    match s.block? h.g.core (s.asidOf h.l.ctx) p.addr.toNat with
    | some b =>
      if b.pb == p.pa / 512 && (if ro then b.hitRo (p.pa % 512) n else b.hit (p.pa % 512) n) then
        (s.putBlock b, some (s.blockRead b (p.pa % 512) n))
      else (s, none)
    | none => (s, none)
def Ask.ro (k : Ask) : Bool := k.op == .ldro
def Ask.need (k : Ask) : Need := match k.op with | .ldro => .ldro | .atom _ => .atomic | .cas128 => .atomic | _ => .load
/-- A lane's load (R192 to R196). -/
def State.loadLane (s : State) (h : Here) (k : Ask) (spc : Space) (ea : Nat) (l : Fin 32) : State × LaneOut :=
  match s.spot h s.cur.bunch l spc ea k.size k.size k.need with
  | (s, .error e) => (s, outFault l e.1 e.2)
  | (s, .ok p) =>
    if s.laneHeld h.g.core h.g.gid s.cur.bunch l [p.region (s.asidOf h.l.ctx) k.size] then
      (s.engineWait h.g.gid s.cur.bunch l, { held := true })
    else
      let s := if k.ro then s else s.settleOwn h s.cur.bunch (laneBit l) p
      match s.valueNow h p k.ro k.size with
      | (s, some v) => if v.2 then (s, outFault l Code.poison p.addr) else (s, { vals := bytesWords v.1 })
      | (s, none) => (s.sendReq h k p false ⟨l, p.addr, p.pa, p.pte, [], []⟩, { held := true })
/-- The base operand: a pair for .gl and .lp, one register otherwise (R191); the offset is scaled (R38), and
the sum is exact (R10, R192). -/
def baseReads (spc : Space) (a : Src) : List Read := match spc with | .gl => srcReads a 2 | .lp => srcReads a 2 | _ => srcReads a 1
def laneEa (spc : Space) (a : Src) (off : Nat) (b : Bunch) (l : Fin 32) : Nat :=
  match spc with
  | .gl => (srcPair a b l).toNat + off
  | .lp => (srcPair a b l).toNat + off
  | _ => (srcWord a b l).toNat + off
def Operands.forLoad (spc : Space) (a : Src) (d : Reg) (size : Nat) : Operands :=
  { reads := baseReads spc a, dests := if size = 8 then [d, regNext d 1] else [d] }
/-- A load form. -/
def State.load (s : State) (op : ReqOp) (spc : Space) (size : Nat) (d : Reg) (a : Src) (q : Qual) (o : Fin 64) :
    Host.Outcome State Fault Refusal :=
  let ops := Operands.forLoad spc a d size
  let k : Ask := ⟨op, q, some d, size⟩
  .next (s.laneSeq ops (acquirePre q) (fun h b s l => s.loadLane h k spc (laneEa spc a (size * o.val) b l) l) noPost)

/-! ## Stores -/

def State.storeOf (s : State) (h : Here) (p : Spot) (q : Qual) (size : Nat) (data : DWord) (lane : Fin 32) (whole : Lanes) : Store :=
  { core := h.g.core, issue := s.issues, gid := h.g.gid, bunch := s.cur.bunch, lane := lane, wholeBunch := whole, pc := s.cur.pc, sp := p.sp, q := q,
    addr := p.addr, size := size, data := data, ctx := h.l.ctx, asid := s.asidOf h.l.ctx, pa := p.pa, pte := p.pte,
    target := p.target, launch := h.l.id }
/-- A lane's store retires into the core (R192). -/
def State.storeLane (s : State) (h : Here) (q : Qual) (spc : Space) (size ea : Nat) (data : DWord) (l : Fin 32) : State × LaneOut :=
  match s.spot h s.cur.bunch l spc ea size size .store with
  | (s, .error e) => (s, outFault l e.1 e.2)
  | (s, .ok p) =>
    if s.laneHeld h.g.core h.g.gid s.cur.bunch l [p.region (s.asidOf h.l.ctx) size] then
      (s.engineWait h.g.gid s.cur.bunch l, { held := true })
    else
      let s := if p.cached && Pte.kind p.pte == .so then s.flushSo h.g.gid s.cur.bunch (laneBit l) else s
      (s.addStore (s.storeOf h p q size data l 0), {})
/-- A release at .sy waits for a store that is lost: it takes LINKTO (R288). -/
def State.lostRelease (s : State) (h : Here) (q : Qual) (l : Fin 32) : Bool :=
  q == some .sy && s.losesStore h.g.core h.g.gid s.cur.bunch l
/-- Before the stores of some lanes: the release (R178), and room in the core for the n stores of the run (R192, R306). -/
def storePre (n bi : Nat) (q : Qual) (h : Here) (b : Bunch) (lanes : Lanes) (s : State) : State :=
  State.storeRoom h.g.core n (s.stores.length + 1) (releasePre bi q h b lanes s)
/-- A store form: its data register is read, and never released (R22). -/
def State.store (s : State) (spc : Space) (size : Nat) (d : Reg) (a : Src) (q : Qual) (o : Fin 64) : Host.Outcome State Fault Refusal :=
  let ops : Operands := { reads := baseReads spc a ++ regReads d (size / 4), dests := [] }
  let data := fun (b : Bunch) l => if size = 8 then pairOf (b.val d l) (b.val (regNext d 1) l) else (b.val d l).setWidth 64
  .next (s.laneSeq ops (storePre Config.lanes s.cur.bunch q)
    (fun h b s' l => if s.lostRelease h q l then (s', outFault l Code.linkTo 0)
      else s'.storeLane h q spc size (laneEa spc a (size * o.val) b l) (data b l) l) noPost)

/-- Lane-private load. (R192) -/
def execLdN32Lp (d : Reg) (a : Src) (q : Qual) (o : Fin 64) (s : State) : Host.Outcome State Fault Refusal := s.load .load .lp 4 d a q o

/-- Load from the group's scratchpad. (R192, R144) -/
def execLdN32Sp (d : Reg) (a : Src) (q : Qual) (o : Fin 64) (s : State) : Host.Outcome State Fault Refusal := s.load .load .sp 4 d a q o

/-- Load from the cluster's scratchpads. (R192, R143) -/
def execLdN32Csm (d : Reg) (a : Src) (q : Qual) (o : Fin 64) (s : State) : Host.Outcome State Fault Refusal := s.load .load .csm 4 d a q o

/-- Load from chip scratchpad. (R192, R147) -/
def execLdN32Chs (d : Reg) (a : Src) (q : Qual) (o : Fin 64) (s : State) : Host.Outcome State Fault Refusal := s.load .load .chs 4 d a q o

/-- 32-bit global load. (R192) -/
def execLdN32Gl (d : Reg) (a : Src) (q : Qual) (o : Fin 64) (s : State) : Host.Outcome State Fault Refusal := s.load .load .gl 4 d a q o

/-- 64-bit load from the group's scratchpad. (R192) -/
def execLdN64Sp (d : Reg) (a : Src) (q : Qual) (o : Fin 64) (s : State) : Host.Outcome State Fault Refusal := s.load .load .sp 8 d a q o

/-- 64-bit global load. (R192) -/
def execLdN64Gl (d : Reg) (a : Src) (q : Qual) (o : Fin 64) (s : State) : Host.Outcome State Fault Refusal := s.load .load .gl 8 d a q o

/-- 32-bit load on the read-only path. (R196, R154) -/
def execLdroN32Gl (d : Reg) (a : Src) (o : Fin 64) (s : State) : Host.Outcome State Fault Refusal := s.load .ldro .gl 4 d a none o

/-- 64-bit load on the read-only path. (R196, R154) -/
def execLdroN64Gl (d : Reg) (a : Src) (o : Fin 64) (s : State) : Host.Outcome State Fault Refusal := s.load .ldro .gl 8 d a none o

/-- Lane-private store. (R192) -/
def execStN32Lp (d : Reg) (a : Src) (q : Qual) (o : Fin 64) (s : State) : Host.Outcome State Fault Refusal := s.store .lp 4 d a q o

/-- Store to the group's scratchpad. (R192, R144) -/
def execStN32Sp (d : Reg) (a : Src) (q : Qual) (o : Fin 64) (s : State) : Host.Outcome State Fault Refusal := s.store .sp 4 d a q o

/-- Store to the cluster's scratchpads. (R192, R143) -/
def execStN32Csm (d : Reg) (a : Src) (q : Qual) (o : Fin 64) (s : State) : Host.Outcome State Fault Refusal := s.store .csm 4 d a q o

/-- Store to chip scratchpad. (R192, R147) -/
def execStN32Chs (d : Reg) (a : Src) (q : Qual) (o : Fin 64) (s : State) : Host.Outcome State Fault Refusal := s.store .chs 4 d a q o

/-- 32-bit global store. (R192) -/
def execStN32Gl (d : Reg) (a : Src) (q : Qual) (o : Fin 64) (s : State) : Host.Outcome State Fault Refusal := s.store .gl 4 d a q o

/-- 64-bit store to the group's scratchpad. (R192) -/
def execStN64Sp (d : Reg) (a : Src) (q : Qual) (o : Fin 64) (s : State) : Host.Outcome State Fault Refusal := s.store .sp 8 d a q o

/-- 64-bit global store. (R192) -/
def execStN64Gl (d : Reg) (a : Src) (q : Qual) (o : Fin 64) (s : State) : Host.Outcome State Fault Refusal := s.store .gl 8 d a q o

/-! ## Bunch loads and stores (R139) -/

/-- The run's lowest lane stands for the run in a bunch access. -/
def State.lead (s : State) : Fin 32 := (lanesOf s.cur.run).headD 0
def State.runWaits (s : State) (h : Here) : State :=
  s.modBunch h.g.gid s.cur.bunch fun b => b.mapThreads fun l t =>
    if s.cur.run.getLsbD l.val then { t with await := .engine, heldAt := some (t.heldAt.getD s.fresh) } else t
def bunchEa (spc : Space) (b : Bunch) (a : Reg) (off : Nat) : Nat :=
  if spc == .gl then (b.spair a).toNat + off else (b.sreg a).toNat + off
def Bunch.setWords (b : Bunch) (d : Reg) (ws : List Word) : Bunch :=
  match ws with
  | [w] => b.setS d w
  | [lo, hi] => (b.setS d lo).setS (regNext d 1) hi
  | _ => b
def State.loadBunch (s : State) (spc : Space) (size : Nat) (d a : Reg) (q : Qual) (o : Fin 64) : State :=
  match s.here? with
  | none => s
  | some h =>
    let ea := bunchEa spc h.b a (size * o.val)
    match s.spot h s.cur.bunch s.lead spc ea size size .load with
    | (s, .error e) => s.bunchFault h e.1 e.2
    | (s, .ok p) =>
      if s.laneHeld h.g.core h.g.gid s.cur.bunch s.lead [p.region (s.asidOf h.l.ctx) size] then s.runWaits h
      else
        let s := (acquirePre q h h.b s.cur.run s).settleOwn h s.cur.bunch s.cur.run p
        match s.valueNow h p false size with
        | (s, some v) =>
          if v.2 then s.bunchFault h Code.poison p.addr
          else s.modBunch h.g.gid s.cur.bunch fun b => (b.setWords d (bytesWords v.1)).jumpLanes s.cur.run fun _ => s.cur.next
        | (s, none) => s.sendReq h ⟨.load, q, some d, size⟩ p true ⟨s.lead, p.addr, p.pa, p.pte, [], []⟩
/-- A bunch store. DESIGN CHOICE (log 46): its address faults come before the LINKTO of a release behind a lost store. -/
def State.storeBunch (s : State) (spc : Space) (size : Nat) (d a : Reg) (q : Qual) (o : Fin 64) : State :=
  match s.here? with
  | none => s
  | some h =>
    let ea := bunchEa spc h.b a (size * o.val)
    match s.spot h s.cur.bunch s.lead spc ea size size .store with
    | (s, .error e) => s.bunchFault h e.1 e.2
    | (s, .ok p) =>
      if s.laneHeld h.g.core h.g.gid s.cur.bunch s.lead [p.region (s.asidOf h.l.ctx) size] then s.runWaits h
      else if (lanesOf s.cur.run).any fun l => s.lostRelease h q l then s.bunchFault h Code.linkTo 0
      else
        let s := storePre 1 s.cur.bunch q h h.b s.cur.run s
        let s := if p.cached && Pte.kind p.pte == .so then s.flushSo h.g.gid s.cur.bunch s.cur.run else s
        let data := if size = 8 then h.b.spair d else (h.b.sreg d).setWidth 64
        (s.addStore (s.storeOf h p q size data s.lead s.cur.run)).modBunch h.g.gid s.cur.bunch fun b =>
          b.jumpLanes s.cur.run fun _ => s.cur.next

/-- One global load for the run. (R139) -/
def execLdN32GlBunch (d a : Reg) (q : Qual) (o : Fin 64) (s : State) : Host.Outcome State Fault Refusal := .next (s.loadBunch .gl 4 d a q o)

/-- One 64-bit global load for the run. (R139) -/
def execLdN64GlBunch (d a : Reg) (q : Qual) (o : Fin 64) (s : State) : Host.Outcome State Fault Refusal := .next (s.loadBunch .gl 8 d a q o)

/-- One global store for the run. (R139) -/
def execStN32GlBunch (d a : Reg) (q : Qual) (o : Fin 64) (s : State) : Host.Outcome State Fault Refusal := .next (s.storeBunch .gl 4 d a q o)

/-- One 64-bit global store for the run. (R139) -/
def execStN64GlBunch (d a : Reg) (q : Qual) (o : Fin 64) (s : State) : Host.Outcome State Fault Refusal := .next (s.storeBunch .gl 8 d a q o)

/-- One chip scratchpad load for the run. (R139) -/
def execLdN32ChsBunch (d a : Reg) (q : Qual) (o : Fin 64) (s : State) : Host.Outcome State Fault Refusal := .next (s.loadBunch .chs 4 d a q o)

/-- One chip scratchpad store for the run. (R139) -/
def execStN32ChsBunch (d a : Reg) (q : Qual) (o : Fin 64) (s : State) : Host.Outcome State Fault Refusal := .next (s.storeBunch .chs 4 d a q o)

/-- One scratchpad load for the run. (R139) -/
def execLdN32SpBunch (d a : Reg) (q : Qual) (o : Fin 64) (s : State) : Host.Outcome State Fault Refusal := .next (s.loadBunch .sp 4 d a q o)

/-- One scratchpad store for the run. (R139) -/
def execStN32SpBunch (d a : Reg) (q : Qual) (o : Fin 64) (s : State) : Host.Outcome State Fault Refusal := .next (s.storeBunch .sp 4 d a q o)

/-! ## Atomics (R197 to R202) -/

/-- Whether the window takes the atomic (R200, R273): the root port completes it, for the non-coherent host. -/
def State.atomTaken (s : State) (pa : Nat) (op : ReqOp) (size : Nat) : Bool :=
  match windowOf pa with
  | .device => false
  | .hostPcie =>
    (match op with
     | .cas128 => s.dev.rpcap.getLsbD 6
     | .atom 0 => s.dev.rpcap.getLsbD (if size = 8 then 1 else 0)
     | .atom 8 => s.dev.rpcap.getLsbD (if size = 8 then 3 else 2)
     | .atom 9 => s.dev.rpcap.getLsbD (if size = 8 then 5 else 4)
     | _ => false)
  | _ => true
/-- The core's earlier stores to a block are performed, and its copies of the grain go, before an atomic leaves (R152). -/
def State.atomLeaves (s : State) (h : Here) (p : Spot) (n : Nat) : State :=
  (s.performStores fun x => x.core == h.g.core && x.cached && x.pa / 512 == p.pa / 512).dropOwn h.g.core p.pa n p.pte
/-- An update in a scratchpad or window (R199): old words where a result is wanted. -/
def State.atomPad (s : State) (gid bi : Nat) (pc : DWord) (op : ReqOp) (size : Nat) (ret : Bool) (p : Spot) (l : Fin 32)
    (b c : List Word) : State × LaneOut :=
  let old := s.padRead p size
  if old.2 then s.atomPoison gid bi pc l ret p.off p.addr
  else
    let s := match atomBytes op size old.1 b c with | some n => s.padWrite p n | none => s
    (s, { vals := if ret then bytesWords old.1 else [] })
/-- The physical address behind which an access has been refused, for the log. -/
def State.refusedAt (s : State) (h : Here) (a : DWord) : Nat :=
  match (s.pageOf h.g.core h.l.ctx a.toNat).2 with
  | .ok l => Pte.pa l.pte + (a.toNat - l.base)
  | .error _ => 0
/-- A lane's atomic: checked, then applied in its scratchpad or sent to its home point (R198 to R201). -/
def State.atomLane (s : State) (h : Here) (k : Ask) (spc : Space) (ea : Nat) (b c : List Word) (l : Fin 32) : State × LaneOut :=
  match s.spot h s.cur.bunch l spc ea k.size k.size .atomic with
  | (s, .error e) =>
    if e.1 = Code.linkTo then
      (s.log { s.logOf h.g s.cur.bunch (laneBit l) with kind := 4, code := e.1, addr := BitVec.ofNat 64 (s.refusedAt h e.2), pc := s.cur.pc },
        outFault l e.1 e.2)
    else (s, outFault l e.1 e.2)
  | (s, .ok p) =>
    if p.cached && !s.atomTaken p.pa k.op k.size then (s, outFault l Code.atomSup p.addr)
    else if s.laneHeld h.g.core h.g.gid s.cur.bunch l [p.region (s.asidOf h.l.ctx) k.size] then
      (s.engineWait h.g.gid s.cur.bunch l, { held := true })
    else if p.cached then
      let s := if Pte.kind p.pte == .so then s.flushSo h.g.gid s.cur.bunch (laneBit l) else s
      ((s.atomLeaves h p k.size).sendReq h k p false ⟨l, p.addr, p.pa, p.pte, b, c⟩, { held := true })
    else
      let q := p.place h.l.id
      let s := (s.performStores fun x => x.place == q || (k.size == 16 && x.place == (q.1, q.2.1, q.2.2 + 1))).drainTo fun gid => p.sp == .csm && gid == p.target
      if p.remote h.g then (s.sendReq h k p false ⟨l, p.addr, 0, 0, b, c⟩, { held := true })
      else s.atomPad h.g.gid s.cur.bunch s.cur.pc k.op k.size k.vd.isSome p l b c
def ASpace.space (x : ASpace) : Space := match x with | .gl => .gl | .sp => .sp | .csm => .csm | .chs => .chs
/-- Words of a source field, of an own field. -/
def srcWords (a : Src) (n : Nat) (b : Bunch) (l : Fin 32) : List Word := (List.range n).map fun k => b.val (regNext a.reg k) (patLane a.pat l)
def ownWords (a : Own) (n : Nat) (b : Bunch) (l : Fin 32) : List Word := (List.range n).map fun k => b.val (regNext a.reg k) l
def atomDests (d : Reg) (ret : Bool) (n : Nat) : List Reg := if ret then (List.range n).map (regNext d) else []
/-- An atomic form. Before the atomics of a run comes the release (R178); the acquire's SI action follows the value (R178,
R273). -/
def State.atomForm (s : State) (op : ReqOp) (n : Nat) (d : Reg) (ret : Bool) (a : Src) (spc : Space) (q : Qual) (rb rc : List Read)
    (b c : Bunch → Fin 32 → List Word) : Host.Outcome State Fault Refusal :=
  let ops : Operands := { reads := baseReads spc a ++ rb ++ rc, dests := atomDests d ret n }
  let k : Ask := ⟨op, q, if ret then some d else none, 4 * n⟩
  .next (s.laneSeq ops (releasePre s.cur.bunch q)
    (fun h x s' l => if s.lostRelease h q l then (s', outFault l Code.linkTo 0) else
      let r := s'.atomLane h k spc (laneEa spc a 0 x l) (b x l) (c x l) l
      if r.2.held || r.2.fault.isSome then r else (r.1.afterAcquire h.g.core (r.1.asidOf h.l.ctx) q, r.2)) noPost)
/-- An ATOM form (R197). -/
def State.atom (s : State) (code : Nat) (x : AtomOp) : Host.Outcome State Fault Refusal :=
  let n := if x.w64 then 2 else 1
  s.atomForm (.atom code) n x.d x.ret x.a (ASpace.space x.sp) x.q (srcReads x.b n) [] (srcWords x.b n) fun _ _ => []

/-- Atomic add, returning the old value where RET is set. (R198) -/
def execAtadd (x : AtomOp) (s : State) : Host.Outcome State Fault Refusal := s.atom 0 x

/-- Atomic bitwise and. (R198) -/
def execAtand (x : AtomOp) (s : State) : Host.Outcome State Fault Refusal := s.atom 1 x

/-- Atomic bitwise or. (R198) -/
def execAtor (x : AtomOp) (s : State) : Host.Outcome State Fault Refusal := s.atom 2 x

/-- Atomic bitwise exclusive or. (R198) -/
def execAtxor (x : AtomOp) (s : State) : Host.Outcome State Fault Refusal := s.atom 3 x

/-- Atomic signed minimum. (R198) -/
def execAtminI (x : AtomOp) (s : State) : Host.Outcome State Fault Refusal := s.atom 4 x

/-- Atomic unsigned minimum. (R198) -/
def execAtminN (x : AtomOp) (s : State) : Host.Outcome State Fault Refusal := s.atom 5 x

/-- Atomic signed maximum. (R198) -/
def execAtmaxI (x : AtomOp) (s : State) : Host.Outcome State Fault Refusal := s.atom 6 x

/-- Atomic unsigned maximum. (R198) -/
def execAtmaxN (x : AtomOp) (s : State) : Host.Outcome State Fault Refusal := s.atom 7 x

/-- Atomic exchange. (R198) -/
def execAtxch (x : AtomOp) (s : State) : Host.Outcome State Fault Refusal := s.atom 8 x

/-- Atomic compare and swap. (R198) -/
def execAtcas (x : AtomOp) (c : Own) (s : State) : Host.Outcome State Fault Refusal :=
  let n := if x.w64 then 2 else 1
  s.atomForm (.atom 9) n x.d x.ret x.a (ASpace.space x.sp) x.q (srcReads x.b n) (ownReads c n) (srcWords x.b n) (ownWords c n)

/-- Atomic FP32 add, to nearest even. (R198) -/
def execAtfadd (x : AtomOp) (s : State) : Host.Outcome State Fault Refusal := s.atom 10 x

/-- Compare and swap of 16 bytes. (R201) -/
def execCas128 (x : Cas128Op) (s : State) : Host.Outcome State Fault Refusal :=
  s.atomForm .cas128 4 x.d x.ret x.a (ASpace.space x.sp) x.q (ownReads x.b 4) (ownReads x.c 4) (ownWords x.b 4) (ownWords x.c 4)

/-! ## Fences (R142, R180, R203, R204) -/

/-- A fence of the executing lanes: their stores are performed (those of UO pages only where asked, R179), with the SI actions
of its scope, once for the run. -/
def State.fence (s : State) (sc : Scope) (uo acquire : Bool) : Host.Outcome State Fault Refusal :=
  .next (s.laneSeq (opsD [])
    (fun h _ lanes s =>
      if lanes = 0 then s
      else
        let s := s.flushAll h.g.gid s.cur.bunch lanes uo
        let s := if Scope.wide sc then s.siRelease h.g.core else s
        if acquire then s.afterAcquire h.g.core (s.asidOf h.l.ctx) (some sc) else s)
    (fun _ _ s _ => (s, {})) noPost)

/-- Earlier RC and SO accesses are performed at the scope before later ones. (R180, R204) -/
def execFence (sc : Scope) (s : State) : Host.Outcome State Fault Refusal := s.fence sc false true

/-- Every earlier access is performed at .sy before any later one. (R180, R204) -/
def execFenceAll (s : State) : Host.Outcome State Fault Refusal := s.fence .sy true true

/-- Earlier accesses are performed at the scope before later pushes; no acquire. (R142) -/
def execFencePort (sc : Scope) (s : State) : Host.Outcome State Fault Refusal := s.fence sc false false

/-- The read-only sectors of the context leave the core's L1; what the lanes issued before is performed first. (R185) DESIGN CHOICE
(log 81): those stores, which later LDROs must follow, are performed here, and so come before later accesses of any kind. -/
def execAcqRo (s : State) : Host.Outcome State Fault Refusal :=
  .next (s.laneSeq (opsD [])
    (fun h _ lanes s =>
      if lanes = 0 then s else (s.flushAll h.g.gid s.cur.bunch lanes true).dropRo h.g.core (s.asidOf h.l.ctx))
    (fun _ _ s _ => (s, {})) noPost)

/-! ## Answers (R83, R145, R192, R199, R298, R312) -/

def Pend.dests (p : Pend) : List Reg :=
  match p.vd with
  | some d => (List.range (p.size / 4)).map (regNext d)
  | none => []
def Pend.mask (p : Pend) : Lanes := if p.scalar then p.run else lanesFrom (p.outs.map fun x => x.1)
/-- ACC.LD writes its accumulator (R261) and clears its marks (R258); other requests write registers alone. -/
def answerPost (op : ReqOp) (out : Fin 32 → LaneOut) (good : Lanes) (b : Bunch) : Bunch :=
  match op with
  | .acc k => b.mapThreads fun l t =>
      if good.getLsbD l.val then { t with acc := t.acc.set k.val ⟨Vector.ofFn fun c : Fin 16 => (out l).vals.getD c.val 0, 0⟩ } else t
  | _ => b
/-- The instruction retires in the lanes of its run, all at once (R83): values, counters, then faults in ascending lane
order (R312). -/
def State.finishRun (s : State) (h : Here) (p : Pend) : Except SpillFail State :=
  let out := outcomeIn p.outs
  match land (s.regCtx h p.bunch p.keep) p.id (s.goodLanes out) (s.writers out) p.dests (fun l => (out l).vals) s h.b with
  | .error e => .error e
  | .ok (s2, b2) => .ok (s.retireLanes h s2 b2 out false (answerPost p.op) noGpost)
/-- A bunch access retires for its run (R139). -/
def State.finishBunch (s : State) (h : Here) (p : Pend) : State :=
  match p.outs.head? with
  | some x =>
    match x.2.fault with
    | some f => s.bunchFault h f.code f.addr
    | none => s.modBunch p.gid p.bunch fun b => (b.setWords (p.vd.getD 0) x.2.vals).jumpLanes p.run fun _ => p.next
  | none => s
/-- The counters of the run's lanes once it has retired (R327): none for a lane that an engine still holds. -/
def State.splitAfter (s : State) (p : Pend) : State :=
  match s.group? p.gid with
  | none => s
  | some g => s.traceSplit g p.bunch p.run 0xFFFFFFFF
      (fun l => if p.mask.getLsbD l.val then (s.thread? p.gid p.bunch l).map fun t => t.pc
        else if p.exec.getLsbD l.val then none else some p.next) p.pc
/-- A watched grain (R166, R209), and what WATCH keeps of it until the run retires: address, physical address and entry. -/
def watchOf (asid : Nat) (addr : DWord) (pte : Pte) : Watch := ⟨addr.toNat / Pte.grain pte * Pte.grain pte, asid, Pte.grain pte⟩
def watchWords (addr : DWord) (pa : Nat) (pte : Pte) : List Word :=
  [lowWord addr, highWord addr, lowWord (BitVec.ofNat 64 pa), highWord (BitVec.ofNat 64 pa), lowWord pte, highWord pte]
def watchedAt (ws : List Word) : Option (DWord × Xl) :=
  match ws with
  | [a0, a1, p0, p1, e0, e1] => some (pairOf a0 a1, ⟨(pairOf p0 p1).toNat, pairOf e0 e1⟩)
  | _ => none
/-- Lanes are armed on the grains their outcomes name, replacing earlier watches. -/
def watchPost (asid : Nat) (out : Fin 32 → LaneOut) (good : Lanes) (b : Bunch) : Bunch :=
  b.mapThreads fun l t =>
    match (if good.getLsbD l.val then watchedAt (out l).vals else none) with
    | some x => { t with watch := some (watchOf asid x.1 x.2.pte) }
    | none => t
/-- A WATCH retires: a grain that an invalidation took before is filled afresh, which is no event, then the lanes are armed; one
that the other lanes' fills have evicted again fires EVC (R209, R210). -/
def State.armWatches (s : State) (core asid : Nat) (p : Pend) : State :=
  let todo := p.outs.filterMap fun x => if x.2.fault.isNone then (watchedAt x.2.vals).map fun w => (x.1, w.1, w.2) else none
  let held := fun (s : State) (a : DWord) (x : Xl) =>
    (s.block? core asid a.toNat).any fun b => b.pb == x.pa / 512 && b.hit (a.toNat % 512) 4
  let s := todo.foldl (fun s x => if held s x.2.1 x.2.2 then s else s.l1Fill core asid x.2.1.toNat x.2.2 4 false) s
  let s := s.modBunch p.gid p.bunch (watchPost asid (outcomeIn p.outs) (lanesFrom (todo.map fun x => x.1)))
  todo.foldl (fun s x =>
    if held s x.2.1 x.2.2 then s else s.modThread p.gid p.bunch x.1 fun t => { t.wake wEvc with watch := none }) s
/-- Every answer is there: the instruction retires. Where a slot that it needs for a spill lies on a page on the move, it waits
for the page (R93, R289). -/
def State.finish (s : State) (p : Pend) : State :=
  let m := p.mask
  let t := { s with
    pends := s.pends.filter fun x => !x.is p.id p.gid p.bunch
    cur := ⟨p.gid, p.bunch, m, m, p.pc, p.pc, p.next⟩ }
  let t := t.modBunch p.gid p.bunch fun b => b.mapThreads fun l x => if m.getLsbD l.val then { x with await := .none } else x
  match t.here? with
  | none => { t with cur := s.cur }
  | some h =>
    if p.scalar then
      let t := t.modBunch p.gid p.bunch fun b => b.mapThreads fun _ x => if x.await == .operand p.id then { x with await := .none } else x
      { (t.finishBunch h p).splitAfter p with cur := s.cur }
    else match t.finishRun h p with
      | .ok u =>
        let u := if p.op = .watch then u.armWatches h.g.core (u.asidOf h.l.ctx) p else u
        { u.splitAfter p with cur := s.cur }
      | .error e =>
        if s.meetsMove h.g e.1 e.2 then s
        else { (t.spillHalt h p.bunch p.pc m e).modBunch p.gid p.bunch (fun b => b.landed p.id) with cur := s.cur }
/-- A request ends with its lanes' outcomes; with the last of its instruction, that retires. -/
def State.answer (s : State) (r : Req) (outs : List (Fin 32 × LaneOut)) : State :=
  let got := lanesFrom (outs.map fun x => x.1)
  let s := { s with
    reqs := s.reqs.filter fun x => x.id != r.id
    pends := s.pends.map fun (p : Pend) =>
      if p.is r.pend r.gid r.bunch then { p with waiting := p.waiting &&& ~~~ got, outs := p.outs ++ outs } else p }
  match s.pends.find? fun p => p.is r.pend r.gid r.bunch && p.waiting == 0 with
  | some p => s.finish p
  | none => s
/-- The answer of a load (R192), of a WATCH's fill (R209): what held the line has ended, and every request that the slice has
taken before has its values (R164). -/
def State.loadReturn (s : State) (r : Req) : State :=
  let s := State.openBlock r.blk (s.reqs.length + 1) s
  match r.op with
  | .watch =>
    let o := actReq (fun s x =>
      if s.linkDown x.pa then (s, outFault x.lane Code.linkTo x.addr)
      else (s.l1Fill r.core r.asid x.addr.toNat ⟨x.pa, x.pte⟩ r.size false, { vals := watchWords x.addr x.pa x.pte })) r.lanes s []
    o.1.answer r o.2
  | _ =>
    let s := match s.reqs.find? fun x => x.id == r.id with | some x => s.takeLoad x | none => s
    match (s.reqs.find? fun x => x.id == r.id).bind fun x => x.applied with
    | some outs => s.answer r outs
    | none => s
/-- A run's atomic request on a block is applied and answered, after those its slice has taken before (R152, R164, R199); behind
links that are down it is not reached (R274). -/
def State.atomicApply (s : State) (r : Req) : State :=
  let s := (s.serveAll (s.before r)).applyReq ((s.reqs.find? fun x => x.id == r.id).getD r)
  match (s.reqs.find? fun x => x.id == r.id).bind fun x => x.applied with
  | some outs => (s.afterAcquire r.core r.asid r.q).answer r outs
  | none => s
/-- A remote .csm access reaches its core (R145). Of a group that has left a store is discarded and a load returns 0; an atomic
is discarded and returns 0 where it wants a result (log 24). -/
def State.csmArrive (s : State) (m : CsmAccess) : State :=
  if !m.stores.isEmpty then (s.applyCsm m).reap
  else
    match s.reqs.find? fun r => r.id == m.req with
    | none => s
    | some r =>
      let here := (s.group? m.gid).any fun g => !g.left
      let p := fun (x : ReqLane) => (⟨.csm, x.addr, 0, 0, m.gid, m.core⟩ : Spot)
      let zero : LaneOut := { vals := if r.ret then List.replicate (r.size / 4) 0 else [] }
      let s := if r.op.isAtomic then s else s.afterAcquire r.core r.asid r.q
      let o := actReq (fun s x =>
        if !here then (s, zero)
        else if r.op.isAtomic then s.atomPad r.gid r.bunch r.pc r.op r.size r.ret (p x) x.lane x.b x.c
        else
          let v := s.padRead (p x) r.size
          (s, if v.2 then outFault x.lane Code.poison x.addr else { vals := bytesWords v.1 })) r.lanes s []
      let s := if r.op.isAtomic then o.1.afterAcquire r.core r.asid r.q else o.1
      (s.answer r o.2).reap

end Sys2Proof.Machine
end

