-- ==== Sys2Proof/Machine/Sync.lean ====
section
/-! DEFINITION. Machine/Sync.lean: named barriers (R72 to R75, R205, R206), the barrier tree (R76, R77, R207), SYNC
(R78, R79, R208), WATCH and DOZE (R67 to R71, R209 to R211). -/

namespace Sys2Proof.Machine

def Lanes.count (m : Lanes) : Nat := (lanesOf m).length
/-- Every executing lane takes a fault of the whole run, before any register is read, and nothing else happens (R72, R146). -/
def State.execFault (s : State) (code : Nat) : State :=
  s.laneOp (opsD []) (fun _ _ => []) (fun _ l => outFault l code 0) noPost noGpost
/-- The group is still running. -/
def State.goesOn (s : State) (gid : Nat) : Bool := (s.group? gid).any fun g => g.halted.isNone
def phaseWord (p : Bool) : Word := if p then 1 else 0
/-- An arrival of the run: each executing lane gets the phase arrived in, then the arrival counts. One whose register's storage
cannot be had does not count (R84, R93). -/
def State.arrives (s : State) (d : Reg) (phase : Bool) (count : Here → State → State) : State :=
  match s.here? with
  | none => s
  | some h =>
    match s.laneTry h laneOut (opsD [d]) (fun _ _ => []) (fun _ _ => outWord (phaseWord phase)) noPost noGpost with
    | .error e => s.spillHalt h s.cur.bunch s.cur.pc s.cur.exec e
    | .ok t => count h t
/-- A counter for every lane. -/
def State.curPc (s : State) : Fin 32 → DWord := fun _ => s.cur.pc

/-! ## Named barriers -/

/-- The run's threads count at a barrier, which then stands as given (R73). -/
def State.barCounts (s : State) (h : Here) (b : Fin 48) (n : Bar) (flip : Bool) (phase : Bool) : State :=
  let s := s.trace h.g s.cur.bunch s.cur.exec 3 b.val phase false 0xFFFFFFFF s.curPc
  let s := if flip then
      (match s.group? h.g.gid with
       | some g => s.traceRelease g b.val n.phase false (armedOn b.val ((g.bars[b.val]?).elim 0 fun x => x.waiters))
       | none => s)
    else s
  s.modGroup h.g.gid fun g =>
    let g := if flip then g.flipWake b.val ((g.bars[b.val]?).elim 0 fun x => x.waiters) else g
    { g with bars := g.bars.set b.val n }

/-- The run arrives on a barrier, once its earlier accesses are performed at .gp; each executing lane gets the phase
arrived in. (R73, R206) -/
def execBarArr (d : Reg) (b : Fin 48) (s : State) : Host.Outcome State Fault Refusal :=
  match s.here? with
  | none => .next s
  | some h =>
    if s.cur.exec = 0 then .next (s.laneOp (opsD [d]) (fun _ _ => []) (fun _ _ => {}) noPost noGpost)
    else
      match h.g.bars[b.val]? with
      | none => .next (s.execFault Code.barRange)
      | some x =>
        match x.arrive (Lanes.count s.cur.exec) with
        | none => .next (s.execFault Code.barOver)
        | some (n, flip) =>
          .next ((s.flush h.g.gid s.cur.bunch s.cur.exec).arrives d x.phase fun h t => t.barCounts h b n flip x.phase)

/-- Tests a barrier's phase against va[0] per lane; a thread that finds it unflipped is armed. (R73, R206) -/
def execBarTst (m : Mask) (a : Src) (b : Fin 48) (s : State) : Host.Outcome State Fault Refusal :=
  match s.here? with
  | none => .next s
  | some h =>
    let free := fun (out : Fin 32 → LaneOut) l => (out l).vals.headD 0 == 0
    match h.g.bars[b.val]? with
    | none => .next (s.execFault Code.barRange)
    | some y =>
      .next (s.laneOp { reads := srcReads a 1, dests := [] } (fun _ _ => [])
        (fun x l => outBit (y.phase != (srcWord a x l).getLsbD 0) 0)
        (fun out good x => (maskPost m out good x).mapThreads fun l t =>
          if good.getLsbD l.val && free out l then { t with armedBar := some b } else t)
        (fun out good g =>
          if (lanesOf good).any fun l => free out l then
            { g with bars := g.bars.modify b.val fun y => { y with waiters := y.waiters ||| slotBit h.b } }
          else g))

/-- Sets a barrier's count from the lowest executing lane; a count that is not allowed faults in every executing lane. (R73, R206)
DESIGN CHOICE (log 72): where the lowest lane itself traps on a released copy, it takes STALE, and the others find the count 0
that such a copy reads as. -/
def execBarCnt (a : Src) (b : Fin 48) (s : State) : Host.Outcome State Fault Refusal :=
  match s.here? with
  | none => .next s
  | some h =>
    let lead := (lanesOf s.cur.exec).headD 0
    let ok := fun (x : Bar) (c : Word) => decide (1 ≤ c.toNat) && decide (c.toNat ≤ h.l.hdr.t) && x.arrived == 0
    match h.g.bars[b.val]? with
    | none => .next (s.execFault Code.barRange)
    | some x =>
      .next (s.orHalt h (s.laneTry h (fun h bi y rs r l => if l = lead then laneOut h bi y rs r l else laneOutLate h bi y rs r l)
        { reads := srcReads a 1, dests := [] } (fun _ _ => [])
        (fun y l => if ok x (srcWord a y lead) then outWord (srcWord a y lead) else outFault l Code.barCount 0)
        noPost
        (fun out good g =>
          match (lanesOf good).head? with
          | some l => { g with bars := g.bars.modify b.val fun x => { x with count := ((out l).vals.headD 0).toNat } }
          | none => g)))

/-! ## The barrier tree -/

/-- The run's threads count on a tag at their core; a core whose count is full sends (R76). -/
def State.treeCounts (s : State) (h : Here) (t : Fin 8) (n : TreeCore) (phase : Bool) : State :=
  let s := s.trace h.g s.cur.bunch s.cur.exec 3 t.val phase true 0xFFFFFFFF s.curPc
  let s := s.modLaunch h.l.id fun l => l.setTree n
  let s := s.modBunch h.g.gid s.cur.bunch fun b => b.mapThreads fun l x =>
    if s.cur.exec.getLsbD l.val then { x with treeArr := x.treeArr ||| (1#8 <<< t.val) } else x
  if n.sent then s.treeCheck h.l.id t h.g.core else s
/-- A launch's state of a configured tag at the core (R76). -/
def tagAt (h : Here) (t : Fin 8) : Option TreeCore := if h.l.hdr.span t.val = 0 then none else h.l.treeAt h.g.core t

/-- The run arrives on a tag once its earlier accesses are performed at the tag's scope. (R76, R77, R207) -/
def execTreeArr (d : Reg) (t : Fin 8) (s : State) : Host.Outcome State Fault Refusal :=
  match s.here? with
  | none => .next s
  | some h =>
    if s.cur.exec = 0 then .next (s.laneOp (opsD [d]) (fun _ _ => []) (fun _ _ => {}) noPost noGpost)
    else
      match tagAt h t with
      | none => .next (s.execFault Code.treeTag)
      | some x =>
        match x.arrive (Lanes.count s.cur.exec) with
        | none => .next (s.execFault Code.treeOver)
        | some n =>
          .next ((s.releaseOf h.g.gid s.cur.bunch h.g.core s.cur.exec true).arrives d x.phase fun h y => y.treeCounts h t n x.phase)

/-- Tests a tag's phase at the core per lane; an unreleased thread is armed, a released one acquires. (R76, R77, R207) -/
def execTreeTst (m : Mask) (a : Src) (t : Fin 8) (s : State) : Host.Outcome State Fault Refusal :=
  match s.here? with
  | none => .next s
  | some h =>
    let o : Operands := { reads := srcReads a 1, dests := [] }
    let free := fun (out : Fin 32 → LaneOut) l => (out l).vals.headD 0 == 0
    match tagAt h t, s.openOp h o with
    | none, _ => .next (s.execFault Code.treeTag)
    | some _, .error e => .next (s.spillHalt h s.cur.bunch s.cur.pc s.cur.exec e)
    | some x, .ok (s1, b1) =>
      let out := fun l => laneOut h s.cur.bunch b1 o.reads (outBit (x.phase != (srcWord a b1 l).getLsbD 0) 0) l
      let held := laneSet fun l => (s.goodLanes out).getLsbD l.val && free out l
      let r := s.closeTry h o s1 b1 out (anyStale b1 o.reads s.cur.exec)
        (fun out good b => (maskPost m out good b).mapThreads fun l x =>
          if good.getLsbD l.val && free out l then { x with armedTag := some t } else x) noGpost
      match r with
      | .error e => .next (s.spillHalt h s.cur.bunch s.cur.pc s.cur.exec e)
      | .ok s' =>
        let s' := if s.goodLanes out &&& ~~~ held = 0 then s' else s'.siAcquire h.g.core (s'.asidOf h.l.ctx)
        if held = 0 then .next s'
        else .next (s'.modLaunch h.l.id fun l =>
          match l.treeAt h.g.core t with
          | some x => l.setTree { x with waiters := x.waiters ||| slotBit h.b }
          | none => l)

/-! ## SYNC -/

/-- Members of a mask that the run lacks: lanes the group has whose threads live (R78). -/
def syncOk (b : Bunch) (exec mask : Lanes) : Bool := (mask &&& b.liveLanes &&& ~~~ exec) == 0
/-- Every participant names itself, and all name one mask (R79). -/
def syncAgree (exec : Lanes) (v : Fin 32 → Word) : Bool :=
  let m := v ((lanesOf exec).headD 0)
  (lanesOf exec).all fun l => v l == m && m.getLsbD l.val

/-- Succeeds where every living member of the mask is in the issued run; success orders the members' accesses at .bn.
(R78, R79, R208) DESIGN CHOICE (log 79): a lane whose copy of the mask traps as released still takes part, with the mask 0 that such
a copy reads as, and so the others take SYNCMASK. -/
def execSync (m : Mask) (a : Src) (s : State) : Host.Outcome State Fault Refusal :=
  .next (s.laneSeq { reads := srcReads a 1, dests := [] }
    (fun h b lanes s =>
      let v := srcWord a b
      if lanes != 0 && syncAgree s.cur.exec v && syncOk b s.cur.exec (v ((lanesOf s.cur.exec).headD 0)) then
        s.flush h.g.gid s.cur.bunch s.cur.exec
      else s)
    (fun _ b s l =>
      let v := srcWord a b
      if syncAgree s.cur.exec v then (s, outBit (syncOk b s.cur.exec (v l)) 0) else (s, outFault l Code.syncMask 0))
    (maskPost m))

/-! ## WATCH and DOZE -/

/-- A lane asks for the grain it is to watch where it is not in the L1; of a UC page it watches nothing, and EVC is pending
(R209). -/
def State.watchLane (s : State) (h : Here) (k : Ask) (ea : Nat) (l : Fin 32) : State × LaneOut :=
  match s.spot h s.cur.bunch l .gl ea 4 4 .load with
  | (s, .error e) => (s, outFault l e.1 e.2)
  | (s, .ok p) =>
    if Pte.coh p.pte == .uc then
      (s.modThread h.g.gid s.cur.bunch l fun t => { t.wake wEvc with watch := none }, {})
    else
      match s.block? h.g.core (s.asidOf h.l.ctx) ea with
      | some b =>
        if b.pb == p.pa / 512 && b.hit (p.pa % 512) 4 then
          (s, { vals := watchWords p.addr p.pa p.pte })
        else (s.sendReq h k p false ⟨l, p.addr, p.pa, p.pte, [], []⟩, { held := true })
      | none => (s.sendReq h k p false ⟨l, p.addr, p.pa, p.pte, [], []⟩, { held := true })

/-- Arms each executing lane on the grain that holds its address, once the grains of all are in the L1. (R209) -/
def execWatch (a : Src) (o : Fin 64) (s : State) : Host.Outcome State Fault Refusal :=
  let ops : Operands := { reads := srcReads a 2, dests := [] }
  let asid := match s.here? with | some h => s.asidOf h.l.ctx | none => 0
  .next (s.laneSeq ops noPre
    (fun h b s l => s.watchLane h ⟨.watch, none, none, 4⟩ (laneEa .gl a (4 * o.val) b l) l) (watchPost asid))

/-- A DOZE with an event pending reports it at once and clears it; else the thread dozes (R67, R69). -/
def Thread.doze (t : Thread) (deadline : Nat) (d : Reg) (pc : DWord) (issue : Nat) : Thread :=
  if t.pend = 0 then { t with st := .dozing deadline d pc issue } else { t with pend := 0 }
/-- Storage for the reason codes of lanes that doze is had at issue (R84, R90, log 35). -/
def State.dozeRoom (s : State) (d : Reg) (m : Lanes) : Except SpillFail State :=
  match s.here? with
  | none => .ok s
  | some h =>
    if m = 0 then .ok s
    else match takeOff (s.regCtx h s.cur.bunch [d]) s.issues true m [] [d] s h.b with
      | .error e => .error e
      | .ok (s, b) => .ok (s.putBunch h.g.gid s.cur.bunch b)

/-- Each executing lane dozes until an armed event or for n cycles, or retires at once where an event is pending. (R67,
R211) -/
def execDoze (d : Reg) (imm : Word) (s : State) : Host.Outcome State Fault Refusal :=
  match s.here? with
  | none => .next s
  | some h =>
    let sleep := laneSet fun l => s.cur.exec.getLsbD l.val && h.b.threads[l].pend == 0
    let r := s.laneTry h laneOut (opsD [d]) (fun _ _ => [])
      (fun b l => { vals := [b.threads[l].pend.setWidth 32], skip := b.threads[l].pend == 0 })
      (fun _ good b => b.mapThreads fun l t =>
        if good.getLsbD l.val then t.doze (s.clock + imm.toNat) d s.cur.pc s.issues else t) noGpost
    .next (s.orHalt h (match r with | .error e => .error e | .ok t => t.dozeRoom d sleep))

/-- The deadline of a doze has passed (R67). -/
def Thread.expired (t : Thread) (clock : Nat) : Bool := match t.st with | .dozing n _ _ _ => decide (n ≤ clock) | _ => false
/-- The events that the end of a doze reports (R69). -/
def Thread.reasons (t : Thread) (clock : Nat) : BitVec 8 := if t.expired clock then t.pend ||| wExp else t.pend
/-- The dozes of some threads of a bunch, of one issued run, end: each writes its reason code and clears the bits it reports
(R67, R69). Where the write's spill fails the DOZE has no effect (R93); where its slot lies on a page on the move, the threads
meet their DOZE again, with their events pending (R289). -/
def State.endDoze (s : State) (gid bi : Nat) (d : Reg) (pc : DWord) (issue : Nat) (m : Lanes) : State :=
  match s.hereOf gid bi with
  | none => s
  | some h =>
    let each := fun (s : State) (f : Thread → Thread) =>
      s.modBunch gid bi fun b => b.mapThreads fun l t => if m.getLsbD l.val then f t else t
    let landed := fun (s : State) => s.modBunch gid bi fun b => b.landedIn issue m
    match landReg { s.regCtx h bi [d] with pc := pc, exec := m } (h.b.flight issue) s h.b d m
        (fun l => (h.b.threads[l].reasons s.clock).setWidth 32) with
    | .error e =>
      if s.meetsMove h.g e.1 e.2 then landed (each s fun t => { t with st := .moved e.2, pc := pc, pend := t.reasons s.clock })
      else (landed (each s fun t => { t with st := .running, pc := pc, pend := t.reasons s.clock })).spillHalt h bi pc m e
    | .ok (s, b) => landed (each (s.putBunch gid bi b) fun t => { t with st := .running, pend := 0 })

end Sys2Proof.Machine
end

