-- ==== Sys2Proof/Machine/Helping.lean ====
section
/-! DEFINITION. Machine/Helping.lean: announcement records and helping, ANN, HELP and ANNQ (R212 to R231). The three
transactions of ANN, and those of a HELP, are made in one step: no access falls between them, which the announcing hold
(R222) and the interleavings of R230 allow; an ECC finding may (log 40). -/

namespace Sys2Proof.Machine

/-! ## Words at their home points -/

/-- A checked address: its physical address and entry, in a DIR page (R231). -/
def State.annAt (s : State) (h : Here) (a : DWord) (align : Nat) (need : Need) : State × Except (Nat × DWord) Xl :=
  if 2 ^ 57 ≤ a.toNat then (s, .error (Code.addr, a))
  else if a.toNat % align != 0 then (s, .error (Code.align, a))
  else
    match s.xlate h.g.core h.l.ctx a.toNat need with
    | (s, .error c) => (s, .error (c, a))
    | (s, .ok x) => if Pte.coh x.pte == .dir then (s, .ok x) else (s, .error (Code.annPage, a))
/-- Bytes at a home point, an offset from an address on. -/
def State.annRead (s : State) (x : Xl) (off n : Nat) : List Byte := s.readAs (Pte.key x.pte) (x.pa + off) n
def State.annWord (s : State) (x : Xl) (off : Nat) : Word := BitVec.ofNat 32 (ofBytes (s.annRead x off 4))
def State.annDword (s : State) (x : Xl) (off : Nat) : DWord := BitVec.ofNat 64 (ofBytes (s.annRead x off 8))
/-- An indivisible update at a home point: L1 copies of the grain are invalidated first (R152, R165), and copies under an alias
of another treatment in the cluster leave, so that the thread sees its own write through them too (R173, R175). -/
def State.annWrite (s : State) (core : Nat) (x : Xl) (off : Nat) (bs : List Byte) : State :=
  ((s.aliasesBack core (x.pa / 512) fun b => Pte.coh b.pte == .dir).dirInvalidate none (x.pa + off) bs.length x.pte wWch).putHome
    x.pte (x.pa + off) bs
/-- The lane's own earlier stores to n bytes are performed, and what the slice has accepted for them is applied (R164, R173). -/
def State.annOpen (s : State) (h : Here) (l : Fin 32) (x : Xl) (n : Nat) : State :=
  let s := s.flushBytes h.g.gid s.cur.bunch (laneBit l) x.pa n
  State.openBlock (x.pa / 512) (s.reqs.length + 1) s
def State.annBad (s : State) (x : Xl) (n : Nat) : Bool := poisoned s.poison x.pa n
/-- An access of n bytes at an address is held by an engine command of the core (R187). -/
def State.annHeld (s : State) (h : Here) (l : Fin 32) (a : DWord) (n : Nat) : Bool :=
  s.laneHeld h.g.core h.g.gid s.cur.bunch l [⟨.gl (s.asidOf h.l.ctx), a.toNat, n⟩]
/-- A HELP is a release at .dv (R216). -/
def helpPre (bi : Nat) (h : Here) (_ : Bunch) (lanes : Lanes) (s : State) : State :=
  if lanes = 0 then s else s.releaseOf h.g.gid bi h.g.core lanes true
/-- Before ANN every store that the lanes issued is performed at .dv, those of UO pages too (R227). -/
def annPre (bi : Nat) (h : Here) (_ : Bunch) (lanes : Lanes) (s : State) : State :=
  if lanes = 0 then s else (s.flushAll h.g.gid bi lanes true).siRelease h.g.core

/-! ## ANN (R226, R227) -/

/-- Steps of an operation (R220). -/
def annCount (op : Nat) : Nat := if op < 4 then 2 else 1
/-- The first transaction's sixteen bytes. -/
def annHead (op : Nat) : List Byte := wordBytes [1, 0xFFFFFFFF, BitVec.ofNat 32 op, BitVec.ofNat 32 (annCount op)]
/-- A lane announces record q on anchor a. The outcome's words: the ticket, and the mask bit. -/
def State.annLane (s : State) (h : Here) (op : Nat) (a q : DWord) (l : Fin 32) : State × LaneOut :=
  match s.annAt h a 128 .atomic with
  | (s, .error e) => (s, outFault l e.1 e.2)
  | (s, .ok x) =>
    match s.annAt h q 64 .atomic with
    | (s, .error e) => (s, outFault l e.1 e.2)
    | (s, .ok y) =>
      if s.annHeld h l a 80 || s.annHeld h l q 16 then (s.engineWait h.g.gid s.cur.bunch l, { held := true })
      else
      let c := h.g.core
      let s := ((s.annOpen h l x 80).annOpen h l y 64).annWrite c y 0 (annHead op)
      let ticket := s.annWord x 0
      let served := s.annWord x 4
      let slot := 16 + 8 * (ticket.toNat % 8)
      let fails := fun (bad : Nat) =>
        ((s.annWrite c y 0 (wordBytes [0])).log { s.logOf h.g s.cur.bunch (laneBit l) with
          kind := 3, code := Code.poison, addr := BitVec.ofNat 64 (bad / 8 * 8), pc := s.cur.pc }, outFault l Code.poison a)
      if poisoned s.poison x.pa 8 then fails x.pa
      else if 8 ≤ (ticket - served).toNat then (s.annWrite c y 0 (wordBytes [0]), { vals := [0, 0], skip := true })
      else if poisoned s.poison (x.pa + slot) 8 then fails (x.pa + slot)
      else
        let s := s.annWrite c x 0 (wordBytes [ticket + 1])
        let s := s.annWrite c x slot (toBytes 8 q)
        (s.annWrite c y 4 (wordBytes [ticket]), { vals := [ticket, 1] })
/-- An ANN form. -/
def State.ann (s : State) (op : Nat) (d : Reg) (m : Mask) (a b : Src) : Host.Outcome State Fault Refusal :=
  .next (s.laneSeq { reads := srcReads a 2 ++ srcReads b 2, dests := [d] } (annPre s.cur.bunch)
    (fun h x s l => s.annLane h op (srcPair a x l) (srcPair b x l) l) (popPost m))

/-- Announces a push. (R213, R216, R227) -/
def execAnnPush (d : Reg) (m : Mask) (a b : Src) (s : State) : Host.Outcome State Fault Refusal := s.ann 0 d m a b

/-- Announces a pop. (R220, R227) -/
def execAnnPop (d : Reg) (m : Mask) (a b : Src) (s : State) : Host.Outcome State Fault Refusal := s.ann 1 d m a b

/-- Announces an enqueue. (R220, R227) -/
def execAnnEnq (d : Reg) (m : Mask) (a b : Src) (s : State) : Host.Outcome State Fault Refusal := s.ann 2 d m a b

/-- Announces a dequeue. (R220, R227) -/
def execAnnDeq (d : Reg) (m : Mask) (a b : Src) (s : State) : Host.Outcome State Fault Refusal := s.ann 3 d m a b

/-- Announces an add-and-fetch. (R220, R227) -/
def execAnnAddf (d : Reg) (m : Mask) (a b : Src) (s : State) : Host.Outcome State Fault Refusal := s.ann 4 d m a b

/-- Announces a swap-if-equal. (R220, R227) -/
def execAnnSwapeq (d : Reg) (m : Mask) (a b : Src) (s : State) : Host.Outcome State Fault Refusal := s.ann 5 d m a b

/-! ## The steps of operations (R212, R213, R220, R221) -/

/-- A tagged word: value, ticket and step of its tag. -/
structure Tagged where
  val : DWord
  t : Word
  s : Word
  deriving DecidableEq, Repr
def tagOf (bs : List Byte) : Tagged :=
  ⟨BitVec.ofNat 64 (ofBytes (bs.take 8)), BitVec.ofNat 32 (ofBytes (bs.drop 12)), BitVec.ofNat 32 (ofBytes ((bs.drop 8).take 4))⟩
def Tagged.bytes (x : Tagged) : List Byte := toBytes 8 x.val ++ toBytes 8 (pairOf x.s x.t)
/-- The tag of x is later than t:s (R212). -/
def Tagged.later (x : Tagged) (t s : Word) : Bool :=
  let d := (x.t - t).toNat
  (decide (1 ≤ d) && decide (d ≤ 2 ^ 31 - 1)) || (x.t == t && decide (s.toNat < x.s.toNat))
def Tagged.is (x : Tagged) (t s : Word) : Bool := x.t == t && x.s == s
/-- How a step ends (R221): performed by a write of a tagged word, exact, or passed. -/
inductive StepEnd where
  | performed (place : Xl) (new : Tagged)
  | exact
  | passed
  deriving DecidableEq, Repr
/-- A tagged word at an address: its place, or how the lane ends without it. -/
def State.readTag (s : State) (h : Here) (l : Fin 32) (a : DWord) : State × Except LaneOut (Xl × Tagged) :=
  match s.annAt h a 16 .atomic with
  | (s, .error e) => (s, .error (outFault l e.1 e.2))
  | (s, .ok x) =>
    if s.annHeld h l a 16 then (s.engineWait h.g.gid s.cur.bunch l, .error { held := true })
    else
      let s := s.annOpen h l x 16
      if s.annBad x 16 then (s, .error (outFault l Code.poison a)) else (s, .ok (x, tagOf (s.annRead x 0 16)))
/-- The fields of a record (R218). -/
structure AnnRec where
  steps : Nat
  state : Nat
  ticket : Word
  op : Nat
  count : Nat
  target : DWord
  operand : DWord
  aux : DWord
  reserved : Bool
  deriving DecidableEq, Repr
def annRecOf (bs : List Byte) : AnnRec :=
  let w := fun k => ofBytes ((bs.drop k).take 4)
  let d := fun k => BitVec.ofNat 64 (ofBytes ((bs.drop k).take 8))
  ⟨w 0 / 256 % 256, w 0 % 256, BitVec.ofNat 32 (w 4), w 8, w 12, d 16, d 24, d 32, decide (w 0 / 65536 != 0)⟩
/-- The record check of R231. -/
def AnnRec.bad (r : AnnRec) : Bool :=
  !(r.state == 1 || r.state == 2) || decide (5 < r.op) || r.count != annCount r.op || decide (r.count < r.steps)
  || (r.state == 2 && decide (r.steps < r.count)) || r.reserved
  || ((r.op == 2 || r.op == 3) && decide (20 < r.aux.toNat % 64))
/-- Slot k of a stack's array, entry i of a ring (R213, R220). -/
def AnnRec.slotAt (r : AnnRec) (k : DWord) : DWord := r.aux + (k <<< 4)
def AnnRec.ringAt (r : AnnRec) (i : Nat) : DWord :=
  (r.aux &&& ~~~ 63#64) + BitVec.ofNat 64 (16 * (i % 2 ^ (r.aux.toNat % 64)))
/-- Head and tail counts of a queue word, and the word with one of them raised (R220). -/
def qHead (x : DWord) : Nat := x.toNat % 2 ^ 31
def qTail (x : DWord) : Nat := x.toNat / 2 ^ 32 % 2 ^ 31
def qWith (x : DWord) (hd tl : Nat) : DWord :=
  BitVec.ofNat 64 (x.toNat / 2 ^ 63 * 2 ^ 63 + tl % 2 ^ 31 * 2 ^ 32 + x.toNat / 2 ^ 31 % 2 * 2 ^ 31 + hd % 2 ^ 31)
def emptyMark : DWord := 1#64 <<< 63
/-- Step s of a record's operation for a ticket: its end and the result (R213, R221). -/
def State.annStep (s : State) (h : Here) (l : Fin 32) (r : AnnRec) (t : Word) (st : Nat) :
    State × Except LaneOut (StepEnd × DWord) :=
  match s.readTag h l r.target with
  | (s, .error e) => (s, .error e)
  | (s, .ok (gx, g)) =>
    let x := g.val
    let put := fun (v : DWord) (k : Word) => StepEnd.performed gx ⟨v, t, k⟩
    if st = 2 then
      -- the second step of push, pop, enq and deq writes the guard word
      (s, .ok (if g.is t 2 then .exact else if g.later t 2 then .passed
        else match r.op with
          | 0 => put (x + 1) 2
          | 1 => put (x &&& ~~~ emptyMark) 2
          | 2 => put (qWith x (qHead x) (qTail x + 1)) 2
          | _ => put (x &&& ~~~ emptyMark) 2, 0))
    else
      match r.op with
      | 0 =>
        if g.is t 2 || g.later t 2 then (s, .ok (.passed, 0))
        else
          match s.readTag h l (r.slotAt x) with
          | (s, .error e) => (s, .error e)
          | (s, .ok (ex, e)) =>
            (s, .ok (if e.is t 1 then .exact else if e.later t 1 then .passed else .performed ex ⟨r.operand, t, 1⟩, 0))
      | 1 =>
        if g.later t 1 then (s, .ok (.passed, 0))
        else if g.is t 1 then
          if x.msb then (s, .ok (.exact, r.operand))
          else match s.readTag h l (r.slotAt x) with
            | (s, .error e) => (s, .error e)
            | (s, .ok (_, e)) => (s, .ok (.exact, e.val))
        else if x = 0 then (s, .ok (put emptyMark 1, r.operand))
        else match s.readTag h l (r.slotAt (x - 1)) with
          | (s, .error e) => (s, .error e)
          | (s, .ok (_, e)) => (s, .ok (put (x - 1) 1, e.val))
      | 2 =>
        if g.is t 2 || g.later t 2 then (s, .ok (.passed, 0))
        else
          match s.readTag h l (r.ringAt (qTail x)) with
          | (s, .error e) => (s, .error e)
          | (s, .ok (ex, e)) =>
            (s, .ok (if e.is t 1 then .exact else if e.later t 1 then .passed else .performed ex ⟨r.operand, t, 1⟩, 0))
      | 3 =>
        if g.later t 1 then (s, .ok (.passed, 0))
        else if g.is t 1 then
          if x.msb then (s, .ok (.exact, r.operand))
          else match s.readTag h l (r.ringAt ((qHead x + 2 ^ 31 - 1) % 2 ^ 31)) with
            | (s, .error e) => (s, .error e)
            | (s, .ok (_, e)) => (s, .ok (.exact, e.val))
        else if qHead x = qTail x then (s, .ok (put (x ||| emptyMark) 1, r.operand))
        else match s.readTag h l (r.ringAt (qHead x)) with
          | (s, .error e) => (s, .error e)
          | (s, .ok (_, e)) => (s, .ok (put (qWith x (qHead x + 1) (qTail x)) 1, e.val))
      | 4 =>
        if g.later t 1 then (s, .ok (.passed, 0))
        else if g.is t 1 then (s, .ok (.exact, x))
        else (s, .ok (put (x + r.operand) 1, x + r.operand))
      | _ =>
        if g.later t 1 then (s, .ok (.passed, 0))
        else if g.is t 1 then (s, .ok (.exact, x))
        else
          let v := if x = r.aux then r.operand else x
          (s, .ok (put v 1, v))
/-- Operations with a result (R220). -/
def annHasResult (op : Nat) : Bool := op == 1 || op == 3 || op == 4 || op == 5

/-! ## HELP and ANNQ (R228 to R230) -/

def helpReport (t : Word) (s st : Nat) : Word := (t <<< 8) ||| BitVec.ofNat 32 (s * 16 + st)
/-- A data error that HELP logs and does not raise (R224). -/
def State.helpLog (s : State) (h : Here) (l : Fin 32) (pa : Nat) : State :=
  s.log { s.logOf h.g s.cur.bunch (laneBit l) with kind := 3, code := Code.poison, addr := BitVec.ofNat 64 (pa / 8 * 8), pc := s.cur.pc }
/-- served moves past t, and version with it (R230). -/
def State.helpAdvance (s : State) (h : Here) (l : Fin 32) (x : Xl) (t : Word) : State :=
  if poisoned s.poison x.pa 8 then s.helpLog h l x.pa
  else if s.annWord x 4 = t then
    if poisoned s.poison (x.pa + 8) 8 then s.helpLog h l (x.pa + 8)
    else (s.annWrite h.g.core x 4 (wordBytes [t + 1])).annWrite h.g.core x 8 (toBytes 8 (s.annDword x 8 + 1))
  else s
/-- The record's update (R230), where its first sixteen bytes are still those read: it shows s steps, and the result at
step 1. -/
def State.helpRecord (s : State) (h : Here) (l : Fin 32) (y : Xl) (read : List Byte) (r : AnnRec) (st : Nat) (res : DWord) : State :=
  let c := h.g.core
  let result := st == 1 && annHasResult r.op
  if poisoned s.poison y.pa 8 then s.helpLog h l y.pa
  else if poisoned s.poison (y.pa + 8) 8 then s.helpLog h l (y.pa + 8)
  else if s.annRead y 0 16 != read then s
  else if result && poisoned s.poison (y.pa + 40) 8 then s.helpLog h l (y.pa + 40)
  else
    let s := s.annWrite c y 0 (wordBytes [BitVec.ofNat 32 (st * 256 + if st = r.count then 2 else 1)])
    if result then s.annWrite c y 40 (toBytes 8 res) else s
/-- The rest of a HELP whose step has ended in something else than passed: the step's write, the record's update and, after the
last step, the anchor's. A finding that falls between them may poison a word of the record or the anchor (R224). -/
def State.helpUpdate (s : State) (h : Here) (l : Fin 32) (x y : Xl) (r : AnnRec) (t : Word) (k : Nat) (e : StepEnd) (res : DWord) : State :=
  let rec_ : LogRec := { s.logOf h.g s.cur.bunch (laneBit l) with kind := 3, pc := s.cur.pc }
  let read := s.annRead y 0 16
  let s := match e with | .performed p new => s.annWrite h.g.core p 0 new.bytes | _ => s
  let s := s.between rec_ fun pa => pa / 64 == y.pa / 64 || pa / 128 == x.pa / 128
  let s := s.helpRecord h l y read r k res
  if k = r.count then s.helpAdvance h l x t else s
/-- One lane helps (R230). -/
def State.helpLane (s : State) (h : Here) (a : DWord) (l : Fin 32) : State × LaneOut :=
  match s.annAt h a 128 .atomic with
  | (s, .error e) => (s, outFault l e.1 e.2)
  | (s, .ok x) =>
    if s.annHeld h l a 80 then (s.engineWait h.g.gid s.cur.bunch l, { held := true })
    else
      let s := s.annOpen h l x 80
      if s.annBad x 80 then (s, outFault l Code.poison a)
      else
        let t := s.annWord x 4
        if s.annWord x 0 = t then (s, outWord (t <<< 8))
        else
          let q := s.annDword x (16 + 8 * (t.toNat % 8))
          match s.annAt h q 64 .atomic with
          | (s, .error e) => (s, outFault l e.1 e.2)
          | (s, .ok y) =>
            if s.annHeld h l q 64 then (s.engineWait h.g.gid s.cur.bunch l, { held := true })
            else
              let s := s.annOpen h l y 64
              if s.annBad y 64 then (s, outFault l Code.poison q)
              else
                let r := annRecOf (s.annRead y 0 64)
                if r.ticket != t then (s.helpAdvance h l x t, outWord (helpReport t 0 2))
                else if r.bad then (s, outFault l Code.annBad q)
                else if r.steps = r.count then (s.helpAdvance h l x t, outWord (helpReport t r.steps 2))
                else
                  match s.annStep h l r t (r.steps + 1) with
                  | (s, .error o) => (s, o)
                  | (s, .ok (.passed, _)) => (s, outWord (helpReport t (r.steps + 1) 2))
                  | (s, .ok (e, res)) =>
                    (s.helpUpdate h l x y r t (r.steps + 1) e res,
                     outWord (helpReport t (r.steps + 1) (match e with | .performed _ _ => 1 | _ => 2)))

/-- One step of the lowest unserved record of the anchor, per lane. (R216, R230) -/
def execHelp (d : Reg) (a : Src) (s : State) : Host.Outcome State Fault Refusal :=
  .next (s.laneSeq { reads := srcReads a 2, dests := [d] } (helpPre s.cur.bunch)
    (fun h b s l => let r := s.helpLane h (srcPair a b l) l
      if r.2.held || r.2.fault.isSome then r else (r.1.siAcquire h.g.core (r.1.asidOf h.l.ctx), r.2)) noPost)

/-- Reads a record's state word as an acquire at .dv. (R229) -/
def execAnnq (d : Reg) (a : Src) (s : State) : Host.Outcome State Fault Refusal :=
  .next (s.laneSeq { reads := srcReads a 2, dests := [d] } (acquirePre (some .dv))
    (fun h b s l =>
      let q := srcPair a b l
      match s.annAt h q 64 .load with
      | (s, .error e) => (s, outFault l e.1 e.2)
      | (s, .ok y) =>
        if s.annHeld h l q 4 then (s.engineWait h.g.gid s.cur.bunch l, { held := true })
        else
          let s := if Pte.kind y.pte == .so then s.flushSo h.g.gid s.cur.bunch (laneBit l) else s
          let s := (s.annOpen h l y 4).aliasesBack h.g.core (y.pa / 512) fun b => Pte.coh b.pte == .dir
          if poisoned s.poison y.pa 4 then (s, outFault l Code.poison q) else (s, outWord (s.annWord y 0))) noPost)

end Sys2Proof.Machine
end

