-- ==== Sys2Proof/Machine/Engines.lean ====
section
/-! DEFINITION. Machine/Engines.lean: the instructions that use a core's engines and the pickers: matrix steps (R232,
R233, R255 to R257), SCACC and ACCADD (R259, R260, R262, R263), the ACC forms (R237, R238, R261), COPY (R264, R265),
COMMIT and BWAIT (R235), SUBS and UNSUB (R267 to R269). -/

namespace Sys2Proof.Machine

/-! ## Chains (R235, R251) -/

def Bunch.chain (b : Bunch) (e : Eng) : Chain := match e with | .mx => b.mx | .cp => b.cp
def Bunch.setChain (b : Bunch) (e : Eng) (c : Chain) : Bunch := match e with | .mx => { b with mx := c } | .cp => { b with cp := c }
def Chain.isFull (c : Chain) : Bool := decide (Config.chainPlaces ≤ c.cmds.length)
def Chain.append (c : Chain) (x : Cmd) : Chain := { c with cmds := c.cmds ++ [{ x with batch := c.commits }] }
/-- Batches complete in turn, n of them at most, up to one that a stop has cut (R299). -/
def Chain.settle : Nat → Chain → Chain
  | 0, c => c
  | n + 1, c =>
    if c.seq < c.commits && c.cut.all (fun k => decide (c.seq < k)) && !(c.cmds.any fun x => x.batch == c.seq) then Chain.settle n { c with seq := c.seq + 1 } else c
/-- The engine writes the sequence number of each batch that has completed, and fires ENG for the bunch's threads (R68). -/
def Bunch.settle (b : Bunch) (e : Eng) : Bunch :=
  let c := b.chain e
  let c' := Chain.settle (c.commits - c.seq) c
  if c'.seq = c.seq then b
  else (b.setChain e c').mapThreads fun _ t => if t.live then t.wake wEng else t
/-- The sequence number as software sees it. -/
def Chain.seqWord (c : Chain) : Word := BitVec.ofNat 32 c.seq

/-! ## Appends to the matrix chain -/

/-- Every executing lane takes a fault of the whole run, before its sources are read (R233, R249, R263). -/
def State.runFault (s : State) (e : Nat × DWord) : State :=
  s.laneOp (opsD []) (fun _ _ => []) (fun _ l => outFault l e.1 e.2) noPost noGpost
/-- A tile descriptor (R232): none where it breaks its layout. -/
def tileOf (lo hi : Word) : Option Tile :=
  if lo.toNat / 2 ^ 20 != 0 || hi.toNat / 2 ^ 28 != 0 || lo.toNat % 16 != 0 || hi.toNat % 16 != 0 || hi.toNat % 65536 == 0 then none
  else some ⟨lo.toNat, hi.toNat % 65536, hi.toNat / 65536 % 4096⟩
def Bunch.tile (b : Bunch) (r : Reg) : Option Tile := tileOf (b.sreg r) (b.sreg (regNext r 1))
/-- A tensor entry's 16 bytes (R248): none where it breaks its layout. -/
def tentryOf (bs : List Byte) : Option TEntry :=
  let w := fun k => ofBytes ((bs.drop (4 * k)).take 4)
  let blk := w 0 / 4 % 2 == 1
  if w 0 / 8 != 0 || w 0 % 4 == 3 || w 1 / 2 ^ 20 != 0 || w 2 / 65536 != 0 || w 3 / 2 ^ 20 != 0 || w 3 % 4 != 0
      || (!blk && (w 1 != 0 || w 2 != 0 || w 3 != 0)) then none
  else some ⟨readingOf (w 0 % 4), blk, w 1, w 2, w 3⟩
/-- What keeps a run from its append: a fault of the run, or (none) an engine command that holds its read of an entry. -/
abbrev RunStop := Option (Nat × DWord)
def runStop (code : Nat) (a : DWord) : RunStop := some (code, a)
/-- The read of entry tt in the run's program order (R249): a plain RC load, held as any load is (R187), and after the lanes' own
stores to the entry alone (R173). -/
def State.tensorEntry (s : State) (h : Here) (tt : Nat) : State × Except RunStop TEntry :=
  if h.l.hdr.ttcount ≤ tt then (s, .error (runStop Code.tensEnt 0))
  else
    let a := h.l.hdr.ttbase + 16 * tt
    match s.xlate h.g.core h.l.ctx a .load with
    | (s, .error c) => (s, .error (runStop c (BitVec.ofNat 64 a)))
    | (s, .ok x) =>
      if s.laneHeld h.g.core h.g.gid s.cur.bunch ((lanesOf s.cur.exec).headD 0) [⟨.gl (s.asidOf h.l.ctx), a, 16⟩] then (s, .error none)
      else
        let s := s.flushBytes h.g.gid s.cur.bunch s.cur.exec x.pa 16
        let v := s.loadNow h.g.core (s.asidOf h.l.ctx) a x 16
        if v.2.2 then (v.1, .error (runStop Code.poison (BitVec.ofNat 64 a)))
        else match tentryOf v.2.1 with
          | some e => (v.1, .ok e)
          | none => (v.1, .error (runStop Code.tensEnt (BitVec.ofNat 64 a)))
/-- A command before its lanes are known. -/
def Cmd.blank (id : Nat) (op : CmdOp) (pc : DWord) (sync : Bool) : Cmd :=
  ⟨id, op, 0, Vector.replicate 32 0, Vector.replicate 32 0, Vector.replicate 32 [], Vector.replicate 32 0, Vector.replicate 32 .rne, pc, 0,
   sync, false⟩
/-- The rounding mode of each lane (R233). -/
def Bunch.modes (b : Bunch) : Vector RM 32 := Vector.ofFn fun l : Fin 32 => rmOf b.threads[l].fmode
/-- The command joins its chain with the lanes that passed; with none, nothing is appended. -/
def appendPost (c : Cmd) (good : Lanes) (b : Bunch) : Bunch :=
  if good = 0 then b
  else b.setChain .mx (b.mx.append { c with lanes := good, rm := b.modes })
/-- The run's append waits while the chain is full (R233). -/
def State.lanesWait (s : State) (h : Here) (m : Lanes) : State :=
  s.modBunch h.g.gid s.cur.bunch fun b => b.mapThreads fun l t => if m.getLsbD l.val then { t with await := .engine } else t
/-- The run's append stops short (R187, R233). -/
def State.stopShort (s : State) (h : Here) (e : RunStop) : State :=
  match e with
  | some f => s.runFault f
  | none => (lanesOf s.cur.exec).foldl (fun s l => s.engineWait h.g.gid s.cur.bunch l) s
/-- The lanes of a synchronous form wait for the command they appended (R257). -/
def State.waitCommand (s : State) (h : Here) (id : Nat) : State :=
  s.modBunch h.g.gid s.cur.bunch fun b =>
    match b.mx.cmds.find? fun c => c.id == id with
    | some c => if c.sync then b.mapThreads fun l t => if c.lanes.getLsbD l.val then { t with await := .command id } else t else b
    | none => b

def MmaFmt.reads (f : MmaFmt) : Bool := match f with | .f16 => false | .bf16 => false | _ => true
def mmaLen (x : MmaOp) : Nat := x.lenM1.val + 1
def mmaDepth (x : MmaOp) : Nat := 8 * (x.dep.val + 1)
def mmaK0 (x : MmaOp) : Nat := 8 * x.ka.val
/-- Last byte of the B tile, plus one (R256). -/
def bEnd (fmt : MmaFmt) (len : Nat) (b : Tile) (depth : Nat) (t : Bool) : Nat :=
  if t then b.base + (16 * len - 1) * b.pitch + bytesOfBits' (depth * fmt.bits)
  else b.base + (depth - 1) * b.pitch + 2 * len * fmt.bits
def aEnd (fmt : MmaFmt) (a : Tile) (k0 depth row : Nat) : Nat := a.base + row * a.pitch + (k0 + depth) * fmt.bits / 8
/-- The checks of an append that concern the whole run, in the order of R233, and the captured readings. -/
def State.mmaChecks (s : State) (h : Here) (fmt : MmaFmt) (x : MmaOp) : State × Except RunStop (Tile × Tile × Reading × Reading) :=
  if isVector h.g.core then (s, .error (runStop Code.noMatrix 0))
  else if h.l.hdr.accum < x.f.val + (mmaLen x) then (s, .error (runStop Code.accRange 0))
  else
    match h.b.tile x.sa, h.b.tile x.sb with
    | some ta, some tb =>
      if h.l.hdr.scratch < bEnd fmt (mmaLen x) tb (mmaDepth x) x.t then (s, .error (runStop Code.spRange 0))
      else if fmt.reads then
        match s.tensorEntry h ta.tt with
        | (s, .error e) => (s, .error e)
        | (s, .ok ea) =>
          match s.tensorEntry h tb.tt with
          | (s, .error e) => (s, .error e)
          | (s, .ok eb) => (s, .ok (ta, tb, ea.read, eb.read))
      else (s, .ok (ta, tb, .iee, .iee))
    | _, _ => (s, .error (runStop Code.tileDesc 0))
/-- An MMA form: the checks, then the append of one command for the run's lanes. -/
def State.mma (s : State) (fmt : MmaFmt) (sync : Bool) (x : MmaOp) : Host.Outcome State Fault Refusal :=
  match s.here? with
  | none => .next s
  | some h =>
    let o : Operands := { reads := srcReads x.vi 1, dests := [] }
    if s.cur.exec = 0 then .next (s.laneOp o (fun _ _ => []) (fun _ _ => {}) noPost noGpost)
    else
      match s.mmaChecks h fmt x with
      | (s, .error e) => .next (s.stopShort h e)
      | (s, .ok (ta, tb, ra, rb)) =>
        if h.b.mx.isFull then .next (s.lanesWait h s.cur.exec)
        else
          let c := Cmd.blank s.fresh (.mma fmt x.f.val (mmaLen x) ta tb ra rb (mmaK0 x) (mmaDepth x) x.t) s.cur.pc sync
          .next ((s.fresh'.laneOpLate o (fun _ _ => [])
            (fun b l => if h.l.hdr.scratch < aEnd fmt ta (mmaK0 x) (mmaDepth x) (srcWord x.vi b l).toNat then outFault l Code.spRange 0
              else outWord (srcWord x.vi b l))
            (fun out good b => appendPost { c with idx := Vector.ofFn fun l : Fin 32 => (out l).vals.headD 0 } good b) noGpost).waitCommand h c.id)

/-- FP16 matrix step, retiring with its command. (R255, R257) -/
def execMmaF16 (x : MmaOp) (s : State) : Host.Outcome State Fault Refusal := s.mma .f16 true x

/-- FP16 matrix step, appended. (R233, R255) -/
def execMmaF16Async (x : MmaOp) (s : State) : Host.Outcome State Fault Refusal := s.mma .f16 false x

/-- BF16 matrix step, retiring with its command. (R255, R257) -/
def execMmaBf16 (x : MmaOp) (s : State) : Host.Outcome State Fault Refusal := s.mma .bf16 true x

/-- BF16 matrix step, appended. (R233, R255) -/
def execMmaBf16Async (x : MmaOp) (s : State) : Host.Outcome State Fault Refusal := s.mma .bf16 false x

/-- E4M3 matrix step, retiring with its command. (R255, R257) -/
def execMmaE4m3 (x : MmaOp) (s : State) : Host.Outcome State Fault Refusal := s.mma .e4m3 true x

/-- E4M3 matrix step, appended. (R233, R255) -/
def execMmaE4m3Async (x : MmaOp) (s : State) : Host.Outcome State Fault Refusal := s.mma .e4m3 false x

/-- E5M2 matrix step, retiring with its command. (R255, R257) -/
def execMmaE5m2 (x : MmaOp) (s : State) : Host.Outcome State Fault Refusal := s.mma .e5m2 true x

/-- E5M2 matrix step, appended. (R233, R255) -/
def execMmaE5m2Async (x : MmaOp) (s : State) : Host.Outcome State Fault Refusal := s.mma .e5m2 false x

/-- INT8 matrix step, retiring with its command. (R255, R257) -/
def execMmaI8 (x : MmaOp) (s : State) : Host.Outcome State Fault Refusal := s.mma .i8 true x

/-- INT8 matrix step, appended. (R233, R255) -/
def execMmaI8Async (x : MmaOp) (s : State) : Host.Outcome State Fault Refusal := s.mma .i8 false x

/-- INT4 matrix step, retiring with its command. (R255, R257) -/
def execMmaI4 (x : MmaOp) (s : State) : Host.Outcome State Fault Refusal := s.mma .i4 true x

/-- INT4 matrix step, appended. (R233, R255) -/
def execMmaI4Async (x : MmaOp) (s : State) : Host.Outcome State Fault Refusal := s.mma .i4 false x

/-- Q4 matrix step, retiring with its command. (R255, R257) -/
def execMmaQ4 (x : MmaOp) (s : State) : Host.Outcome State Fault Refusal := s.mma .q4 true x

/-- Q4 matrix step, appended. (R233, R255) -/
def execMmaQ4Async (x : MmaOp) (s : State) : Host.Outcome State Fault Refusal := s.mma .q4 false x

/-! ## SCACC and ACCADD -/

def scaccLen (x : ScaccOp) : Nat := x.lenM1.val + 1
/-- The scale data of some lines lie within the scratchpad (R263). -/
def scalesFit (e : TEntry) (j scratch : Nat) (ls : List Nat) : Bool :=
  ls.all fun l => decide (e.scaleAt l j + 1 ≤ scratch) && decide (e.superAt l j + 4 ≤ scratch)
/-- The run-wide checks of a SCACC (R232, R249, R263). -/
def State.scaccChecks (s : State) (h : Here) (x : ScaccOp) : State × Except RunStop TEntry :=
  if isVector h.g.core then (s, .error (runStop Code.noMatrix 0))
  else if h.l.hdr.accum < x.f.val + (scaccLen x) || h.l.hdr.accum < x.sf.val + (scaccLen x) then (s, .error (runStop Code.accRange 0))
  else if (h.b.sreg x.sd).toNat / 2 ^ 20 != 0 || (h.b.sreg (regNext x.sd 1)).toNat / 2 ^ 28 != 0 then (s, .error (runStop Code.tileDesc 0))
  else
    match s.tensorEntry h ((h.b.sreg (regNext x.sd 1)).toNat / 65536 % 4096) with
    | (s, .error e) => (s, .error e)
    | (s, .ok e) =>
      if !e.blk then (s, .error (runStop Code.tensEnt 0))
      else if x.vi.isNone && !scalesFit e x.j.val h.l.hdr.scratch (List.range (16 * (scaccLen x))) then (s, .error (runStop Code.spRange 0))
      else (s, .ok e)
/-- Appends a command that adds source columns times their effective scales. (R260) -/
def execScacc (x : ScaccOp) (s : State) : Host.Outcome State Fault Refusal :=
  match s.here? with
  | none => .next s
  | some h =>
    let o : Operands := { reads := x.vi.elim [] (fun v => srcReads v 1), dests := [] }
    if s.cur.exec = 0 then .next (s.laneOp o (fun _ _ => []) (fun _ _ => {}) noPost noGpost)
    else
      match s.scaccChecks h x with
      | (s, .error e) => .next (s.stopShort h e)
      | (s, .ok e) =>
        if h.b.mx.isFull then .next (s.lanesWait h s.cur.exec)
        else
          let c := Cmd.blank s.fresh (.scacc x.f.val (scaccLen x) x.sf.val e x.j.val x.vi.isSome x.clr) s.cur.pc false
          let idx := fun (b : Bunch) l => x.vi.elim (0 : Word) (fun v => srcWord v b l)
          .next (s.fresh'.laneOpLate o (fun _ _ => [])
            (fun b l => if x.vi.isSome && !scalesFit e x.j.val h.l.hdr.scratch [(idx b l).toNat] then outFault l Code.spRange 0
              else outWord (idx b l))
            (fun out good b => appendPost { c with idx := Vector.ofFn fun l : Fin 32 => (out l).vals.headD 0 } good b) noGpost)

def accaddLen (x : AccaddOp) : Nat := x.lenM1.val + 1
/-- Translations of the pieces of a .gl destination (R262). -/
def State.pieces (s : State) (h : Here) : List Nat → State × Except (Nat × DWord) (List (Nat × Pte))
  | [] => (s, .ok [])
  | a :: as =>
    match s.xlate h.g.core h.l.ctx a .atomic with
    | (s, .error c) => (s, .error (c, BitVec.ofNat 64 a))
    | (s, .ok x) =>
      match s.pieces h as with
      | (s, .error e) => (s, .error e)
      | (s, .ok l) => (s, .ok ((x.pa, x.pte) :: l))
/-- A window where no float add completes (R200, R262). -/
def noFloatAdd (pa : Nat) : Bool := match windowOf pa with | .device => true | .hostPcie => true | _ => false
/-- A lane's destination (R262): its address, translated pieces, and the group of a scratchpad. The windows of the pieces are
checked last (R263). -/
def State.accaddLane (s : State) (h : Here) (x : AccaddOp) (ea : Nat) (l : Fin 32) : State × Except (Nat × DWord) (List (Nat × Pte) × Nat) :=
  match s.spot h s.cur.bunch l (ASpace.space x.sp) ea (64 * (accaddLen x)) 64 .atomic with
  | (s, .error e) => (s, .error e)
  | (s, .ok p) =>
    if p.cached then
      match s.pieces h ((List.range (accaddLen x)).map fun j => ea + 64 * j) with
      | (s, .error e) => (s, .error e)
      | (s, .ok ps) =>
        match ps.findIdx? fun y => noFloatAdd y.1 with
        | some j => (s, .error (Code.atomSup, BitVec.ofNat 64 (ea + 64 * j)))
        | none => (s, .ok (ps, 0))
    else (s, .ok ([], p.target))
/-- Every lane's destination in turn: what each gives. -/
def State.accaddLanes (s : State) (h : Here) (x : AccaddOp) (ea : Fin 32 → Nat) :
    List (Fin 32) → State × List (Fin 32 × Except (Nat × DWord) (List (Nat × Pte) × Nat))
  | [] => (s, [])
  | l :: ls =>
    let r := s.accaddLane h x (ea l) l
    let rest := r.1.accaddLanes h x ea ls
    (rest.1, (l, r.2) :: rest.2)
/-- Appends a command that adds accumulators to memory as atomics. (R262) -/
def execAccadd (x : AccaddOp) (s : State) : Host.Outcome State Fault Refusal :=
  match s.here? with
  | none => .next s
  | some h =>
    let spc := ASpace.space x.sp
    let o : Operands := { reads := baseReads spc x.a, dests := [] }
    if s.cur.exec = 0 then .next (s.laneOp o (fun _ _ => []) (fun _ _ => {}) noPost noGpost)
    else if isVector h.g.core then .next (s.runFault (Code.noMatrix, 0))
    else if h.l.hdr.accum < x.f.val + (accaddLen x) then .next (s.runFault (Code.accRange, 0))
    else if h.b.mx.isFull then .next (s.lanesWait h s.cur.exec)
    else
      match s.openOp h o with
      | .error e => .next (s.spillHalt h s.cur.bunch s.cur.pc s.cur.exec e)
      | .ok (s1, b1) =>
        let ea := laneEa spc x.a (64 * x.o.val) b1
        let r := s1.accaddLanes h x ea (lanesOf s.cur.exec)
        let of := fun (l : Fin 32) => (r.2.find? fun y => y.1 == l).elim (.error (Code.addr, BitVec.ofNat 64 (ea l))) (fun y => y.2)
        let c := Cmd.blank s.fresh (.accadd x.f.val (accaddLen x) x.sp) s.cur.pc false
        .next ((r.1.fresh'.modBunch h.g.gid s.cur.bunch fun c => { b1 with threads := c.threads }).laneOpLate o (fun _ _ => [])
          (fun _ l => match of l with | .error e => outFault l e.1 e.2 | .ok _ => {})
          (fun _ good b => appendPost { c with
            addr := Vector.ofFn fun l : Fin 32 => ea l
            pa := Vector.ofFn fun l : Fin 32 => match of l with | .ok y => y.1 | .error _ => []
            target := Vector.ofFn fun l : Fin 32 => match of l with | .ok y => y.2 | .error _ => 0 } good b) noGpost)

/-! ## The ACC forms -/

/-- A command that has a lane and an accumulator in its span (R237). -/
def Cmd.usesAcc (c : Cmd) (l : Fin 32) (k : Nat) : Bool :=
  c.lanes.getLsbD l.val &&
    (match c.op with
     | .mma _ f len _ _ _ _ _ _ _ => decide (f ≤ k) && decide (k < f + len)
     | .scacc f len sf _ _ _ _ => (decide (f ≤ k) && decide (k < f + len)) || (decide (sf ≤ k) && decide (k < sf + len))
     | .accadd f len _ => decide (f ≤ k) && decide (k < f + len)
     | .copy _ => false)
def Bunch.accHeld (b : Bunch) (l : Fin 32) (k : Nat) : Bool := b.mx.cmds.any fun c => c.usesAcc l k
/-- The accumulator interlock for a lane of the issuing run. -/
def State.accInterlock (s : State) (h : Here) (l : Fin 32) (k : Nat) : Bool :=
  (s.bunch? h.g.gid s.cur.bunch).any fun b => b.accHeld l k
/-- The 16 columns go as eight 8-byte stores. -/
def State.accStores (s : State) (h : Here) (p : Spot) (q : Qual) (l : Fin 32) (r : AccRow) : List (Fin 8) → State
  | [] => s
  | c :: cs =>
    let p' : Spot := { p with addr := p.addr + BitVec.ofNat 64 (8 * c.val), pa := p.pa + 8 * c.val }
    let x := pairOf r.cols[2 * c.val]! r.cols[2 * c.val + 1]!
    (s.addStore (s.storeOf h p' q 8 x l 0)).accStores h p q l r cs
/-- An ACC form with an address, in one lane (R238, R261): its checks, the STALE trap of its reads last (R263), the interlocks,
then its act. -/
def State.accLane (s : State) (h : Here) (b : Bunch) (x : AccOp) (need : Need) (l : Fin 32) (act : State → Spot → Thread → State × LaneOut) :
    State × LaneOut :=
  if h.l.hdr.accum ≤ x.acc.val then (s, outFault l Code.accRange 0)
  else
    match s.spot h s.cur.bunch l (ASpace.space x.sp) (laneEa (ASpace.space x.sp) x.a (64 * x.o.val) b l) 64 64 need with
    | (s, .error e) => (s, outFault l e.1 e.2)
    | (s, .ok p) =>
      match readFault h s.cur.bunch b (baseReads (ASpace.space x.sp) x.a) l with
      | some f => (s, { fault := some f })
      | none =>
        if s.accInterlock h l x.acc.val || s.laneHeld h.g.core h.g.gid s.cur.bunch l [p.region (s.asidOf h.l.ctx) 64] then
          (s.engineWait h.g.gid s.cur.bunch l, { held := true })
        else
          match s.thread? h.g.gid s.cur.bunch l with
          | none => (s, {})
          | some t => act s p t
def opsAcc (x : AccOp) : Operands := { reads := baseReads (ASpace.space x.sp) x.a, dests := [] }
/-- The lanes of an ACC form, in ascending order; poisoned values of address registers fault first (R93). -/
def State.accForm (s : State) (x : AccOp) (need : Need) (pre : Here → Bunch → Lanes → State → State)
    (act : Here → Fin 32 → State → Spot → Thread → State × LaneOut) (post : (Fin 32 → LaneOut) → Lanes → Bunch → Bunch) : State :=
  s.laneSeqBy (fun h b => badFault h s.cur.bunch b (opsAcc x).reads) (opsAcc x) pre
    (fun h b s l => s.accLane h b x need l (act h l)) post

/-- Stores an accumulator's 16 columns. (R238) -/
def execAccSt (x : AccOp) (s : State) : Host.Outcome State Fault Refusal :=
  .next (s.accForm x .store (storePre 256 s.cur.bunch x.q)
    (fun h l s' p t =>
      if t.acc[x.acc].poison != 0 then (s', outFault l Code.poison p.addr)
      else if s.lostRelease h x.q l then (s', outFault l Code.linkTo 0)
      else
        let s' := if p.cached && Pte.kind p.pte == .so then s'.flushSo h.g.gid s'.cur.bunch (laneBit l) else s'
        (s'.accStores h p x.q l t.acc[x.acc] (List.finRange 8), {})) noPost)

/-- Loads an accumulator's 16 columns. (R261) -/
def execAccLd (x : AccOp) (s : State) : Host.Outcome State Fault Refusal :=
  .next (s.accForm x .load (acquirePre x.q)
    (fun h l s p _ =>
      let s := s.settleOver h s.cur.bunch (laneBit l) p 64
      match s.valueNow h p false 64 with
      | (s, some v) => if v.2 then (s, outFault l Code.poison p.addr) else (s, { vals := bytesWords v.1 })
      | (s, none) => (s.sendReq h ⟨.acc x.acc, x.q, none, 64⟩ p false ⟨l, p.addr, p.pa, p.pte, [], []⟩, { held := true }))
    (answerPost (.acc x.acc)))

/-- Zeroes an accumulator. (R261, R258) -/
def execAccClr (acc : Fin 8) (s : State) : Host.Outcome State Fault Refusal :=
  .next (s.laneSeq (opsD []) noPre
    (fun h _ s l =>
      if h.l.hdr.accum ≤ acc.val then (s, outFault l Code.accRange 0)
      else if s.accInterlock h l acc.val then (s.engineWait h.g.gid s.cur.bunch l, { held := true })
      else (s, {}))
    (answerPost (.acc acc)))

/-! ## COPY -/

/-- The job card (R264): none where it breaks its limits. -/
structure Card where
  sa : Nat
  da : Nat
  len : Nat
  rows : Nat
  sp : Nat
  dp : Nat
  deriving DecidableEq, Repr
def copyCard (b : Bunch) (a : Reg) (ss ds : ASpace) : Option Card :=
  let w := fun k => b.sreg (regNext a k)
  let len := (w 4).toNat
  let rows := (w 5).toNat
  if len / 2 ^ 24 != 0 || len == 0 || len % 4 != 0 || rows / 65536 != 0 || rows == 0 || (w 6).toNat % 4 != 0 || (w 7).toNat % 4 != 0
      || (decide (1 < rows) && decide ((w 7).toNat < len)) || (ss != .gl && w 1 != 0) || (ds != .gl && w 3 != 0) then none
  else some ⟨(pairOf (w 0) (w 1)).toNat, (pairOf (w 2) (w 3)).toNat, len, rows, (w 6).toNat, (w 7).toNat⟩
/-- The first row of a region that breaks its space's limit (R147, R265): the code and the row's address. -/
def State.copyLimit (s : State) (h : Here) (spc : ASpace) (a len rows pitch : Nat) : Option (Nat × DWord) :=
  (List.range rows).findSome? fun r =>
    let x := a + r * pitch
    let bad := fun c => some (c, BitVec.ofNat 64 x)
    match spc with
    | .gl => if 2 ^ 57 < x + len then bad Code.addr else none
    | .csm =>
      if 2 ^ 22 ≤ x || x / 2 ^ 20 != a / 2 ^ 20 then bad Code.csmRange
      else (s.limitFault h s.cur.bunch s.lead .csm x len).bind bad
    | _ => if 2 ^ 32 ≤ x then bad (if spc == .sp then Code.spRange else Code.chsRange)
           else (s.limitFault h s.cur.bunch s.lead (ASpace.space spc) x len).bind bad
def State.copyRegion (s : State) (h : Here) (spc : ASpace) (a len rows pitch : Nat) : Option (Nat × DWord) :=
  match s.copyLimit h spc a len rows pitch with
  | some e => some e
  | none => if a % 4 != 0 then some (Code.align, BitVec.ofNat 64 a) else none
/-- The 32 KiB pages of a region, in order; more than 64 are cut at 65. -/
def copyPages (a len pitch : Nat) : Nat → List Nat → List Nat
  | 0, acc => acc
  | n + 1, acc =>
    let acc := copyPages a len pitch n acc
    if 64 < acc.length then acc
    else
      let x := a + n * pitch
      ((List.range (min 65 ((x + len - 1) / 32768 - x / 32768 + 1))).map (x / 32768 + ·)).foldl
        (fun l p => if l.contains p then l else l ++ [p]) acc
def State.copyXlate (s : State) (h : Here) (need : Need) : List Nat → State × Except (Nat × DWord) (List (Nat × Nat × Pte))
  | [] => (s, .ok [])
  | p :: ps =>
    match s.xlate h.g.core h.l.ctx (p * 32768) need with
    | (s, .error c) => (s, .error (c, BitVec.ofNat 64 (p * 32768)))
    | (s, .ok x) =>
      match s.copyXlate h need ps with
      | (s, .error e) => (s, .error e)
      | (s, .ok l) => (s, .ok ((p, x.pa, x.pte) :: l))
/-- The group that a scratchpad region names. -/
def State.copyGroup (s : State) (h : Here) (spc : ASpace) (a : Nat) : Nat :=
  match spc with
  | .csm => match s.csmTarget h.g (a / 2 ^ 20 % 4) with | some t => t.gid | none => h.g.gid
  | _ => h.g.gid
/-- The checks of R265 after the card, in order, and the job. -/
def State.copyJob (s : State) (h : Here) (k : Card) (ss ds : ASpace) : State × Except (Nat × DWord) CopyJob :=
  match s.copyRegion h ss k.sa k.len k.rows k.sp with
  | some e => (s, .error e)
  | none =>
    match s.copyRegion h ds k.da k.len k.rows k.dp with
    | some e => (s, .error e)
    | none =>
      let sg := s.copyGroup h ss k.sa
      let dg := s.copyGroup h ds k.da
      let asid := s.asidOf h.l.ctx
      if regionsMeet (copyRows asid h.l.id h.g.gid sg ss k.sa k.len k.rows k.sp) (copyRows asid h.l.id h.g.gid dg ds k.da k.len k.rows k.dp) then
        (s, .error (Code.copyOvl, 0))
      else
        let sp := if ss == .gl then copyPages k.sa k.len k.sp k.rows [] else []
        let dp := if ds == .gl then copyPages k.da k.len k.dp k.rows [] else []
        if decide (64 < sp.length) || decide (64 < dp.length) then (s, .error (Code.copySize, 0))
        else
          match s.copyXlate h .load sp with
          | (s, .error e) => (s, .error e)
          | (s, .ok xs) =>
            match s.copyXlate h .store dp with
            | (s, .error e) => (s, .error e)
            | (s, .ok xd) => (s, .ok ⟨ss, ds, k.sa, k.da, k.len, k.rows, k.sp, k.dp, xs, xd, sg, dg⟩)

/-- Appends a copy job described by a scalar card to the copy chain. (R264, R265) -/
def execCopy (a : Reg) (ss ds : ASpace) (s : State) : Host.Outcome State Fault Refusal :=
  match s.here? with
  | none => .next s
  | some h =>
    match copyCard h.b a ss ds with
    | none => .next (s.bunchFault h Code.copyShape 0)
    | some k =>
      match s.copyJob h k ss ds with
      | (s, .error e) => .next (s.bunchFault h e.1 e.2)
      | (s, .ok job) =>
        if h.b.cp.isFull then .next (s.lanesWait h s.cur.run)
        else
          .next (s.fresh'.runTo h (h.b.setChain .cp (h.b.cp.append { Cmd.blank s.fresh (.copy job) s.cur.pc false with lanes := s.cur.run })) s.cur.next)

/-! ## COMMIT and BWAIT (R235) -/

/-- Closes the bunch's open batch on an engine; a batch with nothing left to do completes. (R235) -/
def execCommit (e : Eng) (s : State) : Host.Outcome State Fault Refusal :=
  match s.here? with
  | none => .next s
  | some h =>
    let c := h.b.chain e
    .next ((s.runTo h ((h.b.setChain e { c with commits := c.commits + 1 }).settle e) s.cur.next).engineFrees h.g.core)

/-- Interlocks the run until the engine's sequence number reaches n. (R235, R187) -/
def execBwait (e : Eng) (imm : Word) (s : State) : Host.Outcome State Fault Refusal :=
  match s.here? with
  | none => .next s
  | some h =>
    let c := h.b.chain e
    let ahead := (imm - BitVec.ofNat 32 c.commits).toNat
    if 1 ≤ ahead ∧ ahead ≤ 2 ^ 31 - 1 then .next (s.bunchFault h Code.bwaitRange 0)
    else if (c.seqWord - imm).toNat < 2 ^ 31 then .next (s.runTo h h.b s.cur.next)
    else .next (s.lanesWait h s.cur.run)

/-! ## SUBS and UNSUB (R267 to R269) -/

/-- Bytes of a ring slot (R267). -/
def slotBytes (trows w : Nat) : Nat := (trows * w + 63) / 64 * 64
/-- A subscription card (R267): none where it breaks its limits. -/
def subsCard (b : Bunch) (a : Reg) (id gid bi handle rbase nslot : Nat) : Option Sub :=
  let w := fun k => b.sreg (regNext a k)
  let ta := (pairOf (w 0) (w 1)).toNat
  let pa := (pairOf (w 2) (w 3)).toNat
  let rows := (w 4).toNat
  let wd := (w 5).toNat
  let p := (w 6).toNat
  let n := (w 7).toNat
  if ta % 16 != 0 || pa % 16 != 0 || rows == 0 || decide (1024 < rows) || wd / 2 ^ 20 != 0 || wd == 0 || wd % 16 != 0 || p % 16 != 0
      || decide (p < wd) || n == 0 then none
  else some ⟨id, gid, bi, handle, rbase, nslot, ta, pa, rows, wd, p, n, 0, false, []⟩
/-- A handle of the bunch that no subscription holds. -/
def State.freeHandle (s : State) (gid bi : Nat) : Option Nat :=
  (List.range 4).find? fun k => !(s.subs.any fun u => u.gid == gid && u.bunch == bi && u.handle == k)

/-- Takes a handle and subscribes a ring to the pickers, as a release at .dv. (R268) -/
def execSubs (d a : Reg) (nslot : Fin 64) (base : BitVec 20) (s : State) : Host.Outcome State Fault Refusal :=
  match s.here? with
  | none => .next s
  | some h =>
    match subsCard h.b a s.fresh h.g.gid s.cur.bunch 0 base.toNat (nslot.val + 1) with
    | none => .next (s.bunchFault h Code.subsCard 0)
    | some u =>
      if h.l.hdr.scratch < u.rbase + 256 + u.nslot * slotBytes u.trows u.w then .next (s.bunchFault h Code.spRange 0)
      else
        match s.freeHandle h.g.gid s.cur.bunch with
        | none => .next (s.runTo h (h.b.setS d 0xFFFFFFFF) s.cur.next)
        | some k =>
          let s := s.releaseOf h.g.gid s.cur.bunch h.g.core s.cur.run true
          .next ({ s.fresh' with subs := s.subs ++ [{ u with handle := k }] }.modBunch h.g.gid s.cur.bunch fun b =>
            (b.setS d (BitVec.ofNat 32 k)).jumpLanes s.cur.run fun _ => s.cur.next)

/-- Ends the subscription whose handle a scalar register holds; another value changes nothing. (R269) -/
def execUnsub (a : Reg) (s : State) : Host.Outcome State Fault Refusal :=
  match s.here? with
  | none => .next s
  | some h =>
    .next ({ s with subs := s.subs.map fun (u : Sub) =>
        if u.gid = h.g.gid ∧ u.bunch = s.cur.bunch ∧ u.handle = (h.b.sreg a).toNat then { u with ending := true } else u }.runTo h h.b s.cur.next)

end Sys2Proof.Machine
end

