-- ==== Sys2Proof/Machine/EngineSteps.lean ====
section
/-! DEFINITION. Machine/EngineSteps.lean: the steps of the engines and the pickers: a command performed (R234, R240,
R250, R252, R258, R260, R262, R265), its retirement (R235, R252, R299), a tile filled, pulled back, a subscription
acknowledged (R268, R269). A step takes what it concerns from the event card: the command's or subscription's number. -/

namespace Sys2Proof.Machine

/-- A command where it stands: group, bunch index, engine. -/
structure CmdAt where
  g : Group
  bi : Nat
  e : Eng
  c : Cmd
  deriving DecidableEq, Repr
def Bunch.cmdAt (b : Bunch) (id : Nat) : Option (Eng × Cmd) :=
  match b.mx.cmds.find? fun c => c.id == id with
  | some c => some (.mx, c)
  | none => (b.cp.cmds.find? fun c => c.id == id).map fun c => (.cp, c)
def State.cmdAt (s : State) (id : Nat) : Option CmdAt :=
  s.groups.findSome? fun g => (List.range g.bunches.length).findSome? fun i =>
    (g.bunches[i]?).bind fun b => (b.cmdAt id).map fun x => ⟨g, i, x.1, x.2⟩
/-- Copy jobs that a core's copy engine holds (R252). -/
def State.jobsHeld (s : State) (core : Nat) : Nat :=
  ((s.groups.filter fun g => g.core == core).map fun g => (g.bunches.map fun b => b.cp.cmds.countP fun c => c.done).sum).sum
/-- Nothing in the way of a command's start (R252, R253): no earlier unretired command of its chain (matrix), none not
started and a free place in the engine (copy), no edge from an earlier one of the bunch. -/
def State.canStart (s : State) (x : CmdAt) : Bool :=
  match x.g.bunches[x.bi]? with
  | none => false
  | some b =>
    let before := (b.mx.cmds ++ b.cp.cmds).filter fun y => decide (y.id < x.c.id)
    let asid := s.asidOf (s.ctxOfGroup x.g)
    !x.c.done && x.g.halted.isNone
      && (match x.e with
          | .mx => !(b.mx.cmds.any fun y => decide (y.id < x.c.id))
          | .cp => !(b.cp.cmds.any fun y => decide (y.id < x.c.id) && !y.done) && decide (s.jobsHeld x.g.core < Config.copyJobs))
      && !(before.any fun y => y.edge x.c asid x.g)
def State.modCmd (s : State) (x : CmdAt) (f : Cmd → Cmd) : State :=
  s.modBunch x.g.gid x.bi fun b =>
    let c := b.chain x.e
    b.setChain x.e { c with cmds := c.cmds.map fun y => if y.id = x.c.id then f y else y }
def State.finishCmd (s : State) (x : CmdAt) : State := s.modCmd x fun y => { y with done := true }
/-- A data error met by an engine (R258, R320), naming the command's lanes and the instruction that appended it. -/
def State.engineLog (s : State) (x : CmdAt) (lanes : Lanes) (a : Nat) : State :=
  s.log { s.logOf x.g x.bi lanes with kind := 3, code := Code.poison, addr := BitVec.ofNat 64 (a / 8 * 8), pc := x.c.pc }
/-- What the appending threads stored before to the command's footprint is performed at .dv first; their other stores are not
ordered with it (R186). -/
def State.engineOrder (s : State) (x : CmdAt) : State :=
  let asid := s.asidOf (s.ctxOfGroup x.g)
  let rs := x.c.footprint asid x.g
  let s := s.flushWhere x.g.gid x.bi x.c.lanes fun st => rs.any fun r => r.meets st.region
  let s := s.drainTo fun gid => rs.any fun r => r.key == .sp gid
  s.siBack x.g.core asid rs
/-- What an engine has sent to a window whose links have gone down is logged and lost (R288). -/
def State.engineLoses (s : State) (x : CmdAt) (lanes : Lanes) (pa : Nat) : State :=
  s.log { s.logOf x.g x.bi lanes with kind := 4, code := Code.linkTo, addr := BitVec.ofNat 64 pa, pc := x.c.pc }

/-! ## Matrix steps (R234, R240, R250) -/

/-- Element (r, k) of a tile, and its byte address. -/
def elemAddr (fmt : MmaFmt) (t : Tile) (r k : Nat) : Nat := t.base + r * t.pitch + k * fmt.bits / 8
def intVal (x : Int) : FVal := .fin (decide (x < 0)) x.natAbs 0
def elemVal (fmt : MmaFmt) (rd : Reading) (bs : List Byte) (k : Nat) : FVal :=
  let c := ofBytes bs
  let nib := c / 16 ^ (k % 2) % 16
  match fmt with
  | .f16 => fp16.read c
  | .bf16 => bf16.read c
  | .e4m3 => (e4m3 rd).read c
  | .e5m2 => (e5m2 rd).read c
  | .i8 => intVal (BitVec.ofNat 8 c).toInt
  | .i4 => intVal (BitVec.ofNat 4 nib).toInt
  | .q4 => q4Read nib
def elemBytes (fmt : MmaFmt) : Nat := if fmt.bits = 16 then 2 else 1
def Group.elem (g : Group) (fmt : MmaFmt) (rd : Reading) (t : Tile) (r k : Nat) : FVal :=
  elemVal fmt rd (Memory.readN g.sp (elemAddr fmt t r k) (elemBytes fmt)) k
def Group.elemBad (g : Group) (fmt : MmaFmt) (t : Tile) (r k : Nat) : Bool :=
  poisoned g.spPoison (elemAddr fmt t r k) (elemBytes fmt)
/-- Column c of the B tile, element k. -/
def bPos (t : Bool) (k c : Nat) : Nat × Nat := if t then (c, k) else (k, c)
/-- One accumulator element after a command (R234): depth/8 groups of eight products. -/
def Group.mmaElem (g : Group) (fmt : MmaFmt) (ra rb : Reading) (a b : Tile) (row k0 depth : Nat) (t : Bool) (c : Nat) (rm : RM) (old : Nat) : Nat :=
  (List.range (depth / 8)).foldl (fun x i =>
    groupStep rm x ((List.range 8).map fun j =>
      let k := 8 * i + j
      let p := bPos t k c
      mulExact (g.elem fmt ra a row (k0 + k)) (g.elem fmt rb b p.1 p.2))) old
/-- An operand of the element lies in a poisoned word (R258). -/
def Group.mmaBad (g : Group) (fmt : MmaFmt) (a b : Tile) (row k0 depth : Nat) (t : Bool) (c : Nat) : Bool :=
  (List.range depth).any fun k => let p := bPos t k c; g.elemBad fmt a row (k0 + k) || g.elemBad fmt b p.1 p.2
def nanWord : Word := 0x7FC00000
def AccRow.set' (r : AccRow) (c : Fin 16) (w : Word) (bad : Bool) : AccRow :=
  ⟨r.cols.set c.val w, if bad then r.poison ||| (1#16 <<< c.val) else r.poison⟩
/-- A column of a thread's accumulators, counted from the span's first. -/
def Thread.accCol (t : Thread) (f c : Nat) : Word × Bool :=
  let r := t.acc[(Fin.ofNat 8 (f + c / 16))]
  (r.cols[(Fin.ofNat 16 c)], r.poison.getLsbD (c % 16))
def Thread.setCol (t : Thread) (f c : Nat) (w : Word) (bad : Bool) : Thread :=
  let k : Fin 8 := Fin.ofNat 8 (f + c / 16)
  { t with acc := t.acc.set k.val (t.acc[k].set' (Fin.ofNat 16 c) w bad) }
/-- Poisoned words among regions of a scratchpad. -/
def Group.badWords (g : Group) (rs : List Region) : List Nat := g.spPoison.filter fun w => rs.any fun r => decide (r.lo < 8 * w + 8) && decide (8 * w < r.lo + r.len)
def State.mmaRun (s : State) (x : CmdAt) (fmt : MmaFmt) (f len : Nat) (a b : Tile) (ra rb : Reading) (k0 depth : Nat) (t : Bool) : State :=
  let s := s.engineOrder x
  match s.group? x.g.gid with
  | none => s
  | some g =>
    let s := s.modBunch g.gid x.bi fun bu => bu.mapThreads fun l th =>
      if x.c.lanes.getLsbD l.val then
        (List.range (16 * len)).foldl (fun th c =>
          let old := th.accCol f c
          let row := x.c.idx[l].toNat
          if g.mmaBad fmt a b row k0 depth t c then th.setCol f c nanWord true
          else th.setCol f c (BitVec.ofNat 32 (g.mmaElem fmt ra rb a b row k0 depth t c x.c.rm[l] old.1.toNat)) old.2) th
      else th
    (g.badWords (x.c.reads 0 g)).foldl (fun s w => s.engineLog x x.c.lanes (8 * w)) (s.finishCmd x)

/-! ## SCACC (R246, R247, R260) -/

def State.scaccRun (s : State) (x : CmdAt) (f len sf : Nat) (e : TEntry) (j : Nat) (rows clr : Bool) : State :=
  let s := s.engineOrder x
  match s.group? x.g.gid with
  | none => s
  | some g =>
    let s := s.modBunch g.gid x.bi fun bu => bu.mapThreads fun l th =>
      if x.c.lanes.getLsbD l.val then
        (List.range (16 * len)).foldl (fun th c =>
          let line := if rows then x.c.idx[l].toNat else c
          let bad := poisoned g.spPoison (e.scaleAt line j) 1 || poisoned g.spPoison (e.superAt line j) 4
          let sc := effScale x.c.rm[l] e.read (Memory.read g.sp (e.scaleAt line j)).toNat (ofBytes (Memory.readN g.sp (e.superAt line j) 4))
          let p := th.accCol sf c
          let old := th.accCol f c
          let th := if bad then th.setCol f c nanWord true
            else th.setCol f c (BitVec.ofNat 32 (fp32.fmad x.c.rm[l] old.1.toNat p.1.toNat sc).code) (old.2 || p.2)
          if clr then th.setCol sf c 0 p.2 else th) th
      else th
    (g.badWords (x.c.reads 0 g)).foldl (fun s w => s.engineLog x x.c.lanes (8 * w)) (s.finishCmd x)

/-! ## ACCADD (R262) -/

/-- The 64 bytes of a piece after it is added. -/
def accaddBytes (old : List Byte) (cols : Nat → Word) : List Byte :=
  wordBytes ((List.range 16).map fun c =>
    BitVec.ofNat 32 (fp32.add .rne (ofBytes ((old.drop (4 * c)).take 4)) (cols c).toNat).code)
/-- One piece of a lane, at its home point or scratchpad. -/
def State.accaddPiece (s : State) (x : CmdAt) (spc : ASpace) (l : Fin 32) (j f : Nat) : State :=
  match s.thread? x.g.gid x.bi l with
  | none => s
  | some th =>
    let a := x.c.addr[l] + 64 * j
    if (List.range 16).any fun c => (th.accCol (f + j) c).2 then s.engineLog x (laneBit l) a
    else
      let col := fun c => (th.accCol (f + j) c).1
      match spc with
      | .gl =>
        match x.c.pa[l][j]? with
        | none => s
        | some (pa, pte) =>
          if s.linkDown pa then s.engineLoses x (laneBit l) pa
          else if poisoned s.poison pa 64 then s.engineLog x (laneBit l) pa
          else
            let s := s.performStores fun y => y.core == x.g.core && y.cached && y.pa / 512 == pa / 512
            let s := State.openBlock (pa / 512) (s.reqs.length + 1) s
            let s := (s.dropOwn x.g.core pa 64 pte).dirInvalidate none pa 64 pte wWch
            let s := s.sliceTake (Pte.key pte) (pa / 512) (sectorsOf (pa % 512) 64)
            s.putHome pte pa (accaddBytes (s.readAs (Pte.key pte) pa 64) col)
      | _ =>
        let gid := if spc == .sp then x.g.gid else x.c.target[l]
        match s.group? gid with
        | none => s
        | some y =>
          let off := a % 2 ^ 20
          if y.left && gid != x.g.gid then s
          else if poisoned y.spPoison off 64 then s.engineLog x (laneBit l) off
          else
            let s := (s.performStores fun z => z.place.1 == 1 && z.place.2.1 == gid && z.place.2.2 / 8 == off / 64).drainTo fun k => k == gid
            match s.group? gid with
            | none => s
            | some y => s.modGroup gid fun g => g.spWrite off (accaddBytes (Memory.readN y.sp off 64) col)
def State.accaddRun (s : State) (x : CmdAt) (f len : Nat) (spc : ASpace) : State :=
  let s := (lanesOf x.c.lanes).foldl (fun s l => (List.range len).foldl (fun s j => s.accaddPiece x spc l j f) s) (s.engineOrder x)
  s.finishCmd x

/-! ## Copy jobs (R265) -/

/-- The captured translation of an address. -/
def pageFind (pages : List (Nat × Nat × Pte)) (a : Nat) : Option Xl :=
  (pages.find? fun p => p.1 == a / 32768).map fun p => ⟨p.2.1 + a % 32768, p.2.2⟩
/-- A 4-byte word of a copy's source, and whether it is poisoned; of another quarter whose group has left, 0 (R145). -/
def State.copyWord (s : State) (x : CmdAt) (spc : ASpace) (gid : Nat) (pages : List (Nat × Nat × Pte)) (a : Nat) : State × List Byte × Bool :=
  let blank := (s, List.replicate 4 0, false)
  match spc with
  | .gl =>
    match pageFind pages a with
    | none => blank
    | some xl => s.loadNow x.g.core (s.asidOf (s.ctxOfGroup x.g)) a xl 4
  | .chs =>
    match (s.launch? x.g.launch).bind fun l => l.windows.find? fun w => w.stack == chsStack a with
    | some w => (s, Memory.readN w.bytes (chsOffset a) 4, poisoned w.poison (chsOffset a) 4)
    | none => blank
  | _ =>
    match (s.group? gid).filter fun g => !g.left || gid == x.g.gid with
    | some g => (s, Memory.readN g.sp (a % 2 ^ 20) 4, poisoned g.spPoison (a % 2 ^ 20) 4)
    | none => blank
/-- One word, or two, of a copy's source. -/
def State.copyRead (s : State) (x : CmdAt) (spc : ASpace) (gid : Nat) (pages : List (Nat × Nat × Pte)) (a n : Nat) : State × List Byte × Bool :=
  let v := s.copyWord x spc gid pages a
  if n = 4 then v
  else
    let w := v.1.copyWord x spc gid pages (a + 4)
    (w.1, v.2.1 ++ w.2.1, v.2.2 || w.2.2)
def addIf (m : Bool) (p : List Nat) (a : Nat) : List Nat := if m then addPoison p (a / 8) else p
/-- A .gl destination word of an engine. -/
def State.copyGl (s : State) (x : CmdAt) (asid a : Nat) (xl : Xl) (bs : List Byte) (m : Bool) : State :=
  if s.linkDown xl.pa then s.engineLoses x x.c.lanes xl.pa
  else
    let s := s.storeHome x.g.core asid a xl bs
    if m then s.markWord x.g.core asid a xl else s
/-- The space of a store that goes where an engine's space is. -/
def storeSpace (spc : ASpace) : Space := match spc with | .gl => .gl | .sp => .sp | .csm => .csm | .chs => .chs
/-- A destination word of 4 or 8 bytes, marked where its source was poisoned; words merged into and left poisoned are logged
(R195). In another quarter whose group has left it is discarded (R145). -/
def State.copyWrite (s : State) (x : CmdAt) (spc : ASpace) (gid : Nat) (pages : List (Nat × Nat × Pte)) (a : Nat) (bs : List Byte) (m : Bool) : State :=
  let asid := s.asidOf (s.ctxOfGroup x.g)
  let pa := match pageFind pages a with | some xl => xl.pa | none => 0
  if (spc == .csm || spc == .sp) && gid != x.g.gid && !((s.group? gid).any fun g => !g.left) then s
  else
  let s := (s.mergesAt x.g.core asid (storeSpace spc) gid x.g.launch a pa bs.length).foldl (fun s w => s.engineLog x x.c.lanes w) s
  match spc with
  | .gl =>
    match pageFind pages a with
    | none => s
    | some xl => s.copyGl x asid a xl bs m
  | .chs =>
    s.modLaunch x.g.launch fun l =>
      let l := l.chsWrite (chsStack a) (chsOffset a) bs
      { l with windows := l.windows.map fun w => if w.stack = chsStack a then { w with poison := addIf m w.poison (chsOffset a) } else w }
  | _ =>
    s.modGroup gid fun g => let g := g.spWrite (a % 2 ^ 20) bs; { g with spPoison := addIf m g.spPoison (a % 2 ^ 20) }
/-- The pieces of a row: the aligned 8-byte words of the destination that it covers, and 4-byte words at its ends. -/
def copyPieces : Nat → Nat → Nat → Nat → List (Nat × Nat × Nat)
  | 0, _, _, _ => []
  | fuel + 1, sa, da, n =>
    if n = 0 then []
    else
      let k := if da % 8 = 0 ∧ 8 ≤ n then 8 else 4
      (sa, da, k) :: copyPieces fuel (sa + k) (da + k) (n - k)
def State.copyRun (s : State) (x : CmdAt) (job : CopyJob) : State :=
  let s := s.engineOrder x
  let s := (List.range job.rows).foldl (fun s r =>
    (copyPieces (job.len / 4) (job.sa + r * job.spitch) (job.da + r * job.dpitch) job.len).foldl (fun s p =>
      let v := s.copyRead x job.ss job.sgid job.spages p.1 p.2.2
      v.1.copyWrite x job.ds job.dgid job.dpages p.2.1 v.2.1 v.2.2) s) s
  let asid := s.asidOf (s.ctxOfGroup x.g)
  (s.siBack x.g.core asid (x.c.writes asid x.g)).finishCmd x

/-! ## The steps -/

/-- Commands of every group, each where it stands. -/
def State.allCmds (s : State) : List CmdAt :=
  s.groups.flatMap fun g => ((List.range g.bunches.length).zip g.bunches).flatMap fun p =>
    (p.2.mx.cmds.map fun c => ⟨g, p.1, .mx, c⟩) ++ (p.2.cp.cmds.map fun c => ⟨g, p.1, .cp, c⟩)
/-- How far a bunch's slot lies after the one its core's matrix engine served last (R252). -/
def State.turnOf (s : State) (x : CmdAt) : Nat :=
  let last := ((s.mxTurn.find? fun t => t.1 == x.g.core).map fun t => t.2).getD (Config.maxBunches - 1)
  match x.g.bunches[x.bi]? with
  | some b => (b.slot + Config.maxBunches - last - 1) % Config.maxBunches
  | none => 0
/-- A matrix engine serves the heads of its core's chains in turn: no head that may start comes before this one (R252). -/
def State.inTurn (s : State) (x : CmdAt) : Bool :=
  x.e != .mx || s.allCmds.all fun y => !(y.e == .mx && y.g.core == x.g.core && s.canStart y && decide (s.turnOf y < s.turnOf x))
/-- The command the event names, where it may start and is of the kind. -/
def State.startable (s : State) : Option CmdAt := (s.cmdAt s.event.a).filter fun x => s.canStart x && s.inTurn x
def State.takeTurn (s : State) (x : CmdAt) : State :=
  match x.g.bunches[x.bi]? with
  | some b => { s with mxTurn := (x.g.core, b.slot) :: s.mxTurn.filter fun t => t.1 != x.g.core }
  | none => s

/-- The matrix engine performs a step. (R234, R252) -/
def execMmaExecute (s : State) : Host.Outcome State Fault Refusal :=
  match s.startable with
  | some x => match x.c.op with
    | .mma fmt f len a b ra rb k0 depth t => .next ((s.mmaRun x fmt f len a b ra rb k0 depth t).takeTurn x)
    | _ => .next s
  | none => .next s

/-- The matrix engine performs a SCACC. (R260) -/
def execScaccExecute (s : State) : Host.Outcome State Fault Refusal :=
  match s.startable with
  | some x => match x.c.op with
    | .scacc f len sf e j rows clr => .next ((s.scaccRun x f len sf e j rows clr).takeTurn x)
    | _ => .next s
  | none => .next s

/-- The matrix engine applies an ACCADD's pieces. (R262) -/
def execAccaddExecute (s : State) : Host.Outcome State Fault Refusal :=
  match s.startable with
  | some x => match x.c.op with
    | .accadd f len spc => .next ((s.accaddRun x f len spc).takeTurn x)
    | _ => .next s
  | none => .next s

/-- The copy engine performs a job. (R265) -/
def execCopyJobExecute (s : State) : Host.Outcome State Fault Refusal :=
  match s.startable with
  | some x => match x.c.op with
    | .copy job => .next (s.copyRun x job)
    | _ => .next s
  | none => .next s

/-- A performed command leaves its chain (R252): batches complete, waiting instructions go on, a synchronous form retires. -/
def State.retire (s : State) (x : CmdAt) : State :=
  let s := s.modBunch x.g.gid x.bi fun b =>
    let c := b.chain x.e
    let b := (b.setChain x.e { c with cmds := c.cmds.filter fun y => y.id != x.c.id }).settle x.e
    b.mapThreads fun _ t => if t.await == .command x.c.id then { t with await := .none } else t
  (s.engineFrees x.g.core).reap
/-- The command the event names retires. (R252, R235) -/
def execEngineCommandRetire (s : State) : Host.Outcome State Fault Refusal :=
  match s.cmdAt s.event.a with
  | some x => if x.c.done then .next (s.retire x) else .next s
  | none => .next s

/-! ## Pickers (R267 to R269) -/

def Sub.slotOf (u : Sub) (k : Nat) : Nat := k % u.nslot
def Sub.wordAt (u : Sub) (k : Nat) : Nat := u.rbase + 4 * u.slotOf k
def Sub.dataAt (u : Sub) (k r : Nat) : Nat := u.rbase + 256 + u.slotOf k * slotBytes u.trows u.w + r * u.w
def Sub.tileAt (u : Sub) (base k r : Nat) : Nat := base + (k * u.trows + r) * u.pitch
/-- 4-byte words from a place on, marked where a tile's are poisoned. -/
def markWords (p : List Nat) (a : Nat) : List Bool → List Nat
  | [] => p
  | m :: ms => markWords (if m then addPoison p (a / 8) else p) (a + 4) ms
/-- ST of the state word of tile k's slot. -/
def Group.ringState (g : Group) (u : Sub) (k : Nat) : Nat := ofBytes (Memory.readN g.sp (u.wordAt k) 4) / 2 ^ 30
def stateWord (st k : Nat) : List Byte := wordBytes [BitVec.ofNat 32 (st * 2 ^ 30 + k % 2 ^ 30)]
def State.putSub (s : State) (u : Sub) : State := { s with subs := s.subs.map fun (x : Sub) => if x.id = u.id then u else x }
/-- Slots handed back as FREE are known to be free; the last tile's ends the subscription. -/
def Sub.reconcile (u : Sub) (g : Group) : Sub :=
  let back := u.full.filter fun k => g.ringState u k == 0
  { u with full := u.full.filter (fun k => g.ringState u k != 0), ending := u.ending || back.any fun k => k + 1 == u.n }
/-- Bytes from memory in pieces of 16: translated and read as .dv loads, from local HBM alone. -/
def State.tileRead (s : State) (g : Group) (ctx : Nat) : Nat → Nat → State × Except (Nat × Nat) (List Byte × List Bool)
  | 0, _ => (s, .ok ([], []))
  | n + 1, a =>
    match s.xlate g.core ctx a .load with
    | (s, .error c) => (s, .error (c, a))
    | (s, .ok x) =>
      if windowOf x.pa != .local_ then (s, .error (0, a))
      else
        let s := s.sliceTake (Pte.key x.pte) (x.pa / 512) (sectorsOf (x.pa % 512) 16)
        let bs := s.readAs (Pte.key x.pte) x.pa 16
        let ms := (List.range 4).map fun i => poisoned s.poison (x.pa + 4 * i) 4
        match s.tileRead g ctx n (a + 16) with
        | (s, .error e) => (s, .error e)
        | (s, .ok r) => (s, .ok (bs ++ r.1, ms ++ r.2))
def State.tileRows (s : State) (g : Group) (ctx : Nat) (u : Sub) (k : Nat) : List Nat → State × Except (Nat × Nat) (List (Nat × List Byte × List Bool))
  | [] => (s, .ok [])
  | r :: rs =>
    match s.tileRead g ctx (u.w / 16) (u.tileAt u.taddr k r) with
    | (s, .error e) => (s, .error e)
    | (s, .ok v) =>
      match s.tileRows g ctx u k rs with
      | (s, .error e) => (s, .error e)
      | (s, .ok l) => (s, .ok ((r, v.1, v.2) :: l))
/-- A picker writes the state word of a tile's slot: a word it merges into and leaves poisoned is logged (R195). -/
def State.putState (s : State) (g : Group) (u : Sub) (k st : Nat) : State :=
  let now := (s.group? g.gid).getD g
  ((partWords now.spPoison (u.wordAt k) 4).foldl (fun s w =>
    s.log { s.logOf g u.bunch 0 with kind := 3, code := Code.poison, addr := BitVec.ofNat 64 (8 * w) }) s).modGroup g.gid fun g =>
      g.spWrite (u.wordAt k) (stateWord st k)
/-- A bad tile (R268): FAULT in the slot due next, a KIND 4 entry, and the end. -/
def State.pickerFault (s : State) (g : Group) (u : Sub) (k : Nat) (e : Nat × Nat) : State :=
  let s := s.log { s.logOf g u.bunch 0 with kind := 4, code := e.1, addr := BitVec.ofNat 64 e.2 }
  (s.putState g u k 3).putSub { u with ending := true }
/-- The subscription the event names, its group resident and running. -/
def State.liveSub (s : State) : Option (Sub × Group) :=
  (s.subs.find? fun u => u.id == s.event.a && !u.ending).bind fun u =>
    ((s.group? u.gid).filter fun g => !g.left && g.halted.isNone).map fun g => (u, g)

/-- A picker fills the slot due next where its state word is FREE. (R268) -/
def execPickerFill (s : State) : Host.Outcome State Fault Refusal :=
  match s.liveSub with
  | none => .next s
  | some (u, g) =>
    let u := u.reconcile g
    if u.ending || decide (u.n ≤ u.next) || g.ringState u u.next != 0 || (u.full.any fun k => u.slotOf k == u.slotOf u.next) then .next (s.putSub u)
    else
      match s.tileRows g (s.ctxOfGroup g) u u.next (List.range u.trows) with
      | (s1, .error e) =>
        .next (if s.meetsMove g e.1 (BitVec.ofNat 64 e.2) then s else s1.pickerFault g u u.next e)
      | (s, .ok rows) =>
        let s := rows.foldl (fun s r => s.modGroup g.gid fun g =>
          let g := g.spWrite (u.dataAt u.next r.1) r.2.1
          { g with spPoison := markWords g.spPoison (u.dataAt u.next r.1) r.2.2 }) s
        .next ((s.putState g u u.next 1).putSub
          { u with next := u.next + 1, full := u.full ++ [u.next] })

/-- Rows of a slot go back to memory, in pieces of 16 bytes. -/
def State.pullRows (s : State) (g : Group) (ctx : Nat) (u : Sub) (k : Nat) : List (Nat × Nat) → State × Except (Nat × Nat) Unit
  | [] => (s, .ok ())
  | (r, i) :: rs =>
    let a := u.tileAt u.paddr k r + 16 * i
    match s.xlate g.core ctx a .store with
    | (s, .error c) => (s, .error (c, a))
    | (s, .ok x) =>
      let from_ := u.dataAt k r + 16 * i
      let s := State.openBlock (x.pa / 512) (s.reqs.length + 1) s
      let s := (s.dirInvalidate none x.pa 16 x.pte wWch).putHome x.pte x.pa (Memory.readN g.sp from_ 16)
      let s := { s with poison := markWords s.poison x.pa ((List.range 4).map fun j => poisoned g.spPoison (from_ + 4 * j) 4) }.peerFresh
        (x.pa / 512) (sectorsOf (x.pa % 512) 16)
      s.pullRows g ctx u k rs
/-- A slot handed back as DONE is pulled back, where the card asks for it, and becomes FREE. (R268) -/
def execPickerPullback (s : State) : Host.Outcome State Fault Refusal :=
  match s.liveSub with
  | none => .next s
  | some (u, g) =>
    match u.full.find? fun k => g.ringState u k == 2 with
    | none => .next s
    | some k =>
      let done := fun (s : State) =>
        (s.putState g u k 0).putSub
          { u with full := u.full.filter (fun j => j != k), ending := u.ending || k + 1 == u.n }
      if u.paddr = 0 then .next (done s)
      else
        let cells := (List.range u.trows).flatMap fun r => (List.range (u.w / 16)).map fun i => (r, i)
        match s.pullRows g (s.ctxOfGroup g) u k cells with
        | (s1, .error e) =>
          .next (if s.meetsMove g e.1 (BitVec.ofNat 64 e.2) then s else s1.pickerFault g u u.next e)
        | (s, .ok ()) => .next (done s)

/-- The pickers acknowledge an ended subscription; its handle is free. (R269) -/
def execPickerAcknowledge (s : State) : Host.Outcome State Fault Refusal :=
  .next { s with subs := s.subs.filter fun u => !(u.id == s.event.a && u.ending) }

end Sys2Proof.Machine
end

