-- ==== Sys2Proof/Machine/MemorySteps.lean ====
section
/-! DEFINITION. Machine/MemorySteps.lean: the steps of the memory system, of the wake sources and of the ports, links,
outside agents and firmware: what reaches a core, a slice or a home point, and when (R67, R70, R77, R96, R145, R156,
R164, R165, R167, R172, R192, R199, R274, R275, R288, R290, R294, R295). A step that is not due changes nothing. -/

namespace Sys2Proof.Machine

/-! ## Requests and slices (R164) -/

/-- The slice and the tag pipeline that a request goes to: of the home stack, or for a peer's memory of the reading stack
(R163, R164, R188). -/
def Req.slice (r : Req) : Nat × Nat × Nat :=
  (if isLocal (512 * r.blk) then homeStack (512 * r.blk) else coreStack r.core, sliceOf r.blk, slicePipe r.blk)
/-- The migration whose old home holds an address (R289). -/
def State.migrationAt (s : State) (pa : Nat) : Option Migration := s.migrations.find? fun m => decide (m.old ≤ pa) && decide (pa < m.old + m.size)
/-- An earlier request of the core for the block has still to be accepted (R164), or the page's home is blocked (R289). -/
def State.reqBlocked (s : State) (r : Req) : Bool :=
  (s.reqs.any fun x => x.core == r.core && x.blk == r.blk && decide (x.id < r.id) && x.st != .accepted)
  || (r.cached && (s.migrationAt (512 * r.blk)).isSome)
/-- The request finds its block locked, or others waiting for it (R164). -/
def State.mustQueue (s : State) (r : Req) : Bool := s.isLocked r.blk || s.reqs.any fun x => x.blk == r.blk && x.st == .queued
/-- The conflict queue of its pipeline has room. -/
def State.queueRoom (s : State) (r : Req) : Bool :=
  decide (s.reqs.countP (fun x => x.st == .queued && x.slice == r.slice) < Config.conflictPlaces)

/-- A slice accepts the request the event names, or queues it behind a locked block; a full queue refuses it. (R164) -/
def execSliceRequest (s : State) : Host.Outcome State Fault Refusal :=
  match s.req? s.event.a with
  | none => .next s
  | some r =>
    if r.st != .sent || s.reqBlocked r then .next s
    else
      let s := s.eccFinds (s.recOfReq r) (r.lanes.head?.map fun x => .home x.pa)
      if s.mustQueue r then
        if s.queueRoom r then .next { s with reqs := (s.reqs.filter fun x => x.id != r.id) ++ [{ r with st := .queued }] }
        else .next s
      else .next (s.acceptReq r)

/-- The lock of the event's block clears: its fill from HBM or its atomic is done, and its conflict queue is replayed. (R164) -/
def execLineLockClear (s : State) : Host.Outcome State Fault Refusal := .next (s.endLock s.event.a)

/-- The answer of a load, or of a WATCH's fill, returns. (R192, R209) -/
def execLoadReturn (s : State) : Host.Outcome State Fault Refusal :=
  match s.req? s.event.a with
  | some r =>
    if r.cached && r.st == .accepted && !r.op.isAtomic then .next ((s.eccFinds (s.recOfReq r) none).loadReturn r) else .next s
  | none => .next s

/-- A run's atomic requests on a block are applied at the home point. (R199) -/
def execAtomicApply (s : State) : Host.Outcome State Fault Refusal :=
  match s.req? s.event.a with
  | some r => if r.cached && r.st == .accepted && r.op.isAtomic then .next (s.atomicApply r) else .next s
  | none => .next s

/-- The oldest remote .csm access for the group the event names reaches its core. (R145) -/
def execCsmRemoteArrival (s : State) : Host.Outcome State Fault Refusal :=
  match s.csmNet.findIdx? fun m => m.gid == s.event.a with
  | none => .next s
  | some i =>
    match s.csmNet[i]? with
    | none => .next s
    | some m => .next (({ s with csmNet := s.csmNet.eraseIdx i }.eccFinds (s.recOfCsm m) none).csmArrive m)

/-- An invalidation of the directory reaches the L1s that hold the event's address: for capacity (EVC), or for another
agent's write (WCH). (R165, R210) -/
def execDirectoryInvalidate (s : State) : Host.Outcome State Fault Refusal :=
  .next ((s.eccFinds { kind := 3 } (some (.home s.event.a))).dirInvalidate none s.event.a 1 0 (if s.event.b = 1 then wWch else wEvc))

/-- A walk for a core, context and address fills the cluster TLB or finds a fault, which the access meets again. (R156) -/
def execPageWalk (s : State) : Host.Outcome State Fault Refusal :=
  if 2 ^ 57 ≤ s.event.c then .next s else .next (s.pageOf s.event.a s.event.b s.event.c).1

/-- The oldest store inside the event's core is performed; or, with b = 1, the core's dirty SI grains go back, which names no
run in the log. (R172, R320) DESIGN CHOICE (log 73): of stores to different words, which R178 leaves unordered, the oldest
comes first. -/
def execStorePerformed (s : State) : Host.Outcome State Fault Refusal :=
  if s.event.b = 1 then .next ((s.eccFinds { kind := 3 } none).siRelease s.event.a)
  else
    match s.stores.find? fun st => st.core == s.event.a with
    | some o => .next ((s.eccFinds (s.storeRec o) none).performStores fun st => st.place == o.place)
    | none => .next (s.eccFinds { kind := 3 } none)

/-! ## Ports (R96) -/

/-- The oldest entry, or credit, on its way to a group. DESIGN CHOICE (log 74): R55 orders the entries of one thread through one
port alone; the model delivers a group's in the order they were sent. -/
def State.portArrives (s : State) (entry : Bool) : State :=
  match s.portNet.findIdx? fun m => m.gid == s.event.a && m.entry.isSome == entry with
  | none => s
  | some i =>
    match s.portNet[i]? with
    | none => s
    | some m =>
      { s with portNet := s.portNet.eraseIdx i }.modThread m.gid m.bunch m.lane fun t =>
        match m.entry with
        | some x => t.enter (Port.ofIdx m.port) x
        | none => t.credit (Port.ofIdx m.port)

/-- A pushed entry enters the paired queue and fires PRT. (R96, R68) -/
def execPortEntryArrival (s : State) : Host.Outcome State Fault Refusal := .next (s.portArrives true)

/-- A credit reaches the pusher and fires PRT. (R96, R68) -/
def execPortCreditArrival (s : State) : Host.Outcome State Fault Refusal := .next (s.portArrives false)

/-! ## Wake-ups (R67, R70, R77) -/

/-- Dozing threads of a bunch, of one issue of a DOZE, that satisfy a test. -/
def Bunch.dozers (b : Bunch) (p : Thread → Bool) (x : Reg × DWord × Nat) : Lanes :=
  laneSet fun l => match b.threads[l].st with | .dozing _ d pc k => (d, pc, k) == x && p b.threads[l] | _ => false
/-- The issues of DOZEs that threads of a bunch are in: register, address, and number. -/
def Bunch.dozes (b : Bunch) : List (Reg × DWord × Nat) :=
  (allLanes.filterMap fun l => match b.threads[l].st with | .dozing _ d pc k => some (d, pc, k) | _ => none).eraseDups
def State.endDozes (s : State) (gid bi : Nat) (p : Thread → Bool) : State :=
  match s.group? gid, s.bunch? gid bi with
  | some g, some b =>
    if g.halted.isSome then s
    else b.dozes.foldl (fun s x => let m := b.dozers p x; if m = 0 then s else s.endDoze gid bi x.1 x.2.1 x.2.2 m) s
  | _, _ => s

/-- Dozes of the event's bunch whose cycles have passed end with EXP. (R67, R69) -/
def execDozeExpiry (s : State) : Host.Outcome State Fault Refusal :=
  .next (s.endDozes s.event.a s.event.b fun t => t.expired s.clock)

/-- Dozes of the event's bunch for which an armed event has fired end. (R70) -/
def execWakeEvent (s : State) : Host.Outcome State Fault Refusal :=
  .next (s.endDozes s.event.a s.event.b fun t => t.pend != 0)

/-- The context of a launch stands saved (R322). -/
def State.isSaved (s : State) (lid : Nat) : Bool := (s.launch? lid).any fun l => s.saved.any fun v => v.ctx == l.ctx

/-- A due release of a tag: every core of the instance flips its phase and fires TRE in one cycle. (R76, R77) -/
def execTreeRelease (s : State) : Host.Outcome State Fault Refusal :=
  match s.treeDue.find? fun d => d.launch == s.event.a && d.tag.val == s.event.b && d.inst == s.event.c && decide (d.due ≤ s.clock) with
  | none => .next s
  | some d =>
    match s.launch? d.launch with
    | none => .next { s with treeDue := s.treeDue.filter fun x => x != d }
    | some l =>
      if s.isSaved l.id then .next s else
      let span := l.hdr.span d.tag.val
      let inside := fun (core : Nat) => instanceOf span core == d.inst
      let armed := fun (core : Nat) (b : Bunch) (t : Thread) =>
        ((((l.treeAt core d.tag).map fun x => x.waiters).getD 0) &&& slotBit b) != 0 && t.armedTag == some d.tag
      let release := fun (core : Nat) (b : Bunch) =>
        b.mapThreads fun _ t =>
          let u : Thread := { t with treeArr := t.treeArr &&& ~~~ (1#8 <<< d.tag.val) }
          if armed core b t then u.wake wTre else u
      let flip := fun (t : TreeCore) =>
        if t.tag == d.tag && inside t.core then { t with phase := !t.phase, arrived := 0, sent := false, waiters := 0 } else t
      let s0 : State := { s with treeDue := s.treeDue.filter fun x => x != d }
      let s1 : State := (s.groups.filter fun g => g.launch == l.id && inside g.core && !g.left).foldl (fun s g =>
        s.traceRelease g d.tag.val (((l.treeAt g.core d.tag).map fun t => !t.phase).getD false) true (armed g.core)) s0
      let s2 : State := { s1 with groups := s1.groups.map fun g =>
        if g.launch == l.id && inside g.core then { g with bunches := g.bunches.map (release g.core) } else g }
      .next (s2.modLaunch l.id fun l => { l with tree := l.tree.map flip })

/-- A run whose age count has reached 64 becomes urgent. (R63) -/
def execRunUrgent (s : State) : Host.Outcome State Fault Refusal :=
  .next (s.modBunch s.event.a s.event.b fun b => b.mapThreads fun _ t =>
    if decide (Config.urgentAge ≤ t.age) && t.urgent.isNone then { t with urgent := some s.clock } else t)

/-! ## Links and agents (R274, R288, R290) -/

/-- Every link to the event's agent goes down, or with b = 1 link a alone: with none left that is up, accesses to its window
fault with LINKTO. (R4, R288) -/
def execLinkDown (s : State) : Host.Outcome State Fault Refusal :=
  match s.event.agent with
  | .host => .next { s with hostDown := true }
  | .peer n =>
    .next { s with links := Vector.ofFn fun (i : Fin 24) =>
      let k := s.links[i]
      if k.1 = n ∧ (s.event.b ≠ 1 ∨ i.val = s.event.a) then (k.1, false) else k }

/-- A link to the event's agent is up again: link a of those to a peer, or the host's. (R288) -/
def execLinkUp (s : State) : Host.Outcome State Fault Refusal :=
  match s.event.agent with
  | .host => .next { s with hostDown := false }
  | .peer n =>
    .next { s with links := Vector.ofFn fun (i : Fin 24) =>
      let k := s.links[i]
      if k.1 = n ∧ i.val = s.event.a then (k.1, true) else k }

/-- An agent outside the module holds the location's home (R200). -/
def isFar (pa : Nat) : Bool :=
  match windowOf pa with
  | .peer _ => true
  | .hostCoherent => true
  | .hostPcie => true
  | _ => false
/-- One lane of an atomic some of whose completions do not come (R200, R274). Of a lost one the target's physical address is
logged; with how = 1 it was applied before. With how = 2 the completer has rejected it, and memory is unchanged. The other
lanes complete. -/
def State.farLane (s : State) (r : Req) (lost : Lanes) (how : Nat) (x : ReqLane) : State × LaneOut :=
  if lost.getLsbD x.lane.val || s.linkDown x.pa then
    if how = 2 then (s, outFault x.lane Code.atomSup x.addr)
    else
      let s := if how = 1 then (s.updateHome r x).1 else s
      (s.log { s.recOfReq r with kind := 4, code := Code.linkTo, addr := BitVec.ofNat 64 x.pa }, outFault x.lane Code.linkTo x.addr)
  else s.updateHome r x

/-- A run's atomic on a block of another agent ends, after what was accepted before it, some completions of it lost: of the lanes
`lost`, and of those behind links that are down. -/
def State.timeOut (s : State) (r : Req) (lost : Lanes) (how : Nat) : State :=
  let s := s.serveAll (s.before r)
  let o := actReq (fun s x => s.farLane r lost how x) r.lanes (s.clearFor r) []
  (o.1.afterAcquire r.core r.asid r.q).answer r o.2
/-- Completions of a system-scope atomic do not return, for the lanes of the mask c, or for all where it names none: they take
LINKTO, or with b = 2 ATOMSUP. With b = 1 the updates were applied before. (R200, R274) -/
def execLinkTimeout (s : State) : Host.Outcome State Fault Refusal :=
  match s.req? s.event.a with
  | none => .next s
  | some r =>
    if r.cached && r.op.isAtomic && r.st == .accepted && r.applied.isNone && isFar ((r.lanes.head?.map fun x => x.pa).getD 0) then
      let m := BitVec.ofNat 32 s.event.c
      .next (s.timeOut r (if m = 0 then 0xFFFFFFFF else m) s.event.b)
    else .next s

def State.incarnation (s : State) (a : Agent) : Nat := ((s.incarnations.find? fun x => x.1 == a).map fun x => x.2).getD 0
/-- A message of an agent declared dead, or with another incarnation than the agent's, is dropped and logged (R290): the number
has 16 bits. -/
def State.lateMessage (s : State) (a : Agent) (inc : Nat) : Bool := s.dead.contains a || decide (inc % 65536 ≠ s.incarnation a)
/-- Bytes written by a system-scope agent at their home (R170, R195). -/
def State.agentWrite (s : State) (pa : Nat) (bs : List Byte) : State := (s.logPoison { kind := 3 } pa bs.length).agentPut 0 pa bs
/-- What the directory records of an agent's line (R165, R290). -/
def State.noteLine (s : State) (a : Agent) (pa : Nat) (owned : Bool) : State :=
  { s with agentLines := ⟨a, pa / 512, owned⟩ :: s.agentLines.filter fun x => !(x.agent == a && x.blk == pa / 512) }
/-- An agent's atomic has found some bytes at its home and leaves others there, or leaves it unchanged; both fire the watches of
the grain (R165, R210). A poisoned target changes nothing and is logged (R195). -/
def State.agentUpdate (s : State) (pa size : Nat) (new : Option (List Byte)) : State :=
  let s := { s with busReply := s.physRead pa size }
  if poisoned s.poison pa size then s.log { kind := 3, code := Code.poison, addr := BitVec.ofNat 64 (pa / 8 * 8) }
  else match new with
    | some n => s.agentWrite pa n
    | none => s.dirInvalidate none pa size 0 wWch
def State.agentAtom (s : State) (code pa size : Nat) (b c : DWord) : State :=
  s.agentUpdate pa size (atomBytes (.atom code) size (s.physRead pa size) [lowWord b, highWord b] [lowWord c, highWord c])
def BusAccess.pa (x : Sys2Proof.BusAccess) : Nat :=
  match x with
  | .read pa _ => pa
  | .own pa => pa
  | .write pa _ => pa
  | .atom _ pa _ _ _ => pa
  | .cas16 pa _ _ => pa
  | .ack pa => pa
/-- Bytes that an access reaches. -/
def BusAccess.span (x : Sys2Proof.BusAccess) : Nat :=
  match x with
  | .read _ n => n
  | .own _ => 1
  | .write _ bs => bs.length
  | .atom _ _ size _ _ => size
  | .cas16 _ _ _ => 16
  | .ack _ => 0
/-- An access of an outside agent, served at its home as a system-scope agent's (R170, R200, R288); the directory records the
lines it takes, and forgets those it gives up. -/
def State.serveNow (s : State) (a : Agent) (x : BusAccess) : State :=
  match x with
  | .read pa n => { s with busReply := s.physRead pa n }.noteLine a pa false
  | .own pa => { s.dirInvalidate none pa 512 0 wWch with busReply := s.physRead (pa / 512 * 512) 512 }.noteLine a pa true
  | .write pa bs => { s.agentWrite pa bs with busReply := [] }
  | .atom code pa size b c => s.agentAtom code pa size b c
  | .cas16 pa old new => s.agentUpdate pa 16 (if s.physRead pa 16 == old && pa % 16 == 0 then some new else none)
  | .ack pa => { s with agentLines := s.agentLines.filter fun y => !(y.agent == a && y.blk == pa / 512) }
/-- It comes after what the slices have accepted for its blocks (R164). -/
def State.serve (s : State) (a : Agent) (x : BusAccess) : State := (s.openFor (BusAccess.pa x) (BusAccess.span x)).serveNow a x
/-- The same access at another place. -/
def BusAccess.at_ (x : Sys2Proof.BusAccess) (pa : Nat) : Sys2Proof.BusAccess :=
  match x with
  | .read _ n => .read pa n
  | .own _ => .own pa
  | .write _ bs => .write pa bs
  | .atom code _ size b c => .atom code pa size b c
  | .cas16 _ old new => .cas16 pa old new
  | .ack _ => .ack pa
/-- An access arrives: a late one is dropped and logged (R290), one to a page on the move waits at its old home (R289). -/
def State.inbound (s : State) (ok : Bool) : State :=
  let x := s.event.access
  if s.lateMessage s.event.agent s.event.b then s.log { kind := 4, addr := BitVec.ofNat 64 (BusAccess.pa x) }
  else if !ok then s
  else match s.migrationAt (BusAccess.pa x) with
    | some m => { s with migrations := s.migrations.map fun y =>
        if y.cmd = m.cmd then { y with queued := y.queued ++ [(s.event.agent, s.event.b, x)] } else y }
    | none => s.serve s.event.agent x

/-- A peer's access to local HBM is served at its home slice. (R288) -/
def execInboundPeerAccess (s : State) : Host.Outcome State Fault Refusal :=
  .next (s.inbound (windowOf (BusAccess.pa s.event.access) == .local_))

/-- An access of the host is served: local HBM, host memory, or the device window, whose registers it can read and whose
doorbells it can ring. (R170, R275) -/
def execHostInboundAccess (s : State) : Host.Outcome State Fault Refusal := .next (s.inbound true)

/-- A dead agent's line is scrubbed (R290): one it shared is released, one it owned is poisoned at its home and logged. -/
def State.scrub (s : State) (x : AgentLine) : State :=
  if x.owned then
    { s with poison := (List.range 64).foldl (fun p k => addPoison p (64 * x.blk + k)) s.poison }.log
      { kind := 3, code := Code.poison, addr := BitVec.ofNat 64 (512 * x.blk) }
  else s
/-- The trusted firmware raises the event's agent's incarnation and scrubs the directory entries that name it. (R290) -/
def execDeclareAgentDead (s : State) : Host.Outcome State Fault Refusal :=
  let a := s.event.agent
  let mine := s.agentLines.filter fun x => x.agent == a
  if !s.trustedRuns then .next s
  else .next (mine.foldl (fun s x => s.scrub x) { s with
    incarnations := (a, (s.incarnation a + 1) % 65536) :: s.incarnations.filter (fun x => x.1 != a)
    dead := if s.dead.contains a then s.dead else s.dead ++ [a]
    agentLines := s.agentLines.filter fun x => x.agent != a })

/-- An agent declared dead rejoins with its new incarnation. (R290) -/
def execAgentRejoin (s : State) : Host.Outcome State Fault Refusal :=
  .next { s with dead := s.dead.filter fun a => a != s.event.agent }

/-! ## Firmware, clock, reset (R127, R275, R293 to R295) -/

/-- A firmware image runs only where both signatures and its version verify; a failed one is logged, and with no image of its kind
in force before it, at first boot, the module stays in reset. (R294) -/
def execFirmwareImageVerify (s : State) : Host.Outcome State Fault Refusal :=
  let i := s.event.img
  if Config.signaturesVerify i.id && decide (s.fw.fused ≤ i.version) && (i.trusted || s.trustedRuns) then
    .next { s with fw := if i.trusted then { s.fw with trusted := some (i.id, i.version) } else { s.fw with untrusted := some (i.id, i.version) } }
  else
    let s := s.log { kind := 4 }
    .next { s with fw := { s.fw with held := s.fw.held || (if i.trusted then s.fw.trusted.isNone else s.fw.untrusted.isNone) } }

/-- The module leaves reset: every core's count starts at 0. Memory, firmware and the registers the firmware wrote stand;
a module that is held stays so until both images are in force. (R127, R294) -/
def execModuleReset (s : State) : Host.Outcome State Fault Refusal :=
  if s.fw.held && !(s.trustedRuns && s.untrustedRuns) then .next s
  else
    .next { State.reset with
      mem := s.mem, poison := s.poison, slices := s.slices, hbm := s.hbm, dev := s.dev, fw := { s.fw with held := false },
      links := s.links, hostDown := s.hostDown, incarnations := s.incarnations, dead := s.dead, agenda := s.agenda, fresh := s.fresh }

/-- The trusted firmware (b = 1) writes a device register; from any other agent the write is ignored. (R275) -/
def execRegisterWrite (s : State) : Host.Outcome State Fault Refusal :=
  if s.event.b != 1 || !s.trustedRuns then .next s
  else
    let o := s.event.a
    let v := s.event.pc
    let d := s.dev
    let d' :=
      if o = 0 then { d with qtbase := v }
      else if o = 8 then { d with ctxbase := v }
      else if o = 0x100 then { d with elbase := v }
      else if o = 0x110 then { d with rpcap := v }
      else if o = 0x118 then { d with modnum := v }
      else if 0x10 ≤ o ∧ o < 0x90 ∧ o % 16 = 0 then { d with jbase := d.jbase.set! ((o - 16) / 16) v }
      else d
    .next { s with dev := d' }

/-- The untrusted firmware, which acts only once its image is in force (R294), sets the clock of every core and cache die. (R295) -/
def execClockThrottle (s : State) : Host.Outcome State Fault Refusal :=
  if !s.untrustedRuns then .next s
  else .next { s with fw := { s.fw with clockLevel := s.event.a } }

/-- A junction at its limit halts every resident launch. (R295) -/
def execThermalHalt (s : State) : Host.Outcome State Fault Refusal :=
  .next ((s.launches.filterMap fun l => (s.groups.find? fun g => g.launch == l.id && !g.left).map fun g => g).foldl
    (fun s g => s.halt g.gid ⟨4, 0, 0, 0, 0, 0, BitVec.ofNat 32 g.num, g.core, 0⟩) s)

end Sys2Proof.Machine
end

