-- ==== Sys2Proof/Machine/Easel.lean ====
section
/-! DEFINITION. Machine/Easel.lean: what the easels' steps share: their reads and writes of software's structures, queue
entries and the journal (R276 to R279), the acceptance and the end of commands (R278), launch headers (R282). -/

namespace Sys2Proof.Machine

/-! ## Memory as an easel sees it (R277, R279): home points, through a context's tables -/

/-- The leaf of a page on the move, as it stood before: an easel's own accesses are no thread's, and go on at the old home until
the copy takes what they find and leave to the new one (R289, log 28). -/
def State.oldLeaf (s : State) (va root : Nat) : Option Leaf :=
  (s.invalidEntry va 3 root).bind fun a => (s.migrations.find? fun m => m.leaves.contains a.1).map fun _ =>
    ⟨s.physDword a.1 ||| 1, va / a.2 * a.2, a.2⟩
/-- An easel's walk of the tables from a root. -/
def State.easelWalk (s : State) (va root : Nat) : Except Nat Leaf :=
  match s.walkFrom va 3 root with
  | .ok l => .ok l
  | .error c => match s.oldLeaf va root with | some l => .ok l | none => .error c
/-- A walk of a context's tables, from the root in force (R281), and the checks of the leaf. -/
def State.easelXlate (s : State) (ctx va : Nat) (n : Need) : Except Nat Xl :=
  if 2 ^ 57 ≤ va then .error Code.addr
  else
    match s.easelWalk va (s.ctxOf ctx).2 with
    | .error c => .error c
    | .ok l =>
      let pa := Pte.pa l.pte + (va - l.base)
      match s.leafCheck l.pte pa n with
      | some c => .error c
      | none => .ok ⟨pa, l.pte⟩
/-- n bytes, in pieces within pages; the first argument bounds the pieces. -/
def State.easelRead (s : State) (ctx : Nat) : Nat → Nat → Nat → Except Nat (List Byte)
  | 0, _, _ => .ok []
  | k + 1, va, n =>
    if n = 0 then .ok []
    else
      let m := min n (32768 - va % 32768)
      match s.easelXlate ctx va .load with
      | .error c => .error c
      | .ok x =>
        if poisoned s.poison x.pa m then .error Code.poison
        else
          match s.easelRead ctx k (va + m) (n - m) with
          | .error c => .error c
          | .ok bs => .ok (s.readAs (Pte.key x.pte) x.pa m ++ bs)
/-- Bytes of a structure of n bytes at an address. -/
def State.readStruct (s : State) (ctx va n : Nat) : Except Nat (List Byte) := s.easelRead ctx (n / 32768 + 2) va n
/-- A write of n bytes within one page; a failure is logged (R320). -/
def State.easelWrite (s : State) (e : LogRec) (ctx va : Nat) (bs : List Byte) : State :=
  let s := s.useCtx ctx
  match s.easelXlate ctx va .store with
  | .ok x => (s.logPoison { e with kind := 3 } x.pa bs.length).agentPut (Pte.key x.pte) x.pa bs
  | .error c => s.log { e with kind := 4, code := c, addr := BitVec.ofNat 64 va, ctx := ctx }
/-- A little-endian field of a structure. -/
def field (bs : List Byte) (off n : Nat) : Nat := ofBytes ((bs.drop off).take n)

/-! ## Queues (R276) -/

structure QEntry where
  q : Nat
  base : Nat
  ring : Nat
  ctx : Nat
  easel : Nat
  prio : Nat
  log2 : Nat
  deriving DecidableEq, Repr
def State.queueBase (s : State) (q : Nat) : Nat := s.dev.qtbase.toNat + 32 * q
/-- The queue-table entry, and whether it breaks its layout. -/
def State.queueAt (s : State) (q : Nat) : QEntry × Bool :=
  let base := s.queueBase q
  let w := (s.physWord (base + 8)).toNat
  (⟨q, base, (s.physDword base).toNat, w / 65536 % 4096, w / 256 % 8, w / 16 % 8, w % 16⟩,
   w / 2 ^ 28 != 0 || w / 4096 % 16 != 0 || w / 128 % 2 != 0 || s.physWord (base + 12) != 0 || s.physWord (base + 28) != 0
     || decide (w % 16 < 4) || decide (14 < w % 16))
def State.queueOn (s : State) (q : Nat) : Bool := (s.physWord (s.queueBase q + 8)).getLsbD 11
/-- Queues whose entries hold a byte that is not blank: the others are disabled, and no poll reads them. -/
def State.queuesListed (s : State) : List Nat :=
  let lo := s.dev.qtbase.toNat
  ((s.mem.filter fun c => decide (lo ≤ c.1) && decide (c.1 < lo + 32 * Config.queues)).map fun c => (c.1 - lo) / 32).eraseDups

/-! ## The journal (R279) -/

/-- STATE of a journal entry. -/
def jAccepted : Nat := 1
def jCompleted : Nat := 2
def jFailed : Nat := 3

/-- An easel writes its next journal entry; then JCOUNT rises. -/
def State.journal (s : State) (e q st op : Nat) (index : Word) (status : Nat) : State :=
  let i : Fin 8 := Fin.ofNat 8 e
  let n := s.dev.jcount[i]
  let bs := toBytes 8 (n + 1) ++ toBytes 4 (BitVec.ofNat 64 (st * 2 ^ 28 + q % 16384 * 256 + op % 256)) ++ toBytes 4 (index.setWidth 64)
    ++ toBytes 4 (BitVec.ofNat 64 status) ++ toBytes 4 0 ++ toBytes 8 (BitVec.ofNat 64 s.ecyc[i])
  let s := s.agentWrite (s.dev.jbase[i].toNat + 32 * (n.toNat % Config.journalRing)) bs
  { s with dev := { s.dev with jcount := s.dev.jcount.set i.val (n + 1) } }

/-! ## Status codes (R280) -/

namespace Status
def badOp : Nat := 1
def badHdr : Nat := 2
def placeFail : Nat := 3
def xlate : Nat := 4
def predFail : Nat := 5
def halted : Nat := 6
def refused : Nat := 7
def keyBad : Nat := 8
def linkDown : Nat := 9
/-- A structure of the command does not translate, or lies behind a link that is down. -/
def ofFault (c : Nat) : Nat := if c = Code.linkTo then linkDown else xlate
end Status

/-! ## Launch headers (R282) -/

/-- Widths and extents of the fields a header names, and whether the unused ones are 0 and each extent fits. -/
def headerFields (bs : List Byte) (f : Nat) : List Nat × List Nat × Bool :=
  let w := fun k => field bs 24 8 / 2 ^ (5 * k) % 32
  let x := fun k => field bs (32 + 4 * k) 4
  ((List.range f).map fun k => w k + 1, (List.range f).map fun k => x k + 1,
   (List.range 6).all fun k => if k < f then decide (x k < 2 ^ (w k + 1)) else w k == 0 && x k == 0)
/-- The limits on thread and group counts (R59); of a basket's header its own fields are replaced (R287). -/
def headerShapeOk (bs : List Byte) (firing : Bool) : Bool :=
  let f := field bs 20 4 % 8
  let gl := field bs 20 4 / 8 % 8
  let n := field bs 8 4
  let s := headerFields bs f
  if firing then n == 1
  else
    decide (1 ≤ f) && decide (f ≤ 6) && decide (1 ≤ gl) && decide (gl ≤ f) && s.2.2 && decide (s.1.sum ≤ 64)
    && (s.2.1.take gl).prod == field bs 12 4 % 1024 + 1 && (s.2.1.drop gl).prod == n
/-- The header in 128 bytes: none where it breaks a limit. -/
def headerOf (bs : List Byte) (firing : Bool) : Option Header :=
  let u := field bs
  let w0c := u 12 4
  let w10 := u 16 4
  let w14 := u 20 4
  let w3c := u 60 4
  let w4c := u 76 4
  let w58 := u 88 4
  let lps := u 72 4
  let g := w4c % 256
  let s := headerFields bs (w14 % 8)
  let reserved := w0c / 2 ^ 26 != 0 || w10 / 2 ^ 21 != 0 || w14 / 64 != 0 || u 24 8 / 2 ^ 30 != 0 || u 56 4 / 65536 != 0
    || w3c / 65536 != 0 || w3c / 64 % 4 != 0 || w4c / 2 ^ 18 != 0 || w58 / 2 ^ 13 != 0 || u 92 4 != 0
  let limits := u 8 4 == 0 || u 0 8 % 4 != 0 || decide (48 < w0c / 2 ^ 20 % 64) || decide (8 < w0c / 65536 % 16) || w10 % 512 != 0
    || decide (2 ^ 20 < w10) || w3c / 16 % 4 == 3 || decide (5 < w3c % 16) || lps == 0 || lps % 32768 != 0 || decide (lps ≤ 256 + 32 * g)
    || decide (512 < w4c / 256 % 1024) || u 80 8 % 16 != 0 || decide (4096 < w58)
    || ((w3c % 16 == 2 || w3c % 16 == 3) && decide (12 < u 8 4))
  if reserved || limits || !headerShapeOk bs firing then none
  else some {
    code := BitVec.ofNat 64 (u 0 8), ngroup := u 8 4, nbar := w0c / 2 ^ 20 % 64, accum := w0c / 65536 % 16,
    regs := w0c / 1024 % 64 + 1, t := if firing then 32 else w0c % 1024 + 1, scratch := w10,
    gl := if firing then 2 else w14 / 8 % 8, widths := if firing then [5, 5] else s.1, exts := if firing then [32, 1] else s.2.1,
    tags := (List.range 8).map fun k => u 56 4 / 4 ^ k % 4, stackMask := w3c / 256 % 256, kind := w3c / 16 % 4, shape := w3c % 16,
    lpb := u 64 8, lps := lps, chsz := w4c / 256 % 1024, g := g, ttbase := u 80 8, ttcount := w58,
    args := (List.range 8).map fun k => BitVec.ofNat 32 (u (96 + 4 * k) 4) }
/-- A header at an address, read once: the header, or the status that fails its command. -/
def State.readHeader (s : State) (ctx : Nat) (va : DWord) (firing : Bool) : Except Nat Header :=
  if va.toNat % 128 != 0 then .error Status.badHdr
  else
    match s.readStruct ctx va.toNat 128 with
    | .error c => .error (Status.ofFault c)
    | .ok bs => match headerOf bs firing with | some h => .ok h | none => .error Status.badHdr
/-- The header of a LAUNCH, or the status that its reading or its check against an empty module fails the command with (R282,
R283). -/
def State.captureHeader (s : State) (ctx : Nat) (va : DWord) : Nat ⊕ Header :=
  match s.readHeader ctx va false with
  | .ok h => if h.placeable then .inr h else .inl Status.placeFail
  | .error st => .inl st

/-! ## Commands (R278) -/

namespace Op
def launch : Nat := 1
def graph : Nat := 2
def basket : Nat := 3
def settle : Nat := 4
def tlbinv : Nat := 5
def migrate : Nat := 6
def keyload : Nat := 7
def wait : Nat := 8
end Op

def State.command? (s : State) (id : Nat) : Option Command := s.commands.find? fun c => c.id == id
def State.modCommand (s : State) (id : Nat) (f : Command → Command) : State :=
  { s with commands := s.commands.map fun c => if c.id = id then f c else c }
/-- Address and value of the completion word a command names; address 0 names none. -/
def Command.completion (c : Command) : DWord × DWord :=
  if c.op = Op.launch then (c.b, c.c) else if c.op = Op.graph then (c.c, c.d) else (0, 0)
/-- The end of a command: the journal entry, then DONE, then the completion word (R278, R279). -/
def State.endCommand (s : State) (c : Command) (status : Nat) : State :=
  let s := s.journal c.easel c.queue (if status = 0 then jCompleted else jFailed) c.op c.index status
  let a := s.queueBase c.queue + 24
  let s := s.agentWrite a (toBytes 4 ((s.physWord a + 1).setWidth 64))
  let w := c.completion
  let s := if w.1 = 0 || w.1.toNat % 8 != 0 then s
    else s.easelWrite { kind := 4, easel := c.easel, queue := c.queue, index := c.index } c.ctx w.1.toNat (toBytes 8 w.2)
  { s with commands := s.commands.filter fun x => x.id != c.id }
/-- Operands of a command by its OP; none for an unknown one. -/
def operandsOf (op : Nat) : Option Nat :=
  match op with
  | 1 => some 3
  | 2 => some 4
  | 3 => some 1
  | 4 => some 2
  | 5 => some 2
  | 6 => some 2
  | 7 => some 2
  | 8 => some 0
  | _ => none
/-- Operands outside their limits (R278). -/
def Command.badOperands (c : Command) : Bool :=
  let n := c.b.toNat
  let page := c.a.toNat % 32768 != 0
  if c.op = Op.launch then c.b.toNat % 8 != 0
  else if c.op = Op.graph then n == 0 || decide (65536 < n) || c.c.toNat % 8 != 0
  else if c.op = Op.settle then page || n == 0 || decide (2 ^ 20 < n)
  else if c.op = Op.tlbinv then page
  else if c.op = Op.migrate then page || !(decide (n ≤ 63) || n == 0xFFFF)
  else false
/-- The status that a LAUNCH's header fails it with. -/
def Command.headerStatus (c : Command) : Nat := match c.hdr with | some (.inl st) => st | _ => 0
/-- The status an entry fails with at acceptance, 0 for none (R278, R282, R283). -/
def Command.atOnce (c : Command) (body : List Byte) : Nat :=
  match operandsOf c.op with
  | none => Status.badOp
  | some n =>
    if ((body.drop 5).take 3 ++ body.drop (8 + 8 * n)).any fun b => b != 0 then Status.badOp
    else if c.badOperands then Status.badOp
    else if c.op = Op.keyload ∧ (c.a = 0 ∨ 8191 < c.a.toNat) then Status.keyBad
    else c.headerStatus
/-- Acceptance of an entry (R277, R279): the journal, then CONS; a bad entry ends at once. Of a LAUNCH the header is read now,
and never again, and checked (R282, R283). DEDUCED (log 65): a header that fails its LAUNCH does so here. -/
def State.acceptEntry (s : State) (e : QEntry) (i : Word) (body : List Byte) : State :=
  let w := fun k => BitVec.ofNat 64 (field body (8 + 8 * k) 8)
  let c : Command :=
    { id := s.fresh, cycle := s.clock, queue := e.q, index := i, easel := e.easel, prio := e.prio, ctx := e.ctx, op := field body 4 1,
      a := w 0, b := w 1, c := w 2, d := w 3, started := false, key := none, count := 0,
      hdr := if field body 4 1 = Op.launch then some (s.captureHeader e.ctx (w 0)) else none }
  let s := s.fresh'.journal e.easel e.q jAccepted c.op i 0
  let s := s.agentWrite (e.base + 20) (toBytes 4 ((i + 1).setWidth 64))
  let s := { s with commands := s.commands ++ [c] }
  let st := c.atOnce body
  if st = 0 then s else s.endCommand c st

/-- Published entries are accepted in index order (R277); the first argument bounds their number. -/
def State.acceptFrom (e : QEntry) : Nat → State → State
  | 0, s => s
  | n + 1, s =>
    let i := s.physWord (e.base + 20)
    let va := e.ring + 64 * (i.toNat % 2 ^ e.log2)
    match s.readStruct e.ctx va 64 with
    | .error c =>
      if s.ringFaulted.contains e.q then s
      else
        { s with ringFaulted := s.ringFaulted ++ [e.q] }.log
          { kind := 4, easel := e.easel, ctx := e.ctx, code := c, addr := BitVec.ofNat 64 va, queue := e.q, index := i }
    | .ok body =>
      let s := { s with ringFaulted := s.ringFaulted.filter fun q => q != e.q }
      if BitVec.ofNat 32 (field body 0 4) = i + 1 then State.acceptFrom e n (s.acceptEntry e i body) else s
/-- An easel examines a queue (R276, R277): its table entry first, which a first finding that it breaks its layout logs. -/
def State.examine (s : State) (q : Nat) : State :=
  let e := s.queueAt q
  if e.2 then
    if s.malformed.contains q then s
    else { s with malformed := s.malformed ++ [q] }.log
      { kind := 4, easel := e.1.easel, addr := BitVec.ofNat 64 e.1.base, queue := q }
  else
    let s := { s with malformed := s.malformed.filter fun x => x != q }
    if s.queueOn q then State.acceptFrom e.1 (2 ^ e.1.log2) (s.useCtx e.1.ctx) else s
/-- An earlier entry of the queue has not started, or is a WAIT that has not completed: entries start in acceptance order
(R278). -/
def State.waitsBehind (s : State) (c : Command) : Bool :=
  s.commands.any fun x => x.queue == c.queue && !x.started && decide (x.id < c.id)
/-- A command that may start: accepted, not started, of an OP, in its turn. -/
def State.startable? (s : State) (id op : Nat) : Option Command :=
  (s.command? id).filter fun c => c.op == op && !c.started && !s.waitsBehind c

/-- A launch of a command enters the palette, where the cycle of its acceptance or firing ranks it (R284). -/
def State.addLaunch (s : State) (c : Command) (cycle : Nat) (src : Source) (h : Header) (starts : List (DWord × List Word)) : State :=
  { s.fresh' with launches := s.launches ++ [{
      id := s.fresh, ctx := c.ctx, queue := c.queue, index := c.index, prio := c.prio, easel := c.easel, order := cycle, source := src, hdr := h,
      starts := starts, windows := [], tree := [], next := 0, ended := 0, withdrawn := false, origin := none, released := false,
      reserved := [], waiting := [], finished := false }] }

end Sys2Proof.Machine
end

