-- ==== Sys2Proof/Machine/Placement.lean ====
section
/-! DEFINITION. Machine/Placement.lean: where groups may go and how they come to a core (R283, R284, R329): the tests of a
core, the reservations of the palette, the room that placement makes (R91, R150) and the placing (R58, R81,
R147, R149). The choice among the cores that pass is the untrusted firmware's; the model takes the lowest (log 17). -/

namespace Sys2Proof.Machine

/-! ## The tests of a core (R283) -/

def State.loadOf (s : State) (core : Nat) : Load :=
  (s.residentOn core).foldl (fun a g =>
    ⟨a.groups + 1, a.bunches + g.bunches.length, a.threads + g.size, a.rows + g.size * (s.hdrOf g).accum, a.bars + g.bars.length, a.chunks⟩)
    { Load.none with chunks := (s.chunksHeld core).length }
/-- Cores that a launch has reserved, or on which its placement waits. -/
def Launch.claims (x : Launch) : List Nat := x.reserved ++ x.waiting.map fun w => w.2
/-- Two launches want one tag, in an instance that holds both cores (R76). -/
def tagsClash (l x : Launch) (core other : Nat) (tag : Nat) : Bool :=
  let a := l.hdr.span tag
  let b := x.hdr.span tag
  a != 0 && b != 0 && (instanceOf a other == instanceOf a core || instanceOf b other == instanceOf b core)
/-- Another resident launch holds, in the core's instance, a tag that the launch configures (R76), or one of its priority or
higher has reserved cores there for it (R284). -/
def State.tagTaken (s : State) (l : Launch) (core : Nat) : Bool :=
  s.launches.any fun x => x.id != l.id && !s.isSaved x.id
    && ((x.tree.any fun t => tagsClash l x core t.core t.tag.val)
      || (decide (l.prio ≤ x.prio) && x.claims.any fun c => (List.range 8).any fun t => tagsClash l x core c t))
/-- The core's stack has room for the launch's window (R147). -/
def State.windowFits (s : State) (l : Launch) (core : Nat) : Bool :=
  (s.groups.any fun g => g.launch == l.id && !g.left && coreStack g.core == coreStack core)
  || decide (l.hdr.chsz + ((s.launches.filter fun x => x.id != l.id && !s.isSaved x.id &&
      ((x.windows.any fun w => w.stack == coreStack core)
        || (decide (l.prio ≤ x.prio) && x.claims.any fun c => coreStack c == coreStack core))).map fun x => x.hdr.chsz).sum ≤ 512)
/-- A core can take n groups of the launch now. -/
def State.fits (s : State) (l : Launch) (core n : Nat) : Bool :=
  l.hdr.permits core && (s.loadOf core).takes l.hdr core n && !s.tagTaken l core && s.windowFits l core
/-! ## Room on the chosen core (R91, R150) -/

/-- Scalar entries beyond the reserves suffice for n more bunches. -/
def State.scalarRoom (s : State) (core n : Nat) : Bool := decide (Config.scalarRegs * n ≤ s.scalarFree core)
/-- The bunch that holds the most full registers beyond the floor, the youngest of equals; not of some groups. -/
def State.fullest (s : State) (core : Nat) (bad : List Nat) : Option (Nat × Nat × Bunch) :=
  (s.bunchesOn core).foldl (fun best x =>
    if x.2.2.full ≤ Config.vectorFloor || bad.contains x.1 then best
    else
      match best with
      | none => some x
      | some y => if y.2.2.full < x.2.2.full || (y.2.2.full == x.2.2.full && decide (y.2.2.order < x.2.2.order)) then some x else best) none
/-- A spill made for placement (R91); one that fails halts its group with REASON 4 (R93), but for a slot on a page on the move,
which has to be waited for (R289). -/
def State.placementSpill (s : State) (gid bi : Nat) (b : Bunch) : State × Bool :=
  match s.hereOf gid bi, b.victim [] with
  | some h, some r =>
    match b.spill { s.regCtx h bi [] with pc := 0, exec := 0 } s r with
    | .ok (s, b) => (s.putBunch gid bi b, true)
    | .error e =>
      if h.g.halted.isSome || s.meetsMove h.g e.1 e.2 then (s, false)
      else
        let s := s.halt gid ⟨4, 0, 0, 0, 0, 0, BitVec.ofNat 32 h.g.num, h.g.core, 0⟩
        (s.log { s.logOf h.g bi 0 with kind := 4, code := e.1, addr := e.2 }, false)
  | _, _ => (s, false)
/-- Spill until the shared pool holds `need` free entries; the first argument bounds the spills. -/
def State.makeShared (core need : Nat) : Nat → List Nat → State → State
  | 0, _, s => s
  | k + 1, bad, s =>
    if need ≤ s.sharedFree core then s
    else
      match s.fullest core bad with
      | none => s
      | some (gid, bi, b) =>
        let r := s.placementSpill gid bi b
        State.makeShared core need k (if r.2 then bad else gid :: bad) r.1
/-- A block lies in the way of a chunk (R149). -/
def Block.inChunk (b : Block) (core : Nat) (chunks : List Nat) : Bool := b.core == core && chunks.any fun c => b.way == Config.l1Ways + c
/-- The drain of reclaimed ways ends: what they hold is written back and invalidated, with EVC for its watches (R150). -/
def State.shrinkL1 (s : State) (core : Nat) : State :=
  (s.l1.filter fun b => b.inChunk core (s.chunksHeld core)).foldl (fun s b => s.dropBlock b wEvc) s

/-! ## Placing (R58, R81, R147, R329) -/

/-- The bunches of a new group: the last may be partial; a firing's start at their records' counters (R287). -/
def newBunches (h : Header) (starts : List (DWord × List Word)) (slots : List Nat) (order : Nat) : List Bunch :=
  (List.range h.bunchCount).map fun i =>
    let st := starts.getD i (h.code, h.args)
    (Bunch.placed (min 32 (h.t - 32 * i)) st.1 st.2 (slots.getD i 0) (order + i)).laneCredits
/-- A group comes to a core: the lowest free rank (R329) and chunks (R150); of the free bunch slots, the lowest (log 30). -/
def State.placeGroup (s : State) (lid num core : Nat) : State :=
  match s.launch? lid with
  | none => s
  | some l =>
    let h := l.hdr
    let here := s.residentOn core
    let rank := (lowestFree 17 1 ((here.filter fun g => g.launch == lid).map fun g => g.rank)).headD 0
    let chunks := lowestFree (chunksOf core) h.chunks (s.chunksHeld core)
    let slots := lowestFree Config.maxBunches h.bunchCount (here.flatMap fun g => g.bunches.map fun b => b.slot)
    let g : Group := {
      gid := s.fresh, launch := lid, num := num, core := core, rank := rank, size := h.t,
      bunches := newBunches h l.starts slots (s.fresh + 1), bars := List.replicate h.nbar ⟨h.t, 0, false, 0⟩, gs := 0, gsNow := 0,
      tra := 0, tfb := 0, dbg := 0, trapNext := none, sp := [], spPoison := [], chunks := chunks, halted := none, left := false, sampleNext := 0,
      sampleDue := 0 }
    let grant := h.chsz != 0 && !(l.windows.any fun w => w.stack == coreStack core)
    let tags := (List.finRange 8).filter fun t => h.span t.val != 0
    let tree := tags.foldl (fun (tr : List TreeCore) t =>
      if tr.any fun x => x.core == core && x.tag == t then
        tr.map fun x => if x.core == core && x.tag == t then { x with local_ := x.local_ + h.t } else x
      else tr ++ [⟨core, t, h.t, 0, false, false, 0⟩]) l.tree
    let s := { s with groups := s.groups ++ [g], fresh := s.fresh + 1 + h.bunchCount }
    let s := s.modLaunch lid fun l => { l with
      next := l.next + 1, tree := tree, windows := if grant then l.windows ++ [⟨coreStack core, [], []⟩] else l.windows }
    ((s.dropRo core (s.asidOf l.ctx)).formPairings g.gid).shrinkL1 core
/-- A firing's placement raises CONS of its basket (R287). -/
def State.firingPlaced (s : State) (l : Launch) : State :=
  match l.source with
  | .firing _ cons desc =>
    s.easelWrite { kind := 4, easel := l.easel, queue := l.queue, index := l.index } l.ctx (desc.toNat + 28) (toBytes 4 (BitVec.ofNat 64 cons))
  | _ => s
/-- Cores of a plan, once each, with their numbers of groups. -/
def planCores (plan : List (Nat × Nat)) : List (Nat × Nat) :=
  ((plan.map fun p => p.2).eraseDups).map fun c => (c, plan.countP fun p => p.2 == c)
/-- The scalar pools of a plan's cores have room. -/
def State.planRoom (s : State) (h : Header) (plan : List (Nat × Nat)) : Bool :=
  (planCores plan).all fun c => s.scalarRoom c.1 (c.2 * h.bunchCount)
/-- So have the shared vector pools. -/
def State.planShared (s : State) (h : Header) (plan : List (Nat × Nat)) : Bool :=
  (planCores plan).all fun c => decide (Config.vectorFloor * (c.2 * h.bunchCount) ≤ s.sharedFree c.1)
/-- Room is made on the cores, then the groups become resident in one step, in number order. Where the spills do not make it,
the placement goes on waiting there; where they have halted a group of the launch itself, it is withdrawn (R93, R309). -/
def State.placePlan (s : State) (l : Launch) (plan : List (Nat × Nat)) : State :=
  let s := (planCores plan).foldl (fun s c =>
    State.makeShared c.1 (Config.vectorFloor * (c.2 * l.hdr.bunchCount)) Config.vectorPool [] s) s
  if !((s.launch? l.id).any fun x => !x.withdrawn) then s
  else if !s.planShared l.hdr plan then s.modLaunch l.id fun l => { l with waiting := plan, reserved := [] }
  else
    let s := s.modLaunch l.id fun l => { l with waiting := [], reserved := [] }
    (plan.foldl (fun s p => s.placeGroup l.id p.1 p.2) s).firingPlaced l
/-- The ways that a plan's groups reclaim hold nothing. -/
def State.waysEmpty (s : State) (h : Header) (plan : List (Nat × Nat)) : Bool :=
  (planCores plan).all fun c =>
    let taken := lowestFree (chunksOf c.1) (c.2 * h.chunks) (s.chunksHeld c.1)
    !(s.l1.any fun b => b.inChunk c.1 taken)
/-- Placement on chosen cores: at once, or after a wait there for scalar entries or for the drain of lent chunks (R91, R150). A
whole launch takes over cores that a lower head has reserved, which then chooses afresh (R284). -/
def State.beginPlace (s : State) (l : Launch) (plan : List (Nat × Nat)) : State :=
  let s := { s with launches := s.launches.map fun (x : Launch) =>
    if l.hdr.isWhole && decide (x.prio < l.prio) && plan.any (fun p => x.reserved.contains p.2) then { x with reserved := [] } else x }
  if s.planRoom l.hdr plan && s.waysEmpty l.hdr plan then s.placePlan l plan
  else s.modLaunch l.id fun l => { l with waiting := plan, reserved := [] }

/-! ## The palette (R284) -/

/-- An earlier firing of the same basket waits (R287). -/
def State.heldByFiring (s : State) (l : Launch) : Bool :=
  match l.source with
  | .firing k _ _ => s.launches.any fun x =>
      decide (x.id < l.id) && decide (x.next < x.hdr.ngroup) && !x.withdrawn
      && (match x.source with | .firing j _ _ => j == k | _ => false)
  | _ => false
/-- The launch may run: its context is enabled (R281) and does not stand saved (R322). -/
def State.mayRun (s : State) (l : Launch) : Bool := s.ctxEnabled l.ctx && !(s.saved.any fun v => v.ctx == l.ctx)
def State.inPalette (s : State) (l : Launch) : Bool :=
  decide (l.next < l.hdr.ngroup) && !l.withdrawn && l.waiting.isEmpty && s.mayRun l && !s.heldByFiring l
/-- Higher priority first, then earlier acceptance or firing, then the lower queue number. -/
def before (a b : Launch) : Bool :=
  decide (b.prio < a.prio)
  || (a.prio == b.prio && (decide (a.order < b.order) || (a.order == b.order && decide (a.queue ≤ b.queue))))
def insertLaunch (l : Launch) : List Launch → List Launch
  | [] => [l]
  | x :: xs => if before l x then l :: x :: xs else x :: insertLaunch l xs
def State.palette (s : State) : List Launch := (s.launches.filter fun l => s.inPalette l).foldr insertLaunch []
/-- Cores that other launches of the item's priority or higher hold reserved, or wait on. -/
def State.avoided (s : State) (l : Launch) : List Nat :=
  (s.launches.filter fun x => x.id != l.id && decide (l.prio ≤ x.prio) && !x.withdrawn).flatMap fun x => x.claims
/-- Groups one after the other, each on the first core that fits it; the first argument bounds them. -/
def State.placeEach (lid : Nat) : Nat → State → State
  | 0, s => s
  | k + 1, s =>
    match s.launch? lid with
    | none => s
    | some l =>
      if !s.inPalette l then s
      else
        let avoid := s.avoided l
        match allCores.find? fun c => !avoid.contains c && s.fits l c 1 with
        | none => s
        | some c => State.placeEach lid k (s.beginPlace l [(l.next, c)])
/-- What stands once the groups now on some cores have left: launches without another group have ended, and so have what they
held of tags and windows. -/
def State.without (s : State) (cores : List Nat) : State :=
  let s := { s with groups := s.groups.filter fun g => !cores.contains g.core }
  { s with launches := s.launches.filter fun x => decide (x.next < x.hdr.ngroup) || x.next == 0 || s.groups.any fun g => g.launch == x.id }
/-- The launch would fit on a plan's cores once the groups on some cores have left. -/
def State.wouldFit (s : State) (l : Launch) (plan : List (Nat × Nat)) (cores : List Nat) : Bool :=
  let t := s.without cores
  (planCores plan).all fun c => t.fits l c.1 c.2
/-- The cores of launches that hold tags or windows, and leave them once those cores are empty. -/
def State.holdings (s : State) (l : Launch) : List (List Nat) :=
  (s.launches.filter fun x => x.id != l.id && x.next == x.hdr.ngroup && (!x.tree.isEmpty || !x.windows.isEmpty)).map fun x =>
    ((s.groups.filter fun g => g.launch == x.id).map fun g => g.core).eraseDups
/-- Cores on which a whole launch would fit once the groups there have left: those of a plan; where others hold its tags or the
room of its window, with the cores of one of them, or of all. -/
def State.reservation (s : State) (l : Launch) : Option (List Nat) :=
  let hs := s.holdings l
  ([] :: hs ++ [hs.flatten]).findSome? fun h =>
    let avoid := s.avoided l
    if h.any avoid.contains then none
    else
      let t := s.without h
      (wholePlans l.hdr avoid fun c n => (t.without [c]).fits l c n).findSome? fun p =>
        let cores := ((p.map fun x => x.2) ++ h).eraseDups
        if s.wouldFit l p cores then some cores else none
/-- The first whole launch of a priority that does not fit reserves cores. -/
def State.reserveFor (s : State) (l : Launch) : State :=
  if !l.reserved.isEmpty then s
  else
    match s.reservation l with
    | none => s
    | some cores =>
      { s with launches := s.launches.map fun x =>
          if x.id = l.id then { x with reserved := cores }
          else if x.prio < l.prio && x.reserved.any cores.contains then { x with reserved := [] }
          else x }
/-- The untrusted firmware's choice of cores for a launch, where the card gives one, for its groups due next in order: pairs of
group number and core. -/
def State.chosen (s : State) (l : Launch) (e : Event) : List (Nat × Nat) :=
  let cores := if s.untrustedRuns then (e.list.filter fun p => p.1 == l.id).map fun p => p.2 else []
  (((List.range cores.length).map (l.next + ·)).zip cores).filter fun p => decide (p.1 < l.hdr.ngroup)
/-- A chosen plan is one the rules allow: the groups due next in order, on cores that take them, in the shape. -/
def State.planAllowed (s : State) (l : Launch) (plan : List (Nat × Nat)) : Bool :=
  let avoid := s.avoided l
  !plan.isEmpty && (plan.map fun p => p.1) == (List.range plan.length).map (l.next + ·)
  && (planCores plan).all (fun c => decide (c.1 < Config.cores) && !avoid.contains c.1 && s.fits l c.1 c.2)
  && (!l.hdr.isWhole || (plan.length == l.hdr.ngroup &&
      (shapeRegions l.hdr).any fun r => if r.2 then (plan.map fun p => p.2) == r.1 else plan.all fun p => r.1.contains p.2))
/-- Groups of a launch that is not whole go one by one to the cores chosen for them, up to one that the rules do not allow there
or that has to wait. -/
def State.placeChosen (lid : Nat) : List (Nat × Nat) → State → State
  | [], s => s
  | p :: ps, s =>
    match (s.launch? lid).filter fun l => s.inPalette l && s.planAllowed l [p] with
    | none => s
    | some l => State.placeChosen lid ps (s.beginPlace l [p])
/-- One item of the palette; heads are the priorities whose head has been met. -/
def State.dispatchOne (s : State) (heads : List Nat) (l : Launch) (e : Event) : State × List Nat :=
  let plan := s.chosen l e
  if l.hdr.isWhole then
    if s.planAllowed l plan then (s.beginPlace l plan, heads)
    else match wholePlan l.hdr (s.avoided l) (s.fits l) with
    | some p => (s.beginPlace l p, heads)
    | none =>
      if heads.contains l.prio then (s.modLaunch l.id fun l => { l with reserved := [] }, heads) else (s.reserveFor l, l.prio :: heads)
  else (State.placeEach l.id (min (l.hdr.ngroup - l.next) (Config.cores * Config.maxGroups)) (State.placeChosen l.id plan s), heads)
def State.dispatchAll (e : Event) : List Launch → List Nat → State → State
  | [], _, s => s
  | l :: ls, heads, s =>
    match (s.launch? l.id).filter fun l => s.inPalette l with
    | none => State.dispatchAll e ls heads s
    | some l =>
      let r := s.dispatchOne heads l e
      State.dispatchAll e ls r.2 r.1

/-- The palette places, reserves or lets wait each of its items, in priority order. The card's list may carry the firmware's
choice among the placements the rules allow: pairs of a launch and a core, one for each of its groups due next. (R284, R283) -/
def execPaletteDispatch (s : State) : Host.Outcome State Fault Refusal :=
  let t := { s with launches := s.launches.map fun l => if s.inPalette l then l else { l with reserved := [] } }
  .next { State.dispatchAll s.event t.palette [] t with palCyc := s.ecyc[0] + 1 }

/-- A waiting placement may go on: its launch may run, the cores take it, and the scalar entries are there. -/
def State.resumable (s : State) (l : Launch) : Bool :=
  !l.waiting.isEmpty && s.mayRun l && ((planCores l.waiting).all fun c => s.fits l c.1 c.2) && s.planRoom l.hdr l.waiting
/-- The drain, spills and scalar wait of the event's launch on its chosen cores end, and its groups become resident. (R91,
R150, R283) -/
def execPlacementResume (s : State) : Host.Outcome State Fault Refusal :=
  match s.launch? s.event.a with
  | none => .next s
  | some l => if s.resumable l then .next (s.placePlan l l.waiting) else .next s

end Sys2Proof.Machine
end

