-- ==== Sys2Proof/Machine/EaselSteps.lean ====
section
/-! DEFINITION. Machine/EaselSteps.lean: the commands of the easels, from acceptance to their end (R277, R278): launches
(R282), graphs (R285), baskets (R286, R287), SETTLE (R189), TLBINV (R160, R266), MIGRATE (R289), KEYLOAD (R292), WAIT.
A step takes the command's, the launch's or the queue's number from the event card; one that is not due changes nothing. -/

namespace Sys2Proof.Machine

/-- A write to DB_q makes the easel examine queue q. (R277) -/
def execDoorbell (s : State) : Host.Outcome State Fault Refusal :=
  if s.event.a < Config.queues then .next (s.examine s.event.a) else .next s

/-- An easel's polling bound has passed: it examines each of its enabled queues. (R277) -/
def execQueuePollExpiry (s : State) : Host.Outcome State Fault Refusal :=
  let e : Fin 8 := Fin.ofNat 8 s.event.a
  let s' := (s.queuesListed.filter fun q => (s.queueAt q).1.easel == e.val).foldl (fun s q => s.examine q) s
  .next { s' with nextPoll := s'.nextPoll.set e.val (s.ecyc[e] + Config.pollCycles) }

/-- The command starts. -/
def State.startCommand (s : State) (c : Command) : State := s.modCommand c.id fun c => { c with started := true }

/-! ## LAUNCH (R282, R283, R278) -/

/-- A launch starts: with the header that acceptance has captured and checked against an empty module, it enters the palette.
(R282, R283) -/
def execLaunch (s : State) : Host.Outcome State Fault Refusal :=
  match s.startable? s.event.a Op.launch with
  | none => .next s
  | some c =>
    match c.hdr.getD (s.captureHeader c.ctx c.a) with
    | .inl st => .next (s.endCommand c st)
    | .inr h => .next ((s.startCommand c).addLaunch c c.cycle (.entry c.id) h [])

/-- Every group of a launch has exited, and its commands are performed (R278). -/
def State.launchDone (s : State) (l : Launch) : Bool :=
  l.next == l.hdr.ngroup && l.ended == l.hdr.ngroup && l.origin.isNone && !(s.groups.any fun g => g.launch == l.id)
/-- The launch's stores are performed at .sy: inside the cores, on their way, and dirty in an L1 (R172, R278). -/
def State.drainLaunch (s : State) (l : Launch) : State :=
  let s := (s.performStores fun st => st.launch == l.id).drainCsm
  let cores := ((s.l1.filter fun b => b.asid == s.asidOf l.ctx && b.dirty != 0 && Pte.coh b.pte == .si).map fun b => b.core).eraseDups
  cores.foldl (fun s c => s.siRelease c) s
def State.dropLaunch (s : State) (id : Nat) : State := { s with launches := s.launches.filter fun l => l.id != id }

/-! ## GRAPH (R285) -/

def Graph.setNode (g : Graph) (i : Nat) (st : NodeSt) : Graph := { g with nodes := g.nodes.modify i fun n => { n with st := st } }
def State.modGraph (s : State) (id : Nat) (f : Graph → Graph) : State :=
  { s with graphs := s.graphs.map fun g => if g.cmd = id then f g else g }
def State.graph? (s : State) (id : Nat) : Option Graph := s.graphs.find? fun g => g.cmd == id

/-- A declared region of a node: start, bytes, read, written. -/
structure NodeRegion where
  lo : Nat
  len : Nat
  read : Bool
  write : Bool
  deriving DecidableEq, Repr
/-- A node record: node, successor count, successor list, regions; none where it breaks its layout (R285). -/
def nodeOf (bs : List Byte) : Option (Node × Nat × Nat × List NodeRegion) :=
  let u := field bs
  let w := u 8 4
  let cond := w / 2 ^ 20 % 2 == 1
  let nreg := w / 65536 % 16
  let rs := (List.range 4).map fun r => (u (32 + 16 * r) 8, u (40 + 16 * r) 4, u (44 + 16 * r) 4)
  let bad := w / 2 ^ 21 != 0 || u 12 4 != 0 || decide (4 < nreg) || (cond == (u 24 8 == 0))
    || rs.any (fun r => r.2.2 / 4 != 0) || (rs.take nreg).any fun r => r.2.2 % 4 == 0 || r.2.1 == 0
  if bad then none
  else some (⟨BitVec.ofNat 64 (u 0 8), cond, BitVec.ofNat 64 (u 24 8), .waiting⟩, w % 65536, u 16 8,
    (rs.take nreg).map fun r => ⟨r.1, r.2.1, r.2.2 % 2 == 1, r.2.2 / 2 % 2 == 1⟩)
/-- A successor entry of node i: none where it is reserved or out of range. -/
def edgeOf (i count e : Nat) : Option Edge :=
  if e / 2 ^ 28 % 8 != 0 || decide (count ≤ e % 2 ^ 24) then none
  else some ⟨i, e % 2 ^ 24, if e / 2 ^ 31 % 2 == 1 then none else some (e / 2 ^ 24 % 16)⟩
def NodeRegion.meets (a b : NodeRegion) : Bool := decide (a.lo < b.lo + b.len) && decide (b.lo < a.lo + a.len)
/-- Node i's regions come before node j's. -/
def regionsPrecede (a b : List NodeRegion) : Bool :=
  a.any fun x => b.any fun y => x.meets y && (x.write || (x.read && y.write))
/-- Edges from every earlier node to a later one whose regions meet (R285). -/
def derivedEdges (rs : List (List NodeRegion)) : List Edge :=
  (List.range rs.length).flatMap fun j => (List.range j).filterMap fun i =>
    if regionsPrecede (rs.getD i []) (rs.getD j []) then some ⟨i, j, none⟩ else none
/-- Nodes left after taking away, n times, those without an edge from one that is left. -/
def peel (es : List Edge) : Nat → List Nat → List Nat
  | 0, ns => ns
  | n + 1, ns => peel es n (ns.filter fun i => es.any fun e => e.dst == i && ns.contains e.src)
def acyclic (n : Nat) (es : List Edge) : Bool := (peel es n (List.range n)).isEmpty
/-- The records and successor lists of nodes i, i + 1, … -/
def State.readNodes (s : State) (ctx base count : Nat) : List Nat → Except Nat (List (Node × List Edge × List NodeRegion))
  | [] => .ok []
  | i :: is =>
    match s.readStruct ctx (base + 128 * i) 128 with
    | .error c => .error (Status.ofFault c)
    | .ok bs =>
      match nodeOf bs with
      | none => .error Status.badHdr
      | some (n, k, succ, rs) =>
        match s.readStruct ctx succ (4 * k) with
        | .error c => .error (Status.ofFault c)
        | .ok es =>
          let edges := (List.range k).map fun j => edgeOf i count (field es (4 * j) 4)
          if edges.any fun e => e.isNone then .error Status.badHdr
          else
            match s.readNodes ctx base count is with
            | .error st => .error st
            | .ok l => .ok ((n, edges.filterMap id, rs) :: l)
/-- The graph of a command. -/
def State.readGraph (s : State) (c : Command) : Except Nat Graph :=
  if c.a.toNat % 128 != 0 then .error Status.badHdr
  else
    match s.readNodes c.ctx c.a.toNat c.b.toNat (List.range c.b.toNat) with
    | .error st => .error st
    | .ok l =>
      let es := (l.flatMap fun x => x.2.1) ++ derivedEdges (l.map fun x => x.2.2)
      if acyclic l.length es then .ok ⟨c.id, l.map fun x => x.1, es⟩ else .error Status.badHdr

/-- What the edges into a node say of it: wait, ready, skip, or fail (R285). -/
inductive Readiness where
  | wait | ready | skip | fail
  deriving DecidableEq, Repr
def Graph.nodeSt (g : Graph) (i : Nat) : NodeSt := match g.nodes[i]? with | some n => n.st | none => .skipped
def NodeSt.isFailed : NodeSt → Bool | .failed _ => true | _ => false
def NodeSt.isOver : NodeSt → Bool | .waiting => false | .running _ => false | _ => true
/-- An edge is taken: its source completed, and it is ALL or names the source's branch. -/
def Graph.taken (g : Graph) (e : Edge) : Bool :=
  match g.nodeSt e.src with
  | .completed b => e.branch.isNone || e.branch == some b
  | _ => false
def Graph.readiness (g : Graph) (i : Nat) : Readiness :=
  let inc := g.edges.filter fun e => e.dst == i
  if inc.any fun e => (g.nodeSt e.src).isFailed then .fail
  else if inc.isEmpty then .ready
  else if !(inc.all fun e => (g.nodeSt e.src).isOver) then .wait
  else if inc.any fun e => g.taken e then .ready
  else .skip
/-- Waiting nodes go on as far as their edges let them, in table order. -/
def State.advanceNode (s : State) (c : Command) (i : Nat) : State :=
  match s.graph? c.id with
  | none => s
  | some g =>
    if g.nodeSt i != .waiting then s
    else
      let s := s.useCtx c.ctx
      match g.readiness i with
      | .wait => s
      | .skip => s.modGraph c.id fun g => g.setNode i .skipped
      | .fail => s.modGraph c.id fun g => g.setNode i (.failed Status.predFail)
      | .ready =>
        match g.nodes[i]? with
        | none => s
        | some n =>
          match s.readHeader c.ctx n.hdr false with
          | .error st => s.modGraph c.id fun g => g.setNode i (.failed st)
          | .ok h =>
            if h.placeable then
              (s.modGraph c.id fun g => g.setNode i (.running s.fresh)).addLaunch c c.cycle (.node c.id i) h []
            else s.modGraph c.id fun g => g.setNode i (.failed Status.placeFail)
def State.advanceGraph (c : Command) (n : Nat) : Nat → State → State
  | 0, s => s
  | k + 1, s => State.advanceGraph c n k ((List.range n).foldl (fun s i => s.advanceNode c i) s)
/-- The GRAPH ends once every node has completed, been skipped or failed; its status is that of the first node that failed. -/
def State.settleGraph (s : State) (c : Command) : State :=
  match s.graph? c.id with
  | none => s
  | some g =>
    let s := State.advanceGraph c g.nodes.length g.nodes.length s
    match s.graph? c.id with
    | none => s
    | some g =>
      if g.nodes.all fun n => n.st.isOver then
        let st := (g.nodes.findSome? fun n => match n.st with | .failed k => some k | _ => none).getD 0
        { s with graphs := s.graphs.filter fun x => x.cmd != c.id }.endCommand c st
      else s
/-- A graph is accepted: its edges are formed, and the nodes without an edge into them enter the palette. (R285) -/
def execGraph (s : State) : Host.Outcome State Fault Refusal :=
  match s.startable? s.event.a Op.graph with
  | none => .next s
  | some c =>
    let s := s.useCtx c.ctx
    match s.readGraph c with
    | .error st => .next (s.endCommand c st)
    | .ok g => .next ({ s.startCommand c with graphs := s.graphs ++ [g] }.settleGraph c)
/-- The node's launch has ended with a status: its edges resolve (R285). The branch of a node without COND is none: 16. -/
def State.endNode (s : State) (gid i status : Nat) : State :=
  match s.command? gid, s.graph? gid with
  | some c, some g =>
    match g.nodes[i]? with
    | none => s
    | some n =>
      let s := s.useCtx c.ctx
      let st : NodeSt :=
        if status != 0 then .failed status
        else if !n.cond then .completed 16
        else
          match s.readStruct c.ctx n.result.toNat 4 with
          | .error k => .failed (Status.ofFault k)
          | .ok bs => .completed (ofBytes bs % 16)
      (s.modGraph gid fun g => g.setNode i st).settleGraph c
  | _, _ => s
/-- The node that the event names completes: its branch is read, and its outgoing edges resolve. (R285) -/
def execGraphNodeComplete (s : State) : Host.Outcome State Fault Refusal :=
  match s.graph? s.event.a with
  | none => .next s
  | some g =>
    match g.nodeSt s.event.b with
    | .running lid =>
      match (s.launch? lid).filter fun l => s.launchDone l with
      | none => .next s
      | some l => .next (((s.drainLaunch l).dropLaunch lid).endNode s.event.a s.event.b 0)
    | _ => .next s

/-! ## The end of a launch (R278, R309) -/

/-- A halted launch's groups have all been dumped or exited, wherever the halt was to reach (R309). -/
def State.allDumped (s : State) (l : Launch) : Bool :=
  l.origin.isSome && !(s.haltMsgs.any fun m => m.2 == l.id) && !s.isSaved l.id
  && (s.groups.filter fun g => g.launch == l.id && !g.left).all fun g => g.halted.any fun h => h.dumped
/-- The launch fails with HALTED, once (R309); it stays until its groups are released. -/
def State.failCheck (s : State) (lid : Nat) : State :=
  match s.launch? lid with
  | none => s
  | some l =>
    if l.finished || !s.allDumped l then s
    else
      let s := (s.drainLaunch l).modLaunch lid fun l => { l with finished := true, windows := [] }
      match l.source with
      | .entry k => match s.command? k with | some c => s.endCommand c Status.halted | none => s
      | .node g i => s.endNode g i Status.halted
      | _ => s
/-- A finished launch that no group holds any more is gone. -/
def State.forget (s : State) (lid : Nat) : State :=
  match s.launch? lid with
  | some l => if l.finished && !(s.groups.any fun g => g.launch == lid) && !s.isSaved lid then s.dropLaunch lid else s
  | none => s
/-- Every group has exited and its work is performed: the journal and the completion word say so. Of a halted launch the
failure is written once its groups are dumped. (R278, R309) -/
def execLaunchComplete (s : State) : Host.Outcome State Fault Refusal :=
  match s.launch? s.event.a with
  | none => .next s
  | some l =>
    if l.origin.isSome then .next ((s.failCheck l.id).forget l.id)
    else if s.launchDone l then
      match l.source with
      | .entry k =>
        let s := (s.drainLaunch l).dropLaunch l.id
        .next (match s.command? k with | some c => s.endCommand c 0 | none => s)
      | .node _ _ => .next s
      | _ => .next ((s.drainLaunch l).dropLaunch l.id)
    else .next s

/-! ## BASKET (R286, R287) -/

/-- A basket's descriptor, as captured: none where it breaks its layout. With C = 0 it closes a basket. -/
structure BasketDesc where
  hdr : DWord
  ring : DWord
  log2 : Nat
  c : Nat
  d : Nat
  cons : Nat
  deriving DecidableEq, Repr
def basketOf (bs : List Byte) : Option BasketDesc :=
  let u := field bs
  let w := u 16 4
  let c := w % 64
  if w / 2 ^ 13 != 0 || w / 64 % 4 != 0 || u 20 4 / 2 ^ 20 != 0 || (bs.drop 32).any (fun b => b != 0) then none
  else if decide (w / 256 % 32 < 4) || decide (12 < w / 256 % 32) || decide (32 < c) || u 20 4 == 0 || u 8 8 % 64 != 0 then none
  else some ⟨BitVec.ofNat 64 (u 0 8), BitVec.ofNat 64 (u 8 8), w / 256 % 32, c, u 20 4, u 28 4⟩
/-- The basket in force of a descriptor in a context ends, and with it its command. -/
def State.closeBasket (s : State) (ctx : Nat) (desc : DWord) : State :=
  match s.baskets.find? fun b => b.desc == desc && (s.command? b.cmd).any fun c => c.ctx == ctx with
  | none => s
  | some b =>
    let s := { s with baskets := s.baskets.filter fun x => x.cmd != b.cmd }
    match s.command? b.cmd with
    | some c => s.endCommand c 0
    | none => s
/-- A basket opens, or with C = 0 the one of its descriptor closes. (R286) -/
def execBasket (s : State) : Host.Outcome State Fault Refusal :=
  match s.startable? s.event.a Op.basket with
  | none => .next s
  | some c =>
    if c.a.toNat % 64 != 0 then .next (s.endCommand c Status.badHdr)
    else
      let s := s.useCtx c.ctx
      match s.readStruct c.ctx c.a.toNat 64 with
      | .error k => .next (s.endCommand c (Status.ofFault k))
      | .ok bs =>
        match basketOf bs with
        | none => .next (s.endCommand c Status.badHdr)
        | some d =>
          if d.c = 0 then .next ((s.closeBasket c.ctx c.a).endCommand c 0)
          else
            match s.readHeader c.ctx d.hdr true with
            | .error st => .next (s.endCommand c st)
            | .ok h =>
              if { h with t := 32 * d.c, exts := [32, d.c] }.placeable then
                let s := (s.closeBasket c.ctx c.a).startCommand c
                .next { s with baskets := s.baskets ++ [⟨c.id, c.a, h, d.ring, d.log2, d.c, d.d, d.cons, [], 0⟩] }
              else .next (s.endCommand c Status.placeFail)
/-- A firing takes n records: one group of n bunches (R287). -/
def State.fire (s : State) (c : Command) (b : Basket) (n : Nat) : State :=
  let rs := b.recs.take n
  let rest := b.recs.drop n
  let cons := ((rs.getLast?).map fun r => r.1 + 1).getD b.seen
  let cons := if rest.isEmpty then b.seen else cons
  let h := { b.hdr with t := 32 * rs.length, exts := [32, rs.length] }
  let s := s.addLaunch c s.clock (.firing b.cmd (cons % 2 ^ 32) b.desc) h (rs.map fun r => (r.2.1, r.2.2))
  { s with baskets := s.baskets.map fun (x : Basket) => if x.cmd = b.cmd then { x with recs := rest, started := s.ecyc[Fin.ofNat 8 c.easel] } else x }
/-- The record due next: published, and with counter and argument words where it keeps its layout. -/
def State.nextRecord (s : State) (c : Command) (b : Basket) : Option (Option (DWord × List Word)) :=
  match s.readStruct c.ctx (b.ring.toNat + 64 * (b.seen % 2 ^ b.log2)) 64 with
  | .error _ => none
  | .ok bs =>
    if field bs 0 4 != (b.seen + 1) % 2 ^ 32 then none
    else if ((bs.drop 4).take 4 ++ bs.drop 48).any (fun x => x != 0) || field bs 8 8 % 4 != 0 then some none
    else some (some (BitVec.ofNat 64 (field bs 8 8), (List.range 8).map fun k => BitVec.ofNat 32 (field bs (16 + 4 * k) 4)))
/-- The last firing of a basket that waits to be placed. -/
def State.lastFiring (s : State) (k : Nat) : Option Launch :=
  (s.launches.filter fun l => decide (l.next < l.hdr.ngroup) && !l.withdrawn
    && (match l.source with | .firing j _ _ => j == k | _ => false)).getLast?
/-- A dropped record is taken with the records before it: at once where none of them waits, else with the last firing that
waits, or with the records counted (R287). -/
def State.takeDropped (s : State) (c : Command) (b : Basket) (cons : Nat) : State :=
  if !b.recs.isEmpty then s
  else
    match s.lastFiring b.cmd with
    | some l => s.modLaunch l.id fun l => { l with source := .firing b.cmd (cons % 2 ^ 32) b.desc }
    | none => s.easelWrite { kind := 4, easel := c.easel, queue := c.queue, index := c.index } c.ctx (b.desc.toNat + 28)
        (toBytes 4 (BitVec.ofNat 64 (cons % 2 ^ 32)))
/-- A newly published record is counted, or dropped with a log entry; the count C fires. (R287) -/
def execBasketCount (s : State) : Host.Outcome State Fault Refusal :=
  match s.baskets.find? fun b => b.cmd == s.event.a, s.command? s.event.a with
  | some b, some c =>
    let s := s.useCtx c.ctx
    match s.nextRecord c b with
    | none => .next s
    | some none =>
      let b' := { b with seen := b.seen + 1 }
      let s := { s with baskets := s.baskets.map fun (x : Basket) => if x.cmd = b.cmd then b' else x }.log
        { kind := 4, easel := c.easel, ctx := c.ctx, queue := c.queue, index := c.index,
          addr := b.ring + BitVec.ofNat 64 (64 * (b.seen % 2 ^ b.log2)) }
      .next (s.takeDropped c b b'.seen)
    | some (some r) =>
      let b' : Basket := { b with
        seen := b.seen + 1, recs := b.recs ++ [(b.seen, r.1, r.2)],
        started := if b.recs.isEmpty then s.ecyc[Fin.ofNat 8 c.easel] else b.started }
      let s := { s with baskets := s.baskets.map fun (x : Basket) => if x.cmd = b.cmd then b' else x }
      .next (if b'.c ≤ b'.recs.length then s.fire c b' b'.c else s)
  | _, _ => .next s
/-- The countdown of a basket has expired: it fires with all records counted. (R287) -/
def execBasketCountdownExpiry (s : State) : Host.Outcome State Fault Refusal :=
  match s.baskets.find? fun b => b.cmd == s.event.a, s.command? s.event.a with
  | some b, some c =>
    if !b.recs.isEmpty && decide (b.started + b.d ≤ s.ecyc[Fin.ofNat 8 c.easel]) then .next (s.fire c b (min b.c b.recs.length)) else .next s
  | _, _ => .next s

/-! ## SETTLE (R189) and TLBINV (R160, R266) -/

/-- A virtual address lies in 32 KiB units; none of them are the whole space. DESIGN CHOICE (log 75): the page count of SETTLE
and TLBINV counts units of 32 KiB, whatever the pages there. -/
def inUnits (va pages a : Nat) : Bool := pages == 0 || (decide (va ≤ a) && decide (a < va + 32768 * pages))
/-- A block lies in a range of an address space. -/
def Block.inRange (b : Block) (asid va pages : Nat) : Bool := b.asid == asid && inUnits va pages (512 * b.vb)
/-- The page through which an address has been translated to a physical one: its first virtual address, and its size (R157,
R158): a leaf that could be one of 128 MiB is taken for one. -/
def pageSpan (va pa : Nat) (p : Pte) : Nat × Nat :=
  let base := va + Pte.pa p - pa
  (base, if Pte.contig p then 2 ^ 21 else if base % 2 ^ 27 = 0 ∧ Pte.pa p % 2 ^ 27 = 0 then 2 ^ 27 else 2 ^ 15)
/-- Such a page meets 32 KiB units (R160). -/
def meetsUnits (va pages : Nat) (x : Nat × Nat) : Bool :=
  pages == 0 || (decide (x.1 < va + 32768 * pages) && decide (va < x.1 + x.2))
/-- A block's page meets a range of an address space (R160). -/
def Block.inPages (b : Block) (asid va pages : Nat) : Bool :=
  b.asid == asid && meetsUnits va pages (pageSpan (512 * b.vb) (512 * b.pb) b.pte)
/-- A store was translated through a page that meets a range. -/
def Store.inPages (st : Store) (asid va pages : Nat) : Bool :=
  st.cached && st.asid == asid && meetsUnits va pages (pageSpan st.addr.toNat st.pa st.pte)
/-- The stores inside the cores to a range of an address space are performed. -/
def State.storesInto (s : State) (asid va pages : Nat) : State :=
  s.performStores fun st => st.cached && st.asid == asid && inUnits va pages st.addr.toNat
/-- Only a block's dirty sectors go back, and all its sectors leave (R189). -/
def State.settleBlock (s : State) (b : Block) : State :=
  let s := s.copyBack b b.dirty
  (s.modBlock { b with valid := 0, dirty := 0, ro := 0 }).fireSectors b (b.valid &&& ~~~ b.ro) wEvc true
/-- Sectors, by physical address, dirty in more than one of some blocks. -/
def conflicts (bs : List Block) : List Nat :=
  let all := bs.flatMap fun b => (sectorList b.dirty).map fun i => b.pb * 512 + 32 * i
  (all.filter fun a => decide (1 < all.count a)).eraseDups
/-- Dirty sectors of the SI grains of a range go back, and every sector of those grains leaves each L1; sectors dirty in
more than one L1 are logged and counted. (R189) -/
def execSettle (s : State) : Host.Outcome State Fault Refusal :=
  match s.startable? s.event.a Op.settle with
  | none => .next s
  | some c =>
    let s := s.useCtx c.ctx
    let s := s.storesInto (s.asidOf c.ctx) c.a.toNat c.b.toNat
    let bs := s.l1.filter fun b => b.inRange (s.asidOf c.ctx) c.a.toNat c.b.toNat && Pte.coh b.pte == .si
    let hits := conflicts bs
    let s := bs.foldl (fun s b => s.settleBlock b) s
    let s := hits.foldl (fun s a => s.log { kind := 4, easel := c.easel, ctx := c.ctx, queue := c.queue, index := c.index,
                                            addr := BitVec.ofNat 64 a }) s
    .next (s.modCommand c.id fun c => { c with started := true, count := hits.length })
/-- Every L1 has finished a SETTLE, and its entry completes with the number of conflicts. (R189) -/
def execSettleComplete (s : State) : Host.Outcome State Fault Refusal :=
  match (s.command? s.event.a).filter fun c => c.op == Op.settle && c.started with
  | some c => .next ({ s with reports := s.reports ++ [(c.queue, c.index, c.count)] }.endCommand c 0)
  | none => .next s

/-- Translations of pages leave every cluster TLB, and the lines of these pages every L1, written back (R160). -/
def State.invalidatePages (s : State) (asid va pages : Nat) : State :=
  let s := { s with tlb := s.tlb.filter fun e =>
    !(e.asid == asid && (pages == 0 || (decide (e.base < va + 32768 * pages) && decide (va < e.base + e.size)))) }
  (s.l1.filter fun b => b.inPages asid va pages).foldl (fun s b => s.dropBlock b wEvc) s
/-- A command of an engine has captured a page of a range (R266). -/
def Cmd.capturesPage (c : Cmd) (va pages : Nat) : Bool :=
  match c.op with
  | .copy job => (job.spages ++ job.dpages).any fun p => meetsUnits va pages (pageSpan (p.1 * 32768) p.2.1 p.2.2)
  | .accadd _ len .gl => (lanesOf c.lanes).any fun l => ((List.range len).zip c.pa[l]).any fun x =>
      meetsUnits va pages (pageSpan (c.addr[l] + 64 * x.1) x.2.1 x.2.2)
  | _ => false
/-- The groups there are, resident, lingering and saved. -/
def State.everyGroup (s : State) : List Group := s.groups ++ s.saved.flatMap fun v => v.groups
def State.pageCaptured (s : State) (asid va pages : Nat) : Bool :=
  s.everyGroup.any fun g => s.asidOf (s.ctxOfGroup g) == asid && g.bunches.any fun b =>
    (b.mx.cmds ++ b.cp.cmds).any fun c => c.capturesPage va pages
/-- Requests that have been translated through pages of a range are on their way. -/
def State.pageAsked (s : State) (asid va pages : Nat) : Bool :=
  s.reqs.any fun r => r.cached && r.asid == asid && r.lanes.any fun x => meetsUnits va pages (pageSpan x.addr.toNat x.pa x.pte)

/-- Two physical ranges, each a first byte and a size, share a byte. -/
def rangesMeet (a b : Nat × Nat) : Bool := decide (a.1 < b.1 + b.2) && decide (b.1 < a.1 + a.2)
/-- A leaf entry where it maps bytes of a physical range: where it lies, and the page it is of, by first byte and size. -/
def leafMeeting (at_ span : Nat) (e : Pte) (x : Nat × Nat) : List (Nat × Nat × Nat) :=
  if rangesMeet (Pte.pa e, span) x then
    [if Pte.contig e && span == 2 ^ 15 then (at_, Pte.pa e / 2 ^ 21 * 2 ^ 21, 2 ^ 21) else (at_, Pte.pa e, span)]
  else []
/-- The leaf entries under a table that map bytes of a physical range. -/
def State.leavesUnder (s : State) (x : Nat × Nat) : Nat → Nat → List (Nat × Nat × Nat)
  | 0, table => (List.range 4096).flatMap fun i =>
      let e := s.physDword (table + 8 * i)
      if Pte.v e && Pte.leaf e then leafMeeting (table + 8 * i) (spanOf 0) e x else []
  | n + 1, table => (List.range 4096).flatMap fun i =>
      let e := s.physDword (table + 8 * i)
      if !Pte.v e then []
      else if Pte.leaf e then leafMeeting (table + 8 * i) (spanOf (n + 1)) e x
      else s.leavesUnder x n (Pte.pa e)
/-- Leaf entries that map a page in every enabled context (R289). -/
def State.leavesOf (s : State) (x : Nat × Nat) : List (Nat × Nat × Nat) :=
  (((List.range Config.contexts).filter fun c => s.ctxEnabled c).flatMap fun c => s.leavesUnder x 3 (s.ctxOf c).2).eraseDups
/-- A page that moves, with the entries that map it. DESIGN CHOICE (log 76): where another context maps it as part of a larger
page, that page moves as a whole. -/
def State.movingUnit (s : State) (x : Nat × Nat) : (Nat × Nat) × List (Nat × Nat × Nat) :=
  let ls := s.leavesOf x
  let y := ls.foldl (fun y l => if y.2 < l.2.2 then l.2 else y) x
  (y, if y == x then ls else s.leavesOf y)
/-- The invalidation names a page that meets a physical range. -/
def State.namesPage (s : State) (ctx va pages : Nat) (x : Nat × Nat) : Bool :=
  if pages = 0 then !(s.leavesUnder x 3 (s.ctxOf ctx).2).isEmpty
  else (List.range pages).any fun k =>
    match s.walkFrom (va + 32768 * k) 3 (s.ctxOf ctx).2 with
    | .ok l => rangesMeet (Pte.pa l.pte, l.size) x
    | .error _ => false
/-- The move counts of settled pages start again, where software has cleared SETTLED in their entries (R289). -/
def State.clearMoves (s : State) (ctx va pages : Nat) : State :=
  { s with moves := s.moves.filter fun m =>
      !(m.2.2 == 4 && s.namesPage ctx va pages (m.1, m.2.1) && (s.leavesOf (m.1, m.2.1)).all fun a => !Pte.settled (s.physDword a.1)) }
/-- The translations of a range, or of the whole context, are invalidated with the matching L1 lines, after the stores that used
them; a context's root is read again. (R160, R190, R281) -/
def execTlbinv (s : State) : Host.Outcome State Fault Refusal :=
  match s.startable? s.event.a Op.tlbinv with
  | none => .next s
  | some c =>
    let s := s.useCtx c.ctx
    let s := (s.performStores fun st => st.inPages (s.asidOf c.ctx) c.a.toNat c.b.toNat).invalidatePages (s.asidOf c.ctx) c.a.toNat c.b.toNat
    let s := if c.b = 0 then { s with ctxCache := s.ctxCache.filter fun e => e.1 != c.ctx }.useCtx c.ctx else s
    .next ((s.clearMoves c.ctx c.a.toNat c.b.toNat).startCommand c)
/-- An invalidation completes once no engine command uses a page of it and no request translated through one is on its way; what
such requests have filled leaves too. The easel then reads the host's answers. (R160, R266, R319) -/
def execTlbinvComplete (s : State) : Host.Outcome State Fault Refusal :=
  match (s.command? s.event.a).filter fun c => c.op == Op.tlbinv && c.started with
  | none => .next s
  | some c =>
    let asid := s.asidOf c.ctx
    if s.pageCaptured asid c.a.toNat c.b.toNat || s.pageAsked asid c.a.toNat c.b.toNat then .next s
    else
      let s := (s.invalidatePages asid c.a.toNat c.b.toNat).endCommand c 0
      .next { s with respPoll := s.ecyc }

/-! ## MIGRATE (R289) -/

def State.setEntry (s : State) (pa : Nat) (f : DWord → DWord) : State := s.agentWrite pa (toBytes 8 (f (s.physDword pa)))
def vBit : DWord := 1
def settledBit : DWord := 1 <<< 13
/-- The window a new home names, none for a number that names none (R288). -/
def homeWindow (own home : Nat) : Option Nat :=
  if home = 0 then some 0
  else if home = 0xFFFF then some 0x80
  else if home ≤ 63 ∧ home ≠ own then some home
  else none
/-- Where the page comes to lie at its new home: the window, and a place in it that the spec leaves open (log 15). -/
def migrateDest (window old size n : Nat) : Nat := window * 2 ^ 44 + Config.migratePlace window old n % 2 ^ 25 * 32768 / size * size
/-- Every translation and line of a physical page leaves, for every address space. -/
def State.invalidatePhys (s : State) (page size : Nat) : State :=
  let s := { s with tlb := s.tlb.filter fun e => !(decide (Pte.pa e.pte < page + size) && decide (page < Pte.pa e.pte + e.size)) }
  (s.l1.filter fun b => decide (page ≤ b.pb * 512) && decide (b.pb * 512 < page + size)).foldl (fun s b => s.dropBlock b wEvc) s
/-- How often a page has moved: what it is part of, or is made of, counts for it (R289). -/
def State.moveCount (s : State) (x : Nat × Nat) : Nat := (s.moves.filter fun m => rangesMeet (m.1, m.2.1) x).foldl (fun n m => max n m.2.2) 0
def State.setMoves (s : State) (old new : Nat × Nat) (n : Nat) : State :=
  { s with moves := (new.1, new.2, n) :: s.moves.filter fun m => !rangesMeet (m.1, m.2.1) old && !rangesMeet (m.1, m.2.1) new }
/-- A page starts to move to a new home, or the request is refused and the page settles. (R289) -/
def execMigrate (s : State) : Host.Outcome State Fault Refusal :=
  match s.startable? s.event.a Op.migrate with
  | none => .next s
  | some c =>
    match homeWindow s.dev.modnum.toNat c.b.toNat with
    | none => .next (s.endCommand c Status.badOp)
    | some w =>
      if s.linkDown (w * 2 ^ 44) then .next (s.endCommand c Status.linkDown)
      else if 2 ^ 57 ≤ c.a.toNat then .next (s.endCommand c Status.xlate)
      else
        let s := s.useCtx c.ctx
        match s.walkFrom c.a.toNat 3 (s.ctxOf c.ctx).2 with
        | .error k => .next (s.endCommand c (Status.ofFault k))
        | .ok l =>
          let u := s.movingUnit (Pte.pa l.pte, l.size)
          let page := u.1.1
          let size := u.1.2
          let leaves := u.2.map fun a => a.1
          if s.linkDown page then .next (s.endCommand c Status.linkDown)
          else if Pte.settled l.pte || decide (3 ≤ s.moveCount u.1) then
            let s := leaves.foldl (fun s a => s.setEntry a (· ||| settledBit)) s
            .next ((s.setMoves u.1 u.1 4).endCommand c Status.refused)
          else
            let s := s.performStores fun st => st.cached && decide (page ≤ st.pa) && decide (st.pa < page + size)
            let s := leaves.foldl (fun s a => s.setEntry a (· &&& ~~~ vBit)) s
            let s := s.invalidatePhys page size
            let dest := migrateDest w page size s.fresh
            .next { (s.startCommand c).fresh' with migrations := s.migrations ++ [⟨c.id, page, dest, size, leaves, []⟩] }
/-- A physical address on a page that has moved. -/
def Migration.has (m : Migration) (pa : Nat) : Bool := decide (m.old ≤ pa) && decide (pa < m.old + m.size)
def Migration.moved (m : Migration) (pa : Nat) : Nat := if m.has pa then pa - m.old + m.dest else pa
/-- The entry with the page's new address. -/
def Migration.entry (m : Migration) (p : Pte) : Pte :=
  (p &&& ~~~ BitVec.ofNat 64 ((2 ^ 37 - 1) * 32768)) ||| BitVec.ofNat 64 (m.moved (Pte.pa p)) ||| vBit
/-- The shared cache gives up the blocks of a page. -/
def State.dropSlices (s : State) (page size : Nat) : State :=
  (s.slices.filter fun b => decide (page ≤ 512 * b.pb) && decide (512 * b.pb < page + size)).foldl (fun s b => s.sliceDrop b) s
/-- What the page shows through its key slot stands in State.mem, as for a page that the shared cache holds whole. -/
def State.pageView (s : State) (slot page size : Nat) : State :=
  let secs := List.range (size / 32)
  if !isLocal page || (s.keyOf slot = 0 && !(s.hbm.any fun x => decide (page / 32 ≤ x.sec) && decide (x.sec < (page + size) / 32))) then s
  else secs.foldl (fun s i => if s.sliceHolds (page / 32 + i) then s else s.fromHbm slot (page / 32 + i)) s
/-- A page that has been written whole lies in HBM under its key. -/
def State.pageSealed (s : State) (slot page size : Nat) : State :=
  let rest := s.hbm.filter fun x => !(decide (page / 32 ≤ x.sec) && decide (x.sec < (page + size) / 32))
  if !isLocal page then s
  else if s.keyOf slot = 0 then { s with hbm := rest }
  else { s with hbm := ((List.range (size / 32)).map fun i =>
      ⟨page / 32 + i, s.keyOf slot, Memory.readN s.mem (page + 32 * i) 32⟩) ++ rest }
/-- The page's bytes and poison marks come to its new home. -/
def State.moveBytes (s : State) (m : Migration) : State :=
  let bytes := (s.mem.filter fun c => decide (m.old ≤ c.1) && decide (c.1 < m.old + m.size)).map fun c => (m.moved c.1, c.2)
  let marks := (s.poison.filter fun w => decide (m.old / 8 ≤ w) && decide (w < (m.old + m.size) / 8)).map fun w => m.moved (8 * w) / 8
  let cleared := s.mem.filter fun c => !(decide (m.dest ≤ c.1) && decide (c.1 < m.dest + m.size))
  { s with
    mem := bytes.foldl (fun mem c => Memory.write mem c.1 c.2) cleared
    poison := marks.foldl addPoison (s.poison.filter fun w => !(decide (m.dest / 8 ≤ w) && decide (w < (m.dest + m.size) / 8))) }
/-- The key slot of the page, by one of its entries. -/
def State.pageSlot (s : State) (m : Migration) : Nat := ((m.leaves.head?).map fun a => Pte.key (s.physDword a)).getD 0
/-- The copy engine copies the page, through its key slot (R161, R289). -/
def State.movePage (s : State) (m : Migration) : State :=
  let k := s.pageSlot m
  ((((((s.dropSlices m.dest m.size).pageView k m.old m.size).dropSlices m.old m.size).moveBytes m).pageSealed k m.dest m.size))
/-- Accesses on their way go to the new home, in their order (R289). -/
def State.forward (s : State) (m : Migration) : State :=
  let pte := fun (p : Pte) => if m.has (Pte.pa p) then m.entry p else p
  { s with
    reqs := s.reqs.map fun r => { r with
      blk := (if r.sp = .gl ∨ r.sp = .lp then m.moved (r.blk * 512) / 512 else r.blk)
      lanes := r.lanes.map fun x => { x with pa := m.moved x.pa, pte := pte x.pte } }
    locks := s.locks.map fun (k : LineLock) => { k with blk := m.moved (k.blk * 512) / 512 }
    stores := s.stores.map fun (t : Store) => if t.cached then { t with pa := m.moved t.pa, pte := pte t.pte } else t
    agentLines := s.agentLines.filter fun a => !m.has (512 * a.blk) }
/-- Engine commands hold translations of the page that moves (R266). -/
def State.moveHeld (s : State) (m : Migration) : Bool :=
  s.everyGroup.any fun g => g.bunches.any fun b => (b.mx.cmds ++ b.cp.cmds).any fun x =>
    match x.op with
    | .copy job => (job.spages ++ job.dpages).any fun p => m.has p.2.1
    | .accadd _ _ .gl => x.pa.toList.any fun ps => ps.any fun p => m.has p.1
    | _ => false
/-- Threads that have met a page on the move go on, to meet it again where it still moves (R289). -/
def Group.goOn (g : Group) : Group :=
  g.mapThreads fun _ _ t => match t.st with | .moved _ => { t with st := .running } | _ => t
/-- Instructions whose answers are all there and that have waited for a page retire. -/
def State.retryPends (s : State) : State := (s.pends.filter fun p => p.waiting == 0).foldl (fun s p => s.finish p) s
/-- The accesses of outside agents that were queued at the old home are served at the new one (R289). -/
def State.serveQueued (s : State) (m : Migration) : State :=
  m.queued.foldl (fun s x =>
    if s.lateMessage x.1 x.2.1 then s.log { kind := 4, addr := BitVec.ofNat 64 (BusAccess.pa x.2.2) }
    else s.serve x.1 (BusAccess.at_ x.2.2 (m.moved (BusAccess.pa x.2.2)))) s
/-- The page's copy ends: the entries name the new home, and accesses that were queued or parked go on there. (R289) -/
def execMigrateCopyComplete (s : State) : Host.Outcome State Fault Refusal :=
  match s.migrations.find? fun m => m.cmd == s.event.a, s.command? s.event.a with
  | some m, some c =>
    if s.moveHeld m then .next s
    else
      let s := ((s.invalidatePhys m.old m.size).movePage m).forward m
      let s := m.leaves.foldl (fun s a => s.setEntry a fun e => m.entry e) s
      let s := s.setMoves (m.old, m.size) (m.dest, m.size) (s.moveCount (m.old, m.size) + 1)
      let s := { s with
        migrations := s.migrations.filter fun x => x.cmd != m.cmd
        groups := s.groups.map Group.goOn
        saved := s.saved.map fun (v : Saved) => { v with groups := v.groups.map Group.goOn } }
      .next (((s.serveQueued m).retryPends).endCommand c 0)
  | _, _ => .next s

/-! ## KEYLOAD (R291, R292) and WAIT (R278) -/

/-- A wrapped key is unwrapped for a slot; one that does not verify fails. (R292) -/
def execKeyload (s : State) : Host.Outcome State Fault Refusal :=
  match s.startable? s.event.a Op.keyload with
  | none => .next s
  | some c =>
    let s := s.useCtx c.ctx
    match s.readStruct c.ctx c.b.toNat 72 with
    | .error k => .next (s.endCommand c (Status.ofFault k))
    | .ok bs =>
      match Config.unwrapKey bs with
      | none => .next (s.endCommand c Status.keyBad)
      | some k =>
        let s := s.performStores fun st => st.cached && Pte.key st.pte == c.a.toNat
        .next (s.modCommand c.id fun c => { c with started := true, key := some k })
/-- Accesses of HBM through a slot that were under way before a command. -/
def State.slotBusy (s : State) (slot before : Nat) : Bool :=
  (s.reqs.any fun r => decide (r.id < before) && r.lanes.any fun x => Pte.key x.pte == slot)
  || s.locks.any fun k => k.key == slot && k.fill != 0
/-- Accesses of the slot that were in flight at acceptance are done: the key is in force. (R292) -/
def execKeyloadComplete (s : State) : Host.Outcome State Fault Refusal :=
  match (s.command? s.event.a).filter fun c => c.op == Op.keyload && c.started with
  | none => .next s
  | some c =>
    if s.slotBusy c.a.toNat c.id then .next s
    else
      match c.key with
      | none => .next s
      | some k => .next ({ s with keys := (c.a.toNat, k) :: s.keys.filter fun x => x.1 != c.a.toNat }.endCommand c 0)
/-- A WAIT completes once every earlier entry of its queue has. (R278) -/
def execWait (s : State) : Host.Outcome State Fault Refusal :=
  match (s.command? s.event.a).filter fun c => c.op == Op.wait with
  | none => .next s
  | some c =>
    if s.commands.any fun x => x.queue == c.queue && decide (x.id < c.id) then .next s else .next (s.endCommand c 0)

end Sys2Proof.Machine
end

