-- ==== Sys2Proof/Machine/Debug.lean ====
section
/-! DEFINITION. Machine/Debug.lean: writes of dumps and debug records (R296, R325), and records that are dropped (R325). -/

namespace Sys2Proof.Machine

/-! ## Plain stores into a launch's dump and debug areas (R296, R325) -/

/-- A plain store of some bytes within a page, block by block, through the core's L1; marks name, by offset, the words to leave
poisoned. -/
def State.areaPiece (s : State) (core asid va : Nat) (x : Xl) (off : Nat) (bs : List Byte) (marks : List Nat) : State :=
  let s := (byBlocks (bs.length / 512 + 2) x.pa bs).foldl (fun s p => s.storeGl core asid (va + (p.1 - x.pa)) ⟨p.1, x.pte⟩ p.2) s
  (marks.filter fun m => decide (off ≤ m) && decide (m < off + bs.length)).foldl (fun s m =>
    s.markWord core asid (va + (m - off)) ⟨x.pa + (m - off), x.pte⟩) s
/-- Bytes written at an address in pieces within pages, up to the first that faults: the bytes written, and the fault.
The first argument bounds the pieces, the offset is the one reached. -/
def State.areaWrite (core ctx base : Nat) (marks : List Nat) : Nat → Nat → List Byte → State → State × Nat × Option (Nat × Nat)
  | 0, off, _, s => (s, off, none)
  | k + 1, off, bs, s =>
    if bs.isEmpty then (s, off, none)
    else
      let va := base + off
      let m := min bs.length (32768 - va % 32768)
      match s.xlate core ctx va .store with
      | (s, .error c) => (s, off, some (c, va))
      | (s, .ok x) => State.areaWrite core ctx base marks k (off + m) (bs.drop m) (s.areaPiece core (s.asidOf ctx) va x off (bs.take m) marks)
/-- An area written, and performed at .sy: what stands dirty in the core goes back (R301, R325). -/
def State.areaStore (s : State) (core ctx base : Nat) (bs : List Byte) (marks : List Nat) : State × Nat × Option (Nat × Nat) :=
  let r := State.areaWrite core ctx base marks (bs.length / 32768 + 2) 0 bs s
  (r.1.siRelease core, r.2)
/-- An address of a context lies on a page on the move: what would be written there waits (R289). -/
def State.movesAt (s : State) (ctx va : Nat) : Bool := !s.migrations.isEmpty && (s.oldLeaf va (s.ctxOf ctx).2).isSome

/-! ## Debug records (R325) -/

/-- A 64-bit count at a place of a debug area. -/
def State.areaCount (s : State) (core ctx va : Nat) : Nat :=
  match s.easelXlate ctx va .load with
  | .ok x => ofBytes (s.peek core (s.asidOf ctx) va x 8).1
  | .error _ => 0
/-- A debug write has faulted (R325): the group's control is 0, and the log names the write. -/
def State.debugFault (s : State) (r : DebugRec) (e : Nat × Nat) : State :=
  let s := s.modGroup r.gid fun g => { g with dbg := 0 }
  let s := { s with dbgRecs := s.dbgRecs.filter fun x => x.gid != r.gid }
  match s.group? r.gid with
  | some g => s.log { s.logOf g 0 0 with kind := 4, code := e.1, addr := BitVec.ofNat 64 e.2 }
  | none => s.log { kind := 4, ctx := r.ctx, code := e.1, addr := BitVec.ofNat 64 e.2 }
/-- A record is written, then the count of records as a release. -/
def State.writeRecord (s : State) (r : DebugRec) : State :=
  let n := s.areaCount r.core r.ctx r.area
  match s.areaStore r.core r.ctx (r.area + Config.debugRecord * (1 + n % 255)) (wordBytes r.words) [] with
  | (s, _, some e) => s.debugFault r e
  | (s, _, none) =>
    match s.areaStore r.core r.ctx r.area (toBytes 8 (BitVec.ofNat 64 (n + 1))) [] with
    | (s, _, some e) => s.debugFault r e
    | (s, _, none) => s
/-- A record's place, or its count's, lies on a page on the move. -/
def State.recordWaits (s : State) (r : DebugRec) : Bool :=
  s.movesAt r.ctx r.area || s.movesAt r.ctx (r.area + Config.debugRecord * (1 + s.areaCount r.core r.ctx r.area % 255))
/-- Each cycle the core of a group takes its oldest record (log 18), within 256 cycles of its event. -/
def State.takeRecords (s : State) : State :=
  let firsts := (s.dbgRecs.map fun r => r.gid).eraseDups.filterMap fun gid =>
    s.dbgRecs.find? fun r => r.gid == gid && decide (s.clock ≤ r.cyc + 256) && !s.recordWaits r
  firsts.foldl (fun s r =>
    if s.dbgRecs.contains r then { s with dbgRecs := s.dbgRecs.erase r }.writeRecord r else s) s
/-- Records that their core has not taken within 256 cycles. -/
def State.lateRecords (s : State) : List DebugRec := s.dbgRecs.filter fun r => decide (r.cyc + 256 < s.clock) && !s.movesAt r.ctx r.area
/-- A record is dropped, and counted in its area. -/
def State.dropRecord (s : State) (r : DebugRec) : State :=
  let s := { s with dbgRecs := s.dbgRecs.erase r }
  match s.areaStore r.core r.ctx (r.area + 8) (toBytes 8 (BitVec.ofNat 64 (s.areaCount r.core r.ctx (r.area + 8) + 1))) [] with
  | (s, _, some e) => s.debugFault r e
  | (s, _, none) => s
/-- Late records are dropped, and counted in their areas. (R325) -/
def execDebugRecordDrop (s : State) : Host.Outcome State Fault Refusal :=
  .next (s.lateRecords.foldl (fun s r => s.dropRecord r) s)
/-- What is left of some groups' records is written, or dropped where it is late, before their context is saved (R322, R325). -/
def State.drainRecords (s : State) (gids : List Nat) : State :=
  (s.dbgRecs.filter fun r => gids.contains r.gid).foldl (fun s r =>
    if !s.dbgRecs.contains r then s
    else if r.cyc + 256 < s.clock then s.dropRecord r
    else { s with dbgRecs := s.dbgRecs.erase r }.writeRecord r) s

end Sys2Proof.Machine
end

