-- ==== Sys2Proof/WellFormed.lean ====
section
/-! DEFINITION. WellFormed.lean: which terms of the syntax are instructions the hardware has: even registers where a
pair is named, quads, accumulator spans, DEP limits, the codes a cell accepts (R36, R51 and each entry's own table).
Everything the types of Syntax.lean already bound needs no check here. -/

namespace Sys2Proof

/-- A register that can head a pair (R36). -/
def even (r : Reg) : Bool := r.val % 2 == 0

/-- A register that can head a quad (R201). -/
def quad (r : Reg) : Bool := r.val % 4 == 0

/-- A scalar register that can head a card of eight (R264, R267). -/
def octal (r : Reg) : Bool := r.val % 8 == 0

/-- The system registers marked RW in R123. -/
def SysReg.writable : SysReg → Bool
  | .gs | .fmode | .pspill => true
  | .lane | .wid | .widh | .wf0 | .wf1 | .wf2 | .wf3 | .wf4 | .wf5 | .core | .cyc | .cych | .pstat | .rsd => false

/-- ATOM (R197, R202): D is zero when nothing is returned, pairs for 8-byte forms, a pair base for .gl (R191). -/
def AtomOp.wf (x : AtomOp) : Bool :=
  (x.ret || x.d.val == 0) && (!x.w64 || (even x.d && even x.b.reg)) && (x.sp != .gl || even x.a.reg)

/-- CAS128 (R201, R202). -/
def Cas128Op.wf (x : Cas128Op) : Bool :=
  (x.ret || x.d.val == 0) && quad x.d && quad x.b.reg && quad x.c.reg && (x.sp != .gl || even x.a.reg)

/-- MMA (R233, R255): the span ends at a7 at the latest, DEP within the format's limit, both pairs even. -/
def MmaOp.wf (lim : Nat) (x : MmaOp) : Bool :=
  decide (x.f.val + x.lenM1.val ≤ 7) && decide (x.dep.val ≤ lim) && even x.sb && even x.sa

/-- SCACC (R259): both spans end at a7 at the latest and share no accumulator. -/
def ScaccOp.wf (x : ScaccOp) : Bool :=
  decide (x.f.val + x.lenM1.val ≤ 7) && even x.sd && decide (x.sf.val + x.lenM1.val ≤ 7) &&
    (decide (x.f.val + x.lenM1.val < x.sf.val) || decide (x.sf.val + x.lenM1.val < x.f.val))

/-- ACCADD (R259). -/
def AccaddOp.wf (x : AccaddOp) : Bool :=
  decide (x.f.val + x.lenM1.val ≤ 7) && x.sp != .chs && (x.sp != .gl || even x.a.reg)

/-- ACC.ST and ACC.LD (R238). -/
def AccOp.wf (x : AccOp) : Bool :=
  (x.sp == .gl || x.sp == .sp) && (x.sp != .gl || even x.a.reg)

/-- The instruction is one the hardware has. A step of another agent has no encoding and is always well formed. -/
def Instr.wellFormed : Instr → Bool
  | .illegal _ => true
  | .gets _ _ => true
  | .sets r _ => r.writable
  | .movuN32 _ _ => true
  | .movuN64 d a => even d && even a
  | .addN32 _ _ _ => true
  | .addN64 d a b => even d && even a.reg && even b.reg
  | .subN32 _ _ _ => true
  | .subN64 d a b => even d && even a.reg && even b.reg
  | .mulloN32 _ _ _ => true
  | .mulhiI32 _ _ _ => true
  | .mulhiN32 _ _ _ => true
  | .shaddN64 d a _ => even d && even a.reg
  | .andN32 _ _ _ => true
  | .orN32 _ _ _ => true
  | .xorN32 _ _ _ => true
  | .shlN32 _ _ _ => true
  | .shlN64 d a _ => even d && even a.reg
  | .shrN32 _ _ _ => true
  | .shrN64 d a _ => even d && even a.reg
  | .sarI32 _ _ _ => true
  | .sarI64 d a _ => even d && even a.reg
  | .minI32 _ _ _ => true
  | .minN32 _ _ _ => true
  | .maxI32 _ _ _ => true
  | .maxN32 _ _ _ => true
  | .bfxN32 _ _ _ => true
  | .bfxI32 _ _ _ => true
  | .bfiN32 _ _ _ => true
  | .addsatI32 _ _ _ => true
  | .addsatN32 _ _ _ => true
  | .subsatI32 _ _ _ => true
  | .subsatN32 _ _ _ => true
  | .movN32 _ _ => true
  | .movN64 d a => even d && even a.reg
  | .notN32 _ _ => true
  | .negI32 _ _ => true
  | .absI32 _ _ => true
  | .negI64 d a => even d && even a.reg
  | .popcN32 _ _ => true
  | .clzN32 _ _ => true
  | .brevN32 _ _ => true
  | .sextI8 _ _ => true
  | .sextI16 _ _ => true
  | .absF32 _ _ => true
  | .negF32 _ _ => true
  | .rcpF32 _ _ => true
  | .rsqF32 _ _ => true
  | .floorF32 _ _ => true
  | .ceilF32 _ _ => true
  | .truncF32 _ _ => true
  | .rintF32 _ _ => true
  | .getexpF32 _ _ => true
  | .getmantF32 _ _ => true
  | .absF16 _ _ => true
  | .negF16 _ _ => true
  | .rcpF16 _ _ => true
  | .absBf16 _ _ => true
  | .negBf16 _ _ => true
  | .cvtI32F32 _ _ _ => true
  | .cvtN32F32 _ _ _ => true
  | .cvtF32I32 _ _ => true
  | .cvtF32N32 _ _ => true
  | .cvtF16F32 _ _ _ => true
  | .cvtBf16F32 _ _ _ => true
  | .cvtE4m3F32 _ _ _ => true
  | .cvtE5m2F32 _ _ _ => true
  | .cvtF32F16 _ _ => true
  | .cvtF32Bf16 _ _ => true
  | .cvtF32E4m3 _ _ => true
  | .cvtF32E5m2 _ _ => true
  | .cvtQ4F32 _ _ => true
  | .cvtF32Q4 _ _ => true
  | .cvtI4I32 _ _ _ => true
  | .cvtI32I4 _ _ => true
  | .cvtN8I32 _ _ _ => true
  | .cvtN16I32 _ _ _ => true
  | .cvtN8N32 _ _ _ => true
  | .cvtN16N32 _ _ _ => true
  | .movN32Imm _ _ => true
  | .addN32Imm _ _ _ => true
  | .addN64Imm d a _ => even d && even a.reg
  | .mulloN32Imm _ _ _ => true
  | .andN32Imm _ _ _ => true
  | .orN32Imm _ _ _ => true
  | .shlN32Imm _ _ _ => true
  | .shlN64Imm d a _ => even d && even a.reg
  | .shrN32Imm _ _ _ => true
  | .sarI32Imm _ _ _ => true
  | .cmpI32Imm _ _ _ _ => true
  | .addF32Imm _ _ _ => true
  | .mulF32Imm _ _ _ => true
  | .shflup _ _ _ => true
  | .shfldn _ _ _ => true
  | .shflx _ _ _ => true
  | .addF32 _ _ _ => true
  | .subF32 _ _ _ => true
  | .mulF32 _ _ _ => true
  | .fmadF32 _ _ _ => true
  | .minF32 _ _ _ => true
  | .maxF32 _ _ _ => true
  | .scalexpF32 _ _ _ => true
  | .addF16 _ _ _ => true
  | .mulF16 _ _ _ => true
  | .fmadF16 _ _ _ => true
  | .fmadBf16 _ _ _ => true
  | .cmpI32 _ _ _ _ => true
  | .cmpN32 _ _ _ _ => true
  | .cmpF32 _ _ _ _ => true
  | .selN32 _ _ _ => true
  | .ballot _ _ => true
  | .mand _ _ _ => true
  | .mor _ _ _ => true
  | .mxor _ _ _ => true
  | .mget _ _ => true
  | .mset _ _ => true
  | .shfl _ _ _ => true
  | .match _ _ => true
  | .rdaddN32 _ _ => true
  | .ldN32Lp _ a _ _ => even a.reg
  | .ldN32Sp _ _ _ _ => true
  | .ldN32Csm _ _ _ _ => true
  | .ldN32Chs _ _ _ _ => true
  | .ldN32Gl _ a _ _ => even a.reg
  | .ldN64Sp d _ _ _ => even d
  | .ldN64Gl d a _ _ => even d && even a.reg
  | .ldroN32Gl _ a _ => even a.reg
  | .stN32Lp _ a _ _ => even a.reg
  | .stN32Sp _ _ _ _ => true
  | .stN32Csm _ _ _ _ => true
  | .stN32Chs _ _ _ _ => true
  | .stN32Gl _ a _ _ => even a.reg
  | .stN64Sp d _ _ _ => even d
  | .stN64Gl d a _ _ => even d && even a.reg
  | .ldroN64Gl d a _ => even d && even a.reg
  | .atadd x => x.wf
  | .atand x => x.wf
  | .ator x => x.wf
  | .atxor x => x.wf
  | .atminI x => x.wf
  | .atminN x => x.wf
  | .atmaxI x => x.wf
  | .atmaxN x => x.wf
  | .atxch x => x.wf
  | .atcas x c => x.wf && (!x.w64 || even c.reg)
  | .atfadd x => x.wf && !x.w64
  | .cas128 x => x.wf
  | .fence _ => true
  | .fenceAll => true
  | .fencePort sc => sc == .gp || sc == .cl || sc == .dv
  | .acqRo => true
  | .barArr _ _ => true
  | .barTst _ _ _ => true
  | .barCnt _ _ => true
  | .treeArr _ _ => true
  | .treeTst _ _ _ => true
  | .treeRelease => true
  | .sync _ _ => true
  | .watch a _ => even a.reg
  | .doze _ imm => decide (1 ≤ imm.toNat ∧ imm.toNat ≤ 65535)
  | .dozeExpiry => true
  | .wakeEvent => true
  | .annPush _ _ a b => even a.reg && even b.reg
  | .annPop _ _ a b => even a.reg && even b.reg
  | .annEnq _ _ a b => even a.reg && even b.reg
  | .annDeq _ _ a b => even a.reg && even b.reg
  | .annAddf _ _ a b => even a.reg && even b.reg
  | .annSwapeq _ _ a b => even a.reg && even b.reg
  | .help _ a => even a.reg
  | .annq _ a => even a.reg
  | .push _ _ _ => true
  | .pop _ _ _ => true
  | .peek _ _ _ => true
  | .portEntryArrival => true
  | .portCreditArrival => true
  | .brx _ _ => true
  | .callx a => even a.reg
  | .bra _ => true
  | .call _ => true
  | .ret => true
  | .exit => true
  | .trap _ => true
  | .bkpt => true
  | .scacc x => x.wf
  | .accadd x => x.wf
  | .accSt x => x.wf
  | .accLd x => x.wf
  | .accClr _ => true
  | .mmaF16 x => x.wf 3
  | .mmaF16Async x => x.wf 3
  | .mmaBf16 x => x.wf 3
  | .mmaBf16Async x => x.wf 3
  | .mmaE4m3 x => x.wf 7
  | .mmaE4m3Async x => x.wf 7
  | .mmaE5m2 x => x.wf 7
  | .mmaE5m2Async x => x.wf 7
  | .mmaI8 x => x.wf 7
  | .mmaI8Async x => x.wf 7
  | .mmaI4 x => x.wf 15
  | .mmaI4Async x => x.wf 15
  | .mmaQ4 x => x.wf 15
  | .mmaQ4Async x => x.wf 15
  | .nop => true
  | .getsBunch _ _ => true
  | .setsBunch r _ => r.writable
  | .movN32Bunch _ _ => true
  | .rdlaneN32 _ _ _ => true
  | .bz _ _ => true
  | .bnz _ _ => true
  | .addN32Bunch _ _ _ => true
  | .addN64Bunch d a b => even d && even a && even b
  | .subN32Bunch _ _ _ => true
  | .subN64Bunch d a b => even d && even a && even b
  | .mulloN32Bunch _ _ _ => true
  | .andN32Bunch _ _ _ => true
  | .orN32Bunch _ _ _ => true
  | .xorN32Bunch _ _ _ => true
  | .shlN32Bunch _ _ _ => true
  | .shrN32Bunch _ _ _ => true
  | .sarI32Bunch _ _ _ => true
  | .minI32Bunch _ _ _ => true
  | .minN32Bunch _ _ _ => true
  | .maxI32Bunch _ _ _ => true
  | .maxN32Bunch _ _ _ => true
  | .seqN32 _ _ _ => true
  | .sltI32 _ _ _ => true
  | .sltN32 _ _ _ => true
  | .addN32BunchImm _ _ _ => true
  | .addN64BunchImm d a _ => even d && even a
  | .andN32BunchImm _ _ _ => true
  | .shlN32BunchImm _ _ _ => true
  | .shrN32BunchImm _ _ _ => true
  | .ldN32GlBunch _ a _ _ => even a
  | .ldN64GlBunch d a _ _ => even d && even a
  | .stN32GlBunch _ a _ _ => even a
  | .stN64GlBunch d a _ _ => even d && even a
  | .ldN32ChsBunch _ _ _ _ => true
  | .stN32ChsBunch _ _ _ _ => true
  | .ldN32SpBunch _ _ _ _ => true
  | .stN32SpBunch _ _ _ _ => true
  | .copy a _ _ => octal a
  | .commit _ => true
  | .bwait _ _ => true
  | .subs _ a _ base => octal a && decide (base.toNat % 64 = 0)
  | .unsub _ => true
  | .settrap _ a b => even a && even b
  | .rtt => true
  | .halt => true
  | .issueCycle => true
  | .runUrgent => true
  | .loadReturn => true
  | .atomicApply => true
  | .csmRemoteArrival => true
  | .sliceRequest => true
  | .lineLockClear => true
  | .directoryInvalidate => true
  | .pageWalk => true
  | .mmaExecute => true
  | .scaccExecute => true
  | .accaddExecute => true
  | .copyJobExecute => true
  | .engineCommandRetire => true
  | .pickerFill => true
  | .pickerPullback => true
  | .doorbell => true
  | .queuePollExpiry => true
  | .launch => true
  | .graph => true
  | .basket => true
  | .settle => true
  | .tlbinv => true
  | .migrate => true
  | .keyload => true
  | .wait => true
  | .launchComplete => true
  | .graphNodeComplete => true
  | .settleComplete => true
  | .tlbinvComplete => true
  | .migrateCopyComplete => true
  | .keyloadComplete => true
  | .paletteDispatch => true
  | .placementResume => true
  | .basketCount => true
  | .basketCountdownExpiry => true
  | .errorLogPoll => true
  | .respReplay => true
  | .respHalt => true
  | .respRelease => true
  | .haltArrival => true
  | .groupDump => true
  | .contextSave => true
  | .contextRestore => true
  | .stallSample => true
  | .debugRecordDrop => true
  | .clockThrottle => true
  | .thermalHalt => true
  | .linkDown => true
  | .linkTimeout => true
  | .inboundPeerAccess => true
  | .declareAgentDead => true
  | .firmwareImageVerify => true
  | .moduleReset => true
  | .registerWrite => true
  | .hostInboundAccess => true
  | .linkUp => true
  | .agentRejoin => true
  | .pickerAcknowledge => true
  | .storePerformed => true
  | .instructionFetch => true

end Sys2Proof
end

