-- ==== Sys2Proof/Decode.lean ====
section
/-! DEFINITION. Decode.lean: the decoder, total on any words (R31 to R51), and after it the encoder, both written from
the opcode maps R45 and R46, the selectors R49 and the encoding tables of the entries. A sequence of words is first
split into its prefixes, its first word and its second word (R44), then the cell reads its fields. A rejection names
the offending word (R51). -/

namespace Sys2Proof

/-! ## Sequences -/

/-- The crossbar parameters of an XP word (R41). -/
structure Xp where
  ka : Nat
  ba : Bool
  kb : Nat
  bb : Bool
  deriving DecidableEq, Repr

/-- One sequence split into fields: the set, opcode, D, A and B of the first word (LB: L is D, A and B together), the
second word of a W cell (0 otherwise), and the parameters the prefixes supply (R31, R33, R34, R41, R42). -/
structure Raw where
  bunch : Bool
  op : Nat
  d : Nat
  a : Nat
  b : Nat
  w2 : Nat
  xp : Option Xp
  limm : Option Nat
  deriving DecidableEq, Repr

/-- Which word of a sequence holds a bad field (R51). -/
inductive Bad where
  | xp | main | second
  deriving DecidableEq, Repr

/-- A decoded sequence: the gate (mask register and INV, R43), the instruction, the number of prefix words before its
first word and the number of words of the whole sequence. -/
structure Decoded where
  guard : Option (Mask × Bool)
  instr : Instr
  nPrefix : Nat
  nWords : Nat
  deriving DecidableEq, Repr

/-- What the words at a counter are: an instruction; no instruction, the offending word at that index of the sequence
(R51); or a sequence that needs more words than are given. -/
inductive DecodeResult where
  | ok (x : Decoded)
  | illegal (word : Nat)
  | short
  deriving DecidableEq, Repr

/-! ## Fields -/

/-- Bits [5:0] as a register number (R33, R35). -/
def reg (n : Nat) : Reg := Fin.ofNat 64 n
/-- Bits [2:0] as a mask register. -/
def mask (n : Nat) : Mask := Fin.ofNat 8 n
/-- Bits [4:0] as a lane distance. -/
def lane (n : Nat) : Fin 32 := Fin.ofNat 32 n
/-- An even register number where a pair is named (R36). -/
def evenIf (pair : Bool) (n : Nat) : Bool := !pair || n % 2 == 0

/-- The crossbar pattern of a code with parameter k and broadcast bit bc (R41). -/
def patOf (code k : Nat) (bc : Bool) : Pat :=
  match code with
  | 0 => .self
  | 1 => .rot (lane k)
  | 2 => .bfly (lane k)
  | _ => if bc then .bc (lane k) else .mir

/-- A 9-bit vector source field (R35). -/
def srcOf (f k : Nat) (bc : Bool) : Src := ⟨reg f, f / 256 % 2 == 1, patOf (f / 64 % 4) k bc⟩

/-- Source A, with the XP parameter, which is 1 without XP (R41). -/
def Raw.srcA (r : Raw) : Src :=
  match r.xp with
  | none => srcOf r.a 1 false
  | some x => srcOf r.a x.ka x.ba

/-- Source B. -/
def Raw.srcB (r : Raw) : Src :=
  match r.xp with
  | none => srcOf r.b 1 false
  | some x => srcOf r.b x.kb x.bb

/-- A source field whose crossbar code must be 00, and the check (R100). -/
def own (f : Nat) : Own := ⟨reg f, f / 256 % 2 == 1⟩
def ownOk (f : Nat) : Bool := f / 64 % 4 == 0

/-- The XP parameters a crossbar code admits (R41's table of fates). -/
def xpField (code k : Nat) (bc : Bool) : Bool :=
  match code with
  | 0 => k == 0 && !bc
  | 1 | 2 => !bc
  | _ => bc || k == 0

/-- The XP word's parameters fit the fields; a field that is no vector source counts as code 00 (R41). -/
def Raw.xpOk (r : Raw) (aSrc bSrc : Bool) : Bool :=
  match r.xp with
  | none => true
  | some x =>
    xpField (if aSrc then r.a / 64 % 4 else 0) x.ka x.ba && xpField (if bSrc then r.b / 64 % 4 else 0) x.kb x.bb

/-- The 32-bit immediate of an LI or GI word (R37, R42). -/
def Raw.imm (r : Raw) : Word :=
  match r.limm with
  | none => (BitVec.ofNat 9 r.b).signExtend 32
  | some h => BitVec.ofNat 32 (h * 256 + r.b % 256)

/-- I[8] is reserved under LIMM (R42). -/
def Raw.limmOk (r : Raw) : Bool := r.limm.isNone || r.b < 256

/-- The 24-bit field L of LB (R33). -/
def Raw.l (r : Raw) : Nat := r.d * 262144 + r.a * 512 + r.b

/-- D, A and B all reserved (R40). -/
def Raw.bare (r : Raw) : Bool := r.d == 0 && r.a == 0 && r.b == 0

/-- Scope codes of Q and of FENCE (R38, R203). -/
def scopeOf (n : Nat) : Scope :=
  match n with
  | 1 => .bn
  | 2 => .gp
  | 3 => .cl
  | 4 => .dv
  | _ => .sy
def qualOf (n : Nat) : Qual := if n = 0 then none else some (scopeOf n)

def icondOf (n : Nat) : ICond :=
  match n with
  | 0 => .eq
  | 1 => .ne
  | 2 => .lt
  | 3 => .le
  | 4 => .gt
  | 5 => .ge
  | 6 => .tst
  | _ => .ntst
def fcondOf (n : Nat) : FCond :=
  match n with
  | 0 => .eq
  | 1 => .ne
  | 2 => .lt
  | 3 => .le
  | 4 => .gt
  | 5 => .ge
  | 6 => .un
  | _ => .ord

/-- System register numbers 0 to 16 (R123). -/
def sysOk (n : Nat) : Bool := n ≤ 16
def sysOf (n : Nat) : SysReg :=
  match n with
  | 0 => .lane
  | 1 => .wid
  | 2 => .widh
  | 3 => .wf0
  | 4 => .wf1
  | 5 => .wf2
  | 6 => .wf3
  | 7 => .wf4
  | 8 => .wf5
  | 9 => .core
  | 10 => .cyc
  | 11 => .cych
  | 12 => .gs
  | 13 => .fmode
  | 14 => .pstat
  | 15 => .pspill
  | _ => .rsd

/-- Port numbers (R36). -/
def portOf (n : Nat) : Port :=
  match n with
  | 0 => .lo
  | 1 => .hi
  | 2 => .n
  | 3 => .s
  | 4 => .e
  | _ => .w
def engOf (n : Nat) : Eng := if n = 0 then .mx else .cp
/-- Space codes of atomics, copies and accumulator forms (R197, R238, R259, R264). -/
def spaceOf (n : Nat) : ASpace :=
  match n with
  | 0 => .gl
  | 1 => .sp
  | 2 => .csm
  | _ => .chs

/-! ## Cells -/

/-- The instruction, if the XP word, the first word and the second word pass their checks, in sequence order. -/
def checked (xp main second : Bool) (i : Instr) : Except Bad Instr :=
  if !xp then .error .xp else if !main then .error .main else if !second then .error .second else .ok i

def shapeGets (f : Reg → SysReg → Instr) (r : Raw) : Except Bad Instr :=
  checked true (sysOk r.a && r.b == 0) true (f (reg r.d) (sysOf r.a))
def shapeRRR (f : Reg → Src → Src → Instr) (pd pa pb : Bool) (r : Raw) : Except Bad Instr :=
  checked (r.xpOk true true) (evenIf pd r.d && evenIf pa r.a && evenIf pb r.b) true (f (reg r.d) r.srcA r.srcB)
def shapeRRI (f : Reg → Src → Word → Instr) (pd pa : Bool) (r : Raw) : Except Bad Instr :=
  checked (r.xpOk true false) (evenIf pd r.d && evenIf pa r.a && r.limmOk) true (f (reg r.d) r.srcA r.imm)
def shapeUn (f : Reg → Src → Instr) (pair : Bool) (r : Raw) : Except Bad Instr :=
  checked (r.xpOk true false) (evenIf pair r.d && evenIf pair r.a) true (f (reg r.d) r.srcA)
def shapeCvtSat (f : Reg → Src → Bool → Instr) (r : Raw) : Except Bad Instr :=
  checked (r.xpOk true false) true true (f (reg r.d) r.srcA (r.b / 256 % 2 == 1))
def shapeMem (f : Reg → Src → Qual → Fin 64 → Instr) (pd pa : Bool) (r : Raw) : Except Bad Instr :=
  checked (r.xpOk true false) (evenIf pd r.d && evenIf pa r.a && r.b / 64 ≤ 5) true
    (f (reg r.d) r.srcA (qualOf (r.b / 64)) (reg r.b))
def shapeGGG (f : Reg → Reg → Reg → Instr) (pair : Bool) (r : Raw) : Except Bad Instr :=
  checked true (r.a < 64 && r.b < 64 && evenIf pair r.d && evenIf pair r.a && evenIf pair r.b) true
    (f (reg r.d) (reg r.a) (reg r.b))
def shapeGGI (f : Reg → Reg → Word → Instr) (pair : Bool) (r : Raw) : Except Bad Instr :=
  checked true (r.a < 64 && evenIf pair r.d && evenIf pair r.a && r.limmOk) true (f (reg r.d) (reg r.a) r.imm)
def shapeGM (f : Reg → Reg → Qual → Fin 64 → Instr) (pd pa : Bool) (r : Raw) : Except Bad Instr :=
  checked true (r.a < 64 && evenIf pd r.d && evenIf pa r.a && r.b / 64 ≤ 5) true
    (f (reg r.d) (reg r.a) (qualOf (r.b / 64)) (reg r.b))

/-- UNI (R49, R107): the selector is all of B. -/
def decodeUni (r : Raw) : Except Bad Instr :=
  match r.b with
  | 0 => shapeUn .movN32 false r
  | 1 => shapeUn .movN64 true r
  | 2 => shapeUn .notN32 false r
  | 3 => shapeUn .negI32 false r
  | 4 => shapeUn .absI32 false r
  | 5 => shapeUn .negI64 true r
  | 6 => shapeUn .popcN32 false r
  | 7 => shapeUn .clzN32 false r
  | 8 => shapeUn .brevN32 false r
  | 9 => shapeUn .sextI8 false r
  | 10 => shapeUn .sextI16 false r
  | _ => if r.xpOk true false then .error .main else .error .xp

/-- UNF (R49, R113). -/
def decodeUnf (r : Raw) : Except Bad Instr :=
  match r.b with
  | 0 => shapeUn .absF32 false r
  | 1 => shapeUn .negF32 false r
  | 2 => shapeUn .rcpF32 false r
  | 3 => shapeUn .rsqF32 false r
  | 4 => shapeUn .floorF32 false r
  | 5 => shapeUn .ceilF32 false r
  | 6 => shapeUn .truncF32 false r
  | 7 => shapeUn .rintF32 false r
  | 8 => shapeUn .getexpF32 false r
  | 9 => shapeUn .getmantF32 false r
  | 10 => shapeUn .absF16 false r
  | 11 => shapeUn .negF16 false r
  | 12 => shapeUn .rcpF16 false r
  | 13 => shapeUn .absBf16 false r
  | 14 => shapeUn .negBf16 false r
  | _ => if r.xpOk true false then .error .main else .error .xp

/-- CVT (R49, R115): bits [7:0] of B are the type pair, bit 8 is SAT. With SAT 1 where it must be 0 and a bad XP word too, the
CVT word is named, not the XP: the spec does not say which (log 34). -/
def decodeCvt (r : Raw) : Except Bad Instr :=
  match r.b % 256 with
  | 0x028 => shapeCvtSat .cvtI32F32 r
  | 0x068 => shapeCvtSat .cvtN32F32 r
  | 0x082 => if r.b < 256 then shapeUn .cvtF32I32 false r else .error .main
  | 0x086 => if r.b < 256 then shapeUn .cvtF32N32 false r else .error .main
  | 0x098 => shapeCvtSat .cvtF16F32 r
  | 0x0A8 => shapeCvtSat .cvtBf16F32 r
  | 0x0B8 => shapeCvtSat .cvtE4m3F32 r
  | 0x0C8 => shapeCvtSat .cvtE5m2F32 r
  | 0x089 => if r.b < 256 then shapeUn .cvtF32F16 false r else .error .main
  | 0x08A => if r.b < 256 then shapeUn .cvtF32Bf16 false r else .error .main
  | 0x08B => if r.b < 256 then shapeUn .cvtF32E4m3 false r else .error .main
  | 0x08C => if r.b < 256 then shapeUn .cvtF32E5m2 false r else .error .main
  | 0x0D8 => if r.b < 256 then shapeUn .cvtQ4F32 false r else .error .main
  | 0x08D => if r.b < 256 then shapeUn .cvtF32Q4 false r else .error .main
  | 0x0E2 => shapeCvtSat .cvtI4I32 r
  | 0x02E => if r.b < 256 then shapeUn .cvtI32I4 false r else .error .main
  | 0x042 => shapeCvtSat .cvtN8I32 r
  | 0x052 => shapeCvtSat .cvtN16I32 r
  | 0x046 => shapeCvtSat .cvtN8N32 r
  | 0x056 => shapeCvtSat .cvtN16N32 r
  | _ => if r.xpOk true false then .error .main else .error .xp

/-- ATOM (R197, R198, R202). -/
def decodeAtom (r : Raw) : Except Bad Instr :=
  let c := r.w2 / 4096 % 512
  let op := r.w2 % 16
  let x : AtomOp := { d := reg r.d, ret := r.w2 / 2048 % 2 == 1, a := r.srcA, b := r.srcB, q := qualOf (r.w2 / 256 % 8),
                      sp := spaceOf (r.w2 / 32 % 8), w64 := r.w2 / 16 % 2 == 1 }
  let second := r.w2 / 2097152 == 0 && r.w2 / 256 % 8 ≤ 5 && r.w2 / 32 % 8 ≤ 3 &&
    (if op = 9 then ownOk c && (!x.w64 || even (reg c)) else c == 0) && op ≤ 10 && (op != 10 || !x.w64)
  checked (r.xpOk true true) x.wf second
    (match op with
     | 0 => .atadd x
     | 1 => .atand x
     | 2 => .ator x
     | 3 => .atxor x
     | 4 => .atminI x
     | 5 => .atminN x
     | 6 => .atmaxI x
     | 7 => .atmaxN x
     | 8 => .atxch x
     | 9 => .atcas x (own c)
     | _ => .atfadd x)

/-- CAS128 (R201, R202): OP and W64 are zero, B and C carry crossbar code 00. -/
def decodeCas128 (r : Raw) : Except Bad Instr :=
  let c := r.w2 / 4096 % 512
  let x : Cas128Op := { d := reg r.d, ret := r.w2 / 2048 % 2 == 1, a := r.srcA, b := own r.b, c := own c,
                        q := qualOf (r.w2 / 256 % 8), sp := spaceOf (r.w2 / 32 % 8) }
  checked (r.xpOk true true)
    ((x.ret || x.d.val == 0) && quad x.d && quad x.b.reg && ownOk r.b && (x.sp != .gl || even x.a.reg))
    (r.w2 / 2097152 == 0 && r.w2 / 256 % 8 ≤ 5 && r.w2 / 32 % 8 ≤ 3 && ownOk c && quad x.c.reg && r.w2 % 32 == 0)
    (.cas128 x)

/-- FENCE, FENCE.ALL, FENCE.PORT and ACQ.RO (R142, R203). -/
def decodeFence (r : Raw) : Except Bad Instr :=
  if r.d == 0 && r.a == 0 then
    match r.b with
    | 0x01 | 0x02 | 0x03 | 0x04 | 0x05 => .ok (.fence (scopeOf r.b))
    | 0x08 => .ok .fenceAll
    | 0x12 | 0x13 | 0x14 => .ok (.fencePort (scopeOf (r.b - 16)))
    | 0x18 => .ok .acqRo
    | _ => .error .main
  else .error .main

/-- BAR (R205): bits [7:6] of I select the form. -/
def decodeBar (r : Raw) : Except Bad Instr :=
  let n : Fin 48 := Fin.ofNat 48 (r.b % 64)
  match r.b / 64 with
  | 0 => checked (r.xpOk false false) (r.a == 0 && r.b % 64 < 48) true (.barArr (reg r.d) n)
  | 1 => checked (r.xpOk true false) (r.d < 8 && r.b % 64 < 48) true (.barTst (mask r.d) r.srcA n)
  | 2 => checked (r.xpOk true false) (r.d == 0 && r.b % 64 < 48) true (.barCnt r.srcA n)
  | _ => if r.xpOk true false then .error .main else .error .xp

/-- TREE (R146's table, R207): I[3] selects the form. -/
def decodeTree (r : Raw) : Except Bad Instr :=
  match r.b / 8 with
  | 0 => checked (r.xpOk false false) (r.a == 0) true (.treeArr (reg r.d) (mask r.b))
  | 1 => checked (r.xpOk true false) (r.d < 8) true (.treeTst (mask r.d) r.srcA (mask r.b))
  | _ => if r.xpOk true false then .error .main else .error .xp

/-- ANN (R220, R226). -/
def decodeAnn (r : Raw) : Except Bad Instr :=
  let d := reg r.d
  let m := mask r.w2
  checked (r.xpOk true true) (evenIf true r.a && evenIf true r.b)
    (r.w2 / 4096 == 0 && r.w2 / 256 % 16 ≤ 5 && r.w2 / 8 % 32 == 0)
    (match r.w2 / 256 % 16 with
     | 0 => .annPush d m r.srcA r.srcB
     | 1 => .annPop d m r.srcA r.srcB
     | 2 => .annEnq d m r.srcA r.srcB
     | 3 => .annDeq d m r.srcA r.srcB
     | 4 => .annAddf d m r.srcA r.srcB
     | _ => .annSwapeq d m r.srcA r.srcB)

/-- SCACC and ACCADD (R259): bit K of the second word selects the form. DESIGN CHOICE (log 78): spans that overlap, which two
words give together, are a fault of the second word. -/
def decodeScacc (r : Raw) : Except Bad Instr :=
  let f : Fin 8 := mask r.d
  let lenM1 : Fin 8 := mask (r.d / 8)
  if r.w2 / 32768 % 2 = 0 then
    let rows := r.w2 / 131072 % 2 == 1
    let x : ScaccOp := { f, lenM1, vi := if rows then some r.srcA else none, sd := reg r.b, sf := mask (r.w2 / 536870912),
                         j := Fin.ofNat 2048 (r.w2 / 262144), clr := r.w2 / 65536 % 2 == 1 }
    checked (r.xpOk rows false)
      (decide (f.val + lenM1.val ≤ 7) && r.b < 64 && even (reg r.b) && (rows || r.a == 0))
      (r.w2 % 32768 == 0 && decide (x.sf.val + lenM1.val ≤ 7) &&
        (decide (f.val + lenM1.val < x.sf.val) || decide (x.sf.val + lenM1.val < f.val)))
      (.scacc x)
  else
    let x : AccaddOp := { f, lenM1, a := r.srcA, o := reg (r.w2 / 512), sp := spaceOf (r.w2 / 64 % 8) }
    checked (r.xpOk true false)
      (decide (f.val + lenM1.val ≤ 7) && r.b == 0 && (x.sp != .gl || even x.a.reg))
      (r.w2 / 65536 == 0 && r.w2 / 64 % 8 ≤ 2 && r.w2 % 64 == 0)
      (.accadd x)

/-- ACC.ST, ACC.LD and ACC.CLR (R238, R261). -/
def decodeAcc (r : Raw) : Except Bad Instr :=
  let x : AccOp := { acc := mask r.d, a := r.srcA, o := reg (r.w2 / 256), sp := spaceOf (r.w2 / 32 % 8),
                     q := qualOf (r.w2 / 4 % 8) }
  let main := r.d < 8 && r.b == 0 && (x.sp != .gl || even x.a.reg)
  let second := r.w2 / 16384 == 0 && r.w2 / 32 % 8 ≤ 1 && r.w2 / 4 % 8 ≤ 5
  match r.w2 % 4 with
  | 0 => checked (r.xpOk true false) main second (.accSt x)
  | 1 => checked (r.xpOk true false) main second (.accLd x)
  | 2 => checked (r.xpOk false false) (r.d < 8 && r.a == 0 && r.b == 0) (r.w2 == 2) (.accClr (mask r.d))
  | _ => if !r.xpOk true false then .error .xp else if main then .error .second else .error .main

/-- MMA (R233, R255): AS selects the asynchronous form. -/
def decodeMma (fs fa : MmaOp → Instr) (lim : Nat) (r : Raw) : Except Bad Instr :=
  let x : MmaOp := { f := mask r.d, lenM1 := mask (r.d / 8), vi := r.srcA, sb := reg r.b, sa := reg (r.w2 / 67108864),
                     dep := Fin.ofNat 16 (r.w2 / 4194304), ka := Fin.ofNat 4096 (r.w2 / 1024), t := r.w2 / 512 % 2 == 1 }
  checked (r.xpOk true false) (decide (x.f.val + x.lenM1.val ≤ 7) && r.b < 64 && even x.sb)
    (even x.sa && decide (x.dep.val ≤ lim) && r.w2 % 256 == 0)
    (if r.w2 / 256 % 2 = 1 then fa x else fs x)

/-- COPY (R264). -/
def decodeCopy (r : Raw) : Except Bad Instr :=
  checked true (r.d == 0 && r.a < 64 && octal (reg r.a) && r.b == 0)
    (r.w2 / 64 == 0 && r.w2 / 8 % 8 ≤ 3 && r.w2 % 8 ≤ 3)
    (.copy (reg r.a) (spaceOf (r.w2 / 8 % 8)) (spaceOf (r.w2 % 8)))

/-- SUBS (R267). -/
def decodeSubs (r : Raw) : Except Bad Instr :=
  checked true (r.a < 64 && octal (reg r.a) && r.b == 0) (r.w2 / 67108864 == 0 && r.w2 % 64 == 0)
    (.subs (reg r.d) (reg r.a) (reg (r.w2 / 1048576)) (BitVec.ofNat 20 r.w2))

/-- Lane cells 0x00 to 0x3F (R45). The word that R56 writes out for S63, MIN.n32, has the cell 0x1C, which R45's map gives to
MAX.n32: the model follows the map (log 33). -/
def decodeLaneLow (r : Raw) : Except Bad Instr :=
  match r.op with
  | 0x04 => shapeGets .gets r
  | 0x05 => checked (r.xpOk true false) (sysOk r.d && (sysOf r.d).writable && r.b == 0) true (.sets (sysOf r.d) r.srcA)
  | 0x06 => checked true (r.a < 64 && r.b == 0) true (.movuN32 (reg r.d) (reg r.a))
  | 0x07 => checked true (r.a < 64 && r.b == 0 && even (reg r.d) && even (reg r.a)) true (.movuN64 (reg r.d) (reg r.a))
  | 0x08 => shapeRRR .addN32 false false false r
  | 0x09 => shapeRRR .addN64 true true true r
  | 0x0A => shapeRRR .subN32 false false false r
  | 0x0B => shapeRRR .subN64 true true true r
  | 0x0C => shapeRRR .mulloN32 false false false r
  | 0x0D => shapeRRR .mulhiI32 false false false r
  | 0x0E => shapeRRR .mulhiN32 false false false r
  | 0x0F => shapeRRR .shaddN64 true true false r
  | 0x10 => shapeRRR .andN32 false false false r
  | 0x11 => shapeRRR .orN32 false false false r
  | 0x12 => shapeRRR .xorN32 false false false r
  | 0x13 => shapeRRR .shlN32 false false false r
  | 0x14 => shapeRRR .shlN64 true true false r
  | 0x15 => shapeRRR .shrN32 false false false r
  | 0x16 => shapeRRR .shrN64 true true false r
  | 0x17 => shapeRRR .sarI32 false false false r
  | 0x18 => shapeRRR .sarI64 true true false r
  | 0x19 => shapeRRR .minI32 false false false r
  | 0x1A => shapeRRR .minN32 false false false r
  | 0x1B => shapeRRR .maxI32 false false false r
  | 0x1C => shapeRRR .maxN32 false false false r
  | 0x1D => shapeRRR .bfxN32 false false false r
  | 0x1E => shapeRRR .bfxI32 false false false r
  | 0x1F => shapeRRR .bfiN32 false false false r
  | 0x20 => shapeRRR .addsatI32 false false false r
  | 0x21 => shapeRRR .addsatN32 false false false r
  | 0x22 => shapeRRR .subsatI32 false false false r
  | 0x23 => shapeRRR .subsatN32 false false false r
  | 0x24 => decodeUni r
  | 0x25 => decodeUnf r
  | 0x26 => decodeCvt r
  | 0x28 => checked true (r.a == 0 && r.limmOk) true (.movN32Imm (reg r.d) r.imm)
  | 0x29 => shapeRRI .addN32Imm false false r
  | 0x2A => shapeRRI .addN64Imm true true r
  | 0x2B => shapeRRI .mulloN32Imm false false r
  | 0x2C => shapeRRI .andN32Imm false false r
  | 0x2D => shapeRRI .orN32Imm false false r
  | 0x2E => shapeRRI .shlN32Imm false false r
  | 0x2F => shapeRRI .shlN64Imm true true r
  | 0x30 => shapeRRI .shrN32Imm false false r
  | 0x31 => shapeRRI .sarI32Imm false false r
  | 0x32 => checked (r.xpOk true false) r.limmOk true (.cmpI32Imm (icondOf (r.d / 8)) (mask r.d) r.srcA r.imm)
  | 0x33 => shapeRRI .addF32Imm false false r
  | 0x34 => shapeRRI .mulF32Imm false false r
  | 0x35 => checked (r.xpOk true false) (ownOk r.a && r.b < 32) true (.shflup (reg r.d) (own r.a) (lane r.b))
  | 0x36 => checked (r.xpOk true false) (ownOk r.a && r.b < 32) true (.shfldn (reg r.d) (own r.a) (lane r.b))
  | 0x37 => checked (r.xpOk true false) (ownOk r.a && r.b < 32) true (.shflx (reg r.d) (own r.a) (lane r.b))
  | 0x38 => shapeRRR .addF32 false false false r
  | 0x39 => shapeRRR .subF32 false false false r
  | 0x3A => shapeRRR .mulF32 false false false r
  | 0x3B => shapeRRR .fmadF32 false false false r
  | 0x3C => shapeRRR .minF32 false false false r
  | 0x3D => shapeRRR .maxF32 false false false r
  | 0x3E => shapeRRR .scalexpF32 false false false r
  | 0x3F => shapeRRR .addF16 false false false r
  | _ => .error .main

/-- Lane cells 0x40 to 0x7F (R45). DESIGN CHOICE (log 78): a DOZE count above 65 535 that a LIMM helps to form is a fault of the
DOZE's own word. -/
def decodeLaneHigh (r : Raw) : Except Bad Instr :=
  match r.op with
  | 0x40 => shapeRRR .mulF16 false false false r
  | 0x41 => shapeRRR .fmadF16 false false false r
  | 0x42 => shapeRRR .fmadBf16 false false false r
  | 0x43 => checked (r.xpOk true true) true true (.cmpI32 (icondOf (r.d / 8)) (mask r.d) r.srcA r.srcB)
  | 0x44 => checked (r.xpOk true true) true true (.cmpN32 (icondOf (r.d / 8)) (mask r.d) r.srcA r.srcB)
  | 0x45 => checked (r.xpOk true true) true true (.cmpF32 (fcondOf (r.d / 8)) (mask r.d) r.srcA r.srcB)
  | 0x46 => shapeRRR .selN32 false false false r
  | 0x47 => checked true (r.a < 8 && r.b == 0) true (.ballot (reg r.d) (mask r.a))
  | 0x48 => checked true (r.d < 8 && r.a < 8 && r.b < 8) true (.mand (mask r.d) (mask r.a) (mask r.b))
  | 0x49 => checked true (r.d < 8 && r.a < 8 && r.b < 8) true (.mor (mask r.d) (mask r.a) (mask r.b))
  | 0x4A => checked true (r.d < 8 && r.a < 8 && r.b < 8) true (.mxor (mask r.d) (mask r.a) (mask r.b))
  | 0x4B => checked true (r.a < 8 && r.b == 0) true (.mget (reg r.d) (mask r.a))
  | 0x4C => checked (r.xpOk true false) (r.d < 8 && r.b == 0) true (.mset (mask r.d) r.srcA)
  | 0x4D => checked (r.xpOk true true) (ownOk r.a) true (.shfl (reg r.d) (own r.a) r.srcB)
  | 0x4E => checked (r.xpOk true false) (ownOk r.a && r.b == 0) true (.match (reg r.d) (own r.a))
  | 0x4F => checked (r.xpOk true false) (ownOk r.a && r.b == 0) true (.rdaddN32 (reg r.d) (own r.a))
  | 0x50 => shapeMem .ldN32Lp false true r
  | 0x51 => shapeMem .ldN32Sp false false r
  | 0x52 => shapeMem .ldN32Csm false false r
  | 0x53 => shapeMem .ldN32Chs false false r
  | 0x54 => shapeMem .ldN32Gl false true r
  | 0x55 => shapeMem .ldN64Sp true false r
  | 0x56 => shapeMem .ldN64Gl true true r
  | 0x57 => checked (r.xpOk true false) (evenIf false r.d && evenIf true r.a && r.b < 64) true (.ldroN32Gl (reg r.d) r.srcA (reg r.b))
  | 0x58 => shapeMem .stN32Lp false true r
  | 0x59 => shapeMem .stN32Sp false false r
  | 0x5A => shapeMem .stN32Csm false false r
  | 0x5B => shapeMem .stN32Chs false false r
  | 0x5C => shapeMem .stN32Gl false true r
  | 0x5D => shapeMem .stN64Sp true false r
  | 0x5E => shapeMem .stN64Gl true true r
  | 0x5F => checked (r.xpOk true false) (evenIf true r.d && evenIf true r.a && r.b < 64) true (.ldroN64Gl (reg r.d) r.srcA (reg r.b))
  | 0x60 => decodeAtom r
  | 0x61 => decodeCas128 r
  | 0x62 => decodeFence r
  | 0x63 => decodeBar r
  | 0x64 => decodeTree r
  | 0x65 => checked (r.xpOk true false) (r.d < 8 && r.b == 0) true (.sync (mask r.d) r.srcA)
  | 0x66 => checked (r.xpOk true false) (r.d == 0 && evenIf true r.a && r.b < 64) true (.watch r.srcA (reg r.b))
  | 0x67 => checked true (r.a == 0 && r.limmOk && 1 ≤ r.imm.toNat && r.imm.toNat ≤ 65535) true (.doze (reg r.d) r.imm)
  | 0x68 => decodeAnn r
  | 0x69 => checked (r.xpOk true false) (evenIf true r.a && r.b == 0) true (.help (reg r.d) r.srcA)
  | 0x6A => checked (r.xpOk true false) (evenIf true r.a && r.b == 0) true (.annq (reg r.d) r.srcA)
  | 0x6B => checked (r.xpOk true false) (r.d < 8 && r.b < 6) true (.push (mask r.d) r.srcA (portOf r.b))
  | 0x6C => checked true (r.a < 6 && r.b < 8) true (.pop (reg r.d) (portOf r.a) (mask r.b))
  | 0x6D => checked true (r.a < 6 && r.b < 8) true (.peek (reg r.d) (portOf r.a) (mask r.b))
  | 0x6E => checked (r.xpOk true false) (r.d == 0 && r.limmOk) true (.brx r.srcA r.imm)
  | 0x6F => checked (r.xpOk true false) (r.d == 0 && evenIf true r.a && r.b == 0) true (.callx r.srcA)
  | 0x70 => .ok (.bra (BitVec.ofNat 24 r.l))
  | 0x71 => .ok (.call (BitVec.ofNat 24 r.l))
  | 0x72 => checked true r.bare true .ret
  | 0x73 => checked true r.bare true .exit
  | 0x74 => checked true (r.d == 0 && r.a == 0 && r.limmOk) true (.trap r.imm)
  | 0x75 => checked true r.bare true .bkpt
  | 0x76 => decodeScacc r
  | 0x77 => decodeAcc r
  | 0x78 => decodeMma .mmaF16 .mmaF16Async 3 r
  | 0x79 => decodeMma .mmaBf16 .mmaBf16Async 3 r
  | 0x7A => decodeMma .mmaE4m3 .mmaE4m3Async 7 r
  | 0x7B => decodeMma .mmaE5m2 .mmaE5m2Async 7 r
  | 0x7C => decodeMma .mmaI8 .mmaI8Async 7 r
  | 0x7D => decodeMma .mmaI4 .mmaI4Async 15 r
  | 0x7E => decodeMma .mmaQ4 .mmaQ4Async 15 r
  | _ => .error .main

/-- Bunch cells (R46). -/
def decodeBunch (r : Raw) : Except Bad Instr :=
  match r.op with
  | 0x01 => checked true r.bare true .nop
  | 0x02 => shapeGets .getsBunch r
  | 0x03 => checked true (sysOk r.d && (sysOf r.d).writable && r.a < 64 && r.b == 0) true (.setsBunch (sysOf r.d) (reg r.a))
  | 0x04 => checked true (r.a == 0 && r.limmOk) true (.movN32Bunch (reg r.d) r.imm)
  | 0x05 => shapeGGG .rdlaneN32 false r
  | 0x06 => checked true (r.d == 0 && r.a < 64 && r.limmOk) true (.bz (reg r.a) r.imm)
  | 0x07 => checked true (r.d == 0 && r.a < 64 && r.limmOk) true (.bnz (reg r.a) r.imm)
  | 0x08 => shapeGGG .addN32Bunch false r
  | 0x09 => shapeGGG .addN64Bunch true r
  | 0x0A => shapeGGG .subN32Bunch false r
  | 0x0B => shapeGGG .subN64Bunch true r
  | 0x0C => shapeGGG .mulloN32Bunch false r
  | 0x0D => shapeGGG .andN32Bunch false r
  | 0x0E => shapeGGG .orN32Bunch false r
  | 0x0F => shapeGGG .xorN32Bunch false r
  | 0x10 => shapeGGG .shlN32Bunch false r
  | 0x11 => shapeGGG .shrN32Bunch false r
  | 0x12 => shapeGGG .sarI32Bunch false r
  | 0x13 => shapeGGG .minI32Bunch false r
  | 0x14 => shapeGGG .minN32Bunch false r
  | 0x15 => shapeGGG .maxI32Bunch false r
  | 0x16 => shapeGGG .maxN32Bunch false r
  | 0x17 => shapeGGG .seqN32 false r
  | 0x18 => shapeGGG .sltI32 false r
  | 0x19 => shapeGGG .sltN32 false r
  | 0x1A => shapeGGI .addN32BunchImm false r
  | 0x1B => shapeGGI .addN64BunchImm true r
  | 0x1C => shapeGGI .andN32BunchImm false r
  | 0x1D => shapeGGI .shlN32BunchImm false r
  | 0x1E => shapeGGI .shrN32BunchImm false r
  | 0x20 => shapeGM .ldN32GlBunch false true r
  | 0x21 => shapeGM .ldN64GlBunch true true r
  | 0x22 => shapeGM .stN32GlBunch false true r
  | 0x23 => shapeGM .stN64GlBunch true true r
  | 0x24 => shapeGM .ldN32ChsBunch false false r
  | 0x25 => shapeGM .stN32ChsBunch false false r
  | 0x26 => shapeGM .ldN32SpBunch false false r
  | 0x27 => shapeGM .stN32SpBunch false false r
  | 0x28 => decodeCopy r
  | 0x29 => checked true (r.d == 0 && r.a == 0 && r.b < 2) true (.commit (engOf r.b))
  | 0x2A => checked true (r.d < 2 && r.a == 0 && r.limmOk) true (.bwait (engOf r.d) r.imm)
  | 0x2B => decodeSubs r
  | 0x2C => checked true (r.d == 0 && r.a < 64 && r.b == 0) true (.unsub (reg r.a))
  | 0x2D => checked true (r.a < 64 && r.b < 64 && even (reg r.a) && even (reg r.b)) true (.settrap (reg r.d) (reg r.a) (reg r.b))
  | 0x2E => checked true r.bare true .rtt
  | 0x2F => checked true r.bare true .halt
  | _ => .error .main

/-- The instruction of a split sequence. -/
def decodeRaw (r : Raw) : Except Bad Instr :=
  if r.bunch then decodeBunch r else if r.op < 64 then decodeLaneLow r else decodeLaneHigh r

/-! ## Splitting a sequence (R44) -/

/-- Cells in W format (R45, R46). -/
def isW (bunch : Bool) (op : Nat) : Bool :=
  if bunch then op == 0x28 || op == 0x2B
  else op == 0x60 || op == 0x61 || op == 0x68 || op == 0x76 || op == 0x77 || (0x78 ≤ op && op ≤ 0x7E)

/-- Lane cells in LA, LI, LM or W format with at least one vector source field (R44, R45). -/
def xpEligible (bunch : Bool) (op : Nat) : Bool :=
  !bunch && (op == 0x05 || (0x08 ≤ op && op ≤ 0x26) || (0x29 ≤ op && op ≤ 0x46) || (0x4C ≤ op && op ≤ 0x61) ||
    (0x63 ≤ op && op ≤ 0x66) || (0x68 ≤ op && op ≤ 0x6B) || op == 0x6E || op == 0x6F || (0x76 ≤ op && op ≤ 0x7E))

/-- LI and GI cells but those whose immediates carry reserved bits (R44). -/
def limmEligible (bunch : Bool) (op : Nat) : Bool :=
  if bunch then op == 0x04 || op == 0x06 || op == 0x07 || (0x1A ≤ op && op ≤ 0x1E) || op == 0x2A
  else (0x28 ≤ op && op ≤ 0x34) || op == 0x67 || op == 0x6E || op == 0x74

/-- The prefixes read so far: the lowest rank the next prefix may have (GUARD 0, XP 1, LIMM 2), the words, the number
of words. -/
structure Prefixes where
  rank : Nat
  guard : Option Nat
  xp : Option Nat
  limm : Option Nat
  n : Nat
  deriving DecidableEq, Repr

def Prefixes.none : Prefixes := ⟨0, Option.none, Option.none, Option.none, 0⟩

/-- GUARD, XP and LIMM words by their first byte, in the order of R44. -/
def prefixRank (w : Nat) : Option Nat :=
  match w / 16777216 with
  | 0x03 => some 0
  | 0x01 => some 1
  | 0x02 => some 2
  | _ => none

def Prefixes.add (p : Prefixes) (k w : Nat) : Prefixes :=
  match k with
  | 0 => { p with rank := 1, guard := some w, n := p.n + 1 }
  | 1 => { p with rank := 2, xp := some w, n := p.n + 1 }
  | _ => { p with rank := 3, limm := some w, n := p.n + 1 }

/-- The fields of an XP word (R41). -/
def xpOfWord (w : Nat) : Xp := ⟨w / 524288 % 32, w / 262144 % 2 == 1, w / 8192 % 32, w / 4096 % 2 == 1⟩

/-- The split sequence of the prefixes, a first word and a second word. -/
def rawOf (p : Prefixes) (w w2 : Nat) : Raw :=
  { bunch := w / 2147483648 % 2 == 1, op := w / 16777216 % 128, d := w / 262144 % 64, a := w / 512 % 512, b := w % 512,
    w2 := w2, xp := p.xp.map xpOfWord, limm := p.limm.map (· % 16777216) }

/-- The place of the XP word in its sequence. -/
def Prefixes.xpAt (p : Prefixes) : Nat := if p.guard.isSome then 1 else 0
/-- The place of the LIMM word in its sequence. -/
def Prefixes.limmAt (p : Prefixes) : Nat := p.xpAt + if p.xp.isSome then 1 else 0

/-- The first prefix that finds its governed word ineligible (R44, R51). -/
def ineligible (p : Prefixes) (bunch : Bool) (op : Nat) : Option Nat :=
  if p.guard.isSome && bunch then some 0
  else if p.xp.isSome && !xpEligible bunch op then some p.xpAt
  else if p.limm.isSome && !limmEligible bunch op then some p.limmAt
  else none

/-- The gate of a GUARD word (R43). -/
def gateOf (w : Nat) : Mask × Bool := (mask (w / 262144), w / 131072 % 2 == 1)

/-- Decode a first word (and the second word of a W cell) under its prefixes. Where a sequence has more than one fault, R51 does
not say which word the record names: the order of the checks here is the model's choice (log 32). -/
def finish (p : Prefixes) (w w2 words : Nat) : DecodeResult :=
  let r := rawOf p w w2
  match ineligible p r.bunch r.op with
  | some k => .illegal k
  | none =>
    if p.guard.any (fun g => g / 2097152 % 8 != 0 || g % 131072 != 0) then .illegal 0
    else if p.xp.any (fun x => x % 4096 != 0) then .illegal p.xpAt
    else match decodeRaw r with
      | .ok i => .ok ⟨p.guard.map gateOf, i, p.n, p.n + words⟩
      | .error .xp => .illegal p.xpAt
      | .error .main => .illegal p.n
      | .error .second => .illegal (p.n + 1)

/-- Read prefixes, then the instruction. A prefix that repeats an earlier one, or stands after one that must follow
it, makes the sequence illegal at that prefix, whatever stands behind it (R51). -/
def decodeFrom (p : Prefixes) : List Nat → DecodeResult
  | [] => .short
  | w :: ws =>
    match prefixRank w with
    | some k => if k < p.rank then .illegal p.n else decodeFrom (p.add k w) ws
    | none =>
      if isW (w / 2147483648 % 2 == 1) (w / 16777216 % 128) then
        match ws with
        | [] => .short
        | w2 :: _ => finish p w w2 2
      else finish p w 0 1

/-- The decoder: the sequence that starts with the first of the words (R31, R44). -/
def decode (ws : List Nat) : DecodeResult := decodeFrom .none ws

/-- A sequence has at most three prefixes and two words. -/
def maxWords : Nat := 5

/-- Little-endian words of a byte string (R31); a last partial word is dropped. -/
def wordsOfBytes : List Byte → List Nat
  | b0 :: b1 :: b2 :: b3 :: bs =>
    (b0.toNat + b1.toNat * 256 + b2.toNat * 65536 + b3.toNat * 16777216) :: wordsOfBytes bs
  | _ => []

def decodeBytes (bs : List Byte) : DecodeResult := decode (wordsOfBytes bs)

/-- The byte string of n words numbered as the opcode table numbers an instruction's bits, the first word lowest. -/
def bytesOfBits (n w : Nat) : List Byte := (List.range (4 * n)).map fun k => BitVec.ofNat 8 (w / 256 ^ k)

/-- The instruction the decoder reads from an instruction whose bits are w, numbered as spec/opcode_table.json numbers
them; the bits above nbits are 0. -/
def decodeTableWord (nbits w : Nat) : Option Instr :=
  match decodeBytes (bytesOfBits maxWords (w % 2 ^ nbits)) with
  | .ok x => some x.instr
  | .illegal _ => none
  | .short => none

/-! ## The encoder -/

def scode : Scope → Nat
  | .bn => 1
  | .gp => 2
  | .cl => 3
  | .dv => 4
  | .sy => 5
def qcode : Qual → Nat
  | none => 0
  | some s => scode s
def ICond.code : ICond → Nat
  | .eq => 0
  | .ne => 1
  | .lt => 2
  | .le => 3
  | .gt => 4
  | .ge => 5
  | .tst => 6
  | .ntst => 7
def FCond.code : FCond → Nat
  | .eq => 0
  | .ne => 1
  | .lt => 2
  | .le => 3
  | .gt => 4
  | .ge => 5
  | .un => 6
  | .ord => 7
def SysReg.number : SysReg → Nat
  | .lane => 0
  | .wid => 1
  | .widh => 2
  | .wf0 => 3
  | .wf1 => 4
  | .wf2 => 5
  | .wf3 => 6
  | .wf4 => 7
  | .wf5 => 8
  | .core => 9
  | .cyc => 10
  | .cych => 11
  | .gs => 12
  | .fmode => 13
  | .pstat => 14
  | .pspill => 15
  | .rsd => 16
def Port.number : Port → Nat
  | .lo => 0
  | .hi => 1
  | .n => 2
  | .s => 3
  | .e => 4
  | .w => 5
def Eng.code : Eng → Nat
  | .mx => 0
  | .cp => 1
def spcode : ASpace → Nat
  | .gl => 0
  | .sp => 1
  | .csm => 2
  | .chs => 3

/-- The crossbar code, parameter and broadcast bit of a pattern (R25, R41). -/
def Pat.code : Pat → Nat
  | .self => 0
  | .rot _ => 1
  | .bfly _ => 2
  | .mir => 3
  | .bc _ => 3
def Pat.k : Pat → Nat
  | .self => 0
  | .rot k => k.val
  | .bfly k => k.val
  | .mir => 0
  | .bc k => k.val
def Pat.bcast : Pat → Bool
  | .bc _ => true
  | .self | .rot _ | .bfly _ | .mir => false
/-- The pattern is one the code alone does not give (R35, R41). -/
def Pat.needsXp : Pat → Bool
  | .rot k => k.val != 1
  | .bfly k => k.val != 1
  | .bc _ => true
  | .self | .mir => false

def encSrc (s : Src) : Nat := s.last.toNat * 256 + s.pat.code * 64 + s.reg.val
def encOwn (s : Own) : Nat := s.last.toNat * 256 + s.reg.val

def mkRaw (bunch : Bool) (op d a b : Nat) : Raw :=
  { bunch := bunch, op := op, d := d, a := a, b := b, w2 := 0, xp := none, limm := none }
def mkLane (op d a b : Nat) : Raw := mkRaw false op d a b
def mkBunch (op d a b : Nat) : Raw := mkRaw true op d a b

/-- The XP word of one or two sources, present only where a pattern needs it. -/
def xpFor (a b : Pat) : Option Xp :=
  if a.needsXp || b.needsXp then some ⟨a.k, a.bcast, b.k, b.bcast⟩ else none

def encSrcA (op d : Nat) (a : Src) (b : Nat) : Raw :=
  { mkLane op d (encSrc a) b with xp := xpFor a.pat .self }
def encSrcB (op d a : Nat) (b : Src) : Raw :=
  { mkLane op d a (encSrc b) with xp := xpFor .self b.pat }
def encSrcAB (op d : Nat) (a b : Src) : Raw :=
  { mkLane op d (encSrc a) (encSrc b) with xp := xpFor a.pat b.pat }
def encRRR (op : Nat) (d : Reg) (a b : Src) : Raw := encSrcAB op d.val a b
/-- The immediate in I alone where it fits nine signed bits, else with LIMM (R37, R42). -/
def encImm (r : Raw) (imm : Word) : Raw :=
  if (BitVec.ofNat 9 imm.toNat).signExtend 32 = imm then { r with b := imm.toNat % 512 }
  else { r with b := imm.toNat % 256, limm := some (imm.toNat / 256) }
def encRRI (op : Nat) (d : Reg) (a : Src) (imm : Word) : Raw := encImm (encSrcA op d.val a 0) imm
def encW (r : Raw) (w2 : Nat) : Raw := { r with w2 := w2 }
def encLB (op : Nat) (l : BitVec 24) : Raw :=
  mkLane op (l.toNat / 262144) (l.toNat / 512 % 512) (l.toNat % 512)
def encAtom (op : Nat) (x : AtomOp) (c : Nat) : Raw :=
  encW (encSrcAB 0x60 x.d.val x.a x.b)
    (c * 4096 + x.ret.toNat * 2048 + qcode x.q * 256 + spcode x.sp * 32 + x.w64.toNat * 16 + op)
def encCas128 (x : Cas128Op) : Raw :=
  encW (encSrcA 0x61 x.d.val x.a (encOwn x.b))
    (encOwn x.c * 4096 + x.ret.toNat * 2048 + qcode x.q * 256 + spcode x.sp * 32)
def encScacc (x : ScaccOp) : Raw :=
  let w2 := x.sf.val * 536870912 + x.j.val * 262144 + x.vi.isSome.toNat * 131072 + x.clr.toNat * 65536
  let d := x.lenM1.val * 8 + x.f.val
  match x.vi with
  | none => encW (mkLane 0x76 d 0 x.sd.val) w2
  | some s => encW (encSrcA 0x76 d s x.sd.val) w2
def encAccadd (x : AccaddOp) : Raw :=
  encW (encSrcA 0x76 (x.lenM1.val * 8 + x.f.val) x.a 0) (32768 + x.o.val * 512 + spcode x.sp * 64)
def encAcc (op : Nat) (x : AccOp) : Raw :=
  encW (encSrcA 0x77 x.acc.val x.a 0) (x.o.val * 256 + spcode x.sp * 32 + qcode x.q * 4 + op)
def encMma (op : Nat) (async : Bool) (x : MmaOp) : Raw :=
  encW (encSrcA op (x.lenM1.val * 8 + x.f.val) x.vi x.sb.val)
    (x.sa.val * 67108864 + x.dep.val * 4194304 + x.ka.val * 1024 + x.t.toNat * 512 + async.toNat * 256)

/-- The fields of an instruction's sequence, without GUARD; none for a step that has no encoding. -/
def encodeRaw (i : Instr) : Option Raw :=
  match i with
  | .illegal _ => none
  | .gets d q => some (mkLane 0x04 d.val q.number 0)
  | .sets q a => some (encSrcA 0x05 q.number a 0)
  | .movuN32 d a => some (mkLane 0x06 d.val a.val 0)
  | .movuN64 d a => some (mkLane 0x07 d.val a.val 0)
  | .addN32 d a b => some (encRRR 0x08 d a b)
  | .addN64 d a b => some (encRRR 0x09 d a b)
  | .subN32 d a b => some (encRRR 0x0A d a b)
  | .subN64 d a b => some (encRRR 0x0B d a b)
  | .mulloN32 d a b => some (encRRR 0x0C d a b)
  | .mulhiI32 d a b => some (encRRR 0x0D d a b)
  | .mulhiN32 d a b => some (encRRR 0x0E d a b)
  | .shaddN64 d a b => some (encRRR 0x0F d a b)
  | .andN32 d a b => some (encRRR 0x10 d a b)
  | .orN32 d a b => some (encRRR 0x11 d a b)
  | .xorN32 d a b => some (encRRR 0x12 d a b)
  | .shlN32 d a b => some (encRRR 0x13 d a b)
  | .shlN64 d a b => some (encRRR 0x14 d a b)
  | .shrN32 d a b => some (encRRR 0x15 d a b)
  | .shrN64 d a b => some (encRRR 0x16 d a b)
  | .sarI32 d a b => some (encRRR 0x17 d a b)
  | .sarI64 d a b => some (encRRR 0x18 d a b)
  | .minI32 d a b => some (encRRR 0x19 d a b)
  | .minN32 d a b => some (encRRR 0x1A d a b)
  | .maxI32 d a b => some (encRRR 0x1B d a b)
  | .maxN32 d a b => some (encRRR 0x1C d a b)
  | .bfxN32 d a b => some (encRRR 0x1D d a b)
  | .bfxI32 d a b => some (encRRR 0x1E d a b)
  | .bfiN32 d a b => some (encRRR 0x1F d a b)
  | .addsatI32 d a b => some (encRRR 0x20 d a b)
  | .addsatN32 d a b => some (encRRR 0x21 d a b)
  | .subsatI32 d a b => some (encRRR 0x22 d a b)
  | .subsatN32 d a b => some (encRRR 0x23 d a b)
  | .movN32 d a => some (encSrcA 0x24 d.val a 0)
  | .movN64 d a => some (encSrcA 0x24 d.val a 1)
  | .notN32 d a => some (encSrcA 0x24 d.val a 2)
  | .negI32 d a => some (encSrcA 0x24 d.val a 3)
  | .absI32 d a => some (encSrcA 0x24 d.val a 4)
  | .negI64 d a => some (encSrcA 0x24 d.val a 5)
  | .popcN32 d a => some (encSrcA 0x24 d.val a 6)
  | .clzN32 d a => some (encSrcA 0x24 d.val a 7)
  | .brevN32 d a => some (encSrcA 0x24 d.val a 8)
  | .sextI8 d a => some (encSrcA 0x24 d.val a 9)
  | .sextI16 d a => some (encSrcA 0x24 d.val a 10)
  | .absF32 d a => some (encSrcA 0x25 d.val a 0)
  | .negF32 d a => some (encSrcA 0x25 d.val a 1)
  | .rcpF32 d a => some (encSrcA 0x25 d.val a 2)
  | .rsqF32 d a => some (encSrcA 0x25 d.val a 3)
  | .floorF32 d a => some (encSrcA 0x25 d.val a 4)
  | .ceilF32 d a => some (encSrcA 0x25 d.val a 5)
  | .truncF32 d a => some (encSrcA 0x25 d.val a 6)
  | .rintF32 d a => some (encSrcA 0x25 d.val a 7)
  | .getexpF32 d a => some (encSrcA 0x25 d.val a 8)
  | .getmantF32 d a => some (encSrcA 0x25 d.val a 9)
  | .absF16 d a => some (encSrcA 0x25 d.val a 10)
  | .negF16 d a => some (encSrcA 0x25 d.val a 11)
  | .rcpF16 d a => some (encSrcA 0x25 d.val a 12)
  | .absBf16 d a => some (encSrcA 0x25 d.val a 13)
  | .negBf16 d a => some (encSrcA 0x25 d.val a 14)
  | .cvtI32F32 d a sat => some (encSrcA 0x26 d.val a (0x028 + sat.toNat * 256))
  | .cvtN32F32 d a sat => some (encSrcA 0x26 d.val a (0x068 + sat.toNat * 256))
  | .cvtF32I32 d a => some (encSrcA 0x26 d.val a 0x082)
  | .cvtF32N32 d a => some (encSrcA 0x26 d.val a 0x086)
  | .cvtF16F32 d a sat => some (encSrcA 0x26 d.val a (0x098 + sat.toNat * 256))
  | .cvtBf16F32 d a sat => some (encSrcA 0x26 d.val a (0x0A8 + sat.toNat * 256))
  | .cvtE4m3F32 d a sat => some (encSrcA 0x26 d.val a (0x0B8 + sat.toNat * 256))
  | .cvtE5m2F32 d a sat => some (encSrcA 0x26 d.val a (0x0C8 + sat.toNat * 256))
  | .cvtF32F16 d a => some (encSrcA 0x26 d.val a 0x089)
  | .cvtF32Bf16 d a => some (encSrcA 0x26 d.val a 0x08A)
  | .cvtF32E4m3 d a => some (encSrcA 0x26 d.val a 0x08B)
  | .cvtF32E5m2 d a => some (encSrcA 0x26 d.val a 0x08C)
  | .cvtQ4F32 d a => some (encSrcA 0x26 d.val a 0x0D8)
  | .cvtF32Q4 d a => some (encSrcA 0x26 d.val a 0x08D)
  | .cvtI4I32 d a sat => some (encSrcA 0x26 d.val a (0x0E2 + sat.toNat * 256))
  | .cvtI32I4 d a => some (encSrcA 0x26 d.val a 0x02E)
  | .cvtN8I32 d a sat => some (encSrcA 0x26 d.val a (0x042 + sat.toNat * 256))
  | .cvtN16I32 d a sat => some (encSrcA 0x26 d.val a (0x052 + sat.toNat * 256))
  | .cvtN8N32 d a sat => some (encSrcA 0x26 d.val a (0x046 + sat.toNat * 256))
  | .cvtN16N32 d a sat => some (encSrcA 0x26 d.val a (0x056 + sat.toNat * 256))
  | .movN32Imm d imm => some (encImm (mkLane 0x28 d.val 0 0) imm)
  | .addN32Imm d a imm => some (encRRI 0x29 d a imm)
  | .addN64Imm d a imm => some (encRRI 0x2A d a imm)
  | .mulloN32Imm d a imm => some (encRRI 0x2B d a imm)
  | .andN32Imm d a imm => some (encRRI 0x2C d a imm)
  | .orN32Imm d a imm => some (encRRI 0x2D d a imm)
  | .shlN32Imm d a imm => some (encRRI 0x2E d a imm)
  | .shlN64Imm d a imm => some (encRRI 0x2F d a imm)
  | .shrN32Imm d a imm => some (encRRI 0x30 d a imm)
  | .sarI32Imm d a imm => some (encRRI 0x31 d a imm)
  | .cmpI32Imm cc m a imm => some (encImm (encSrcA 0x32 (cc.code * 8 + m.val) a 0) imm)
  | .addF32Imm d a imm => some (encRRI 0x33 d a imm)
  | .mulF32Imm d a imm => some (encRRI 0x34 d a imm)
  | .shflup d a k => some (mkLane 0x35 d.val (encOwn a) k.val)
  | .shfldn d a k => some (mkLane 0x36 d.val (encOwn a) k.val)
  | .shflx d a k => some (mkLane 0x37 d.val (encOwn a) k.val)
  | .addF32 d a b => some (encRRR 0x38 d a b)
  | .subF32 d a b => some (encRRR 0x39 d a b)
  | .mulF32 d a b => some (encRRR 0x3A d a b)
  | .fmadF32 d a b => some (encRRR 0x3B d a b)
  | .minF32 d a b => some (encRRR 0x3C d a b)
  | .maxF32 d a b => some (encRRR 0x3D d a b)
  | .scalexpF32 d a b => some (encRRR 0x3E d a b)
  | .addF16 d a b => some (encRRR 0x3F d a b)
  | .mulF16 d a b => some (encRRR 0x40 d a b)
  | .fmadF16 d a b => some (encRRR 0x41 d a b)
  | .fmadBf16 d a b => some (encRRR 0x42 d a b)
  | .cmpI32 cc m a b => some (encSrcAB 0x43 (cc.code * 8 + m.val) a b)
  | .cmpN32 cc m a b => some (encSrcAB 0x44 (cc.code * 8 + m.val) a b)
  | .cmpF32 cc m a b => some (encSrcAB 0x45 (cc.code * 8 + m.val) a b)
  | .selN32 d a b => some (encRRR 0x46 d a b)
  | .ballot d m => some (mkLane 0x47 d.val m.val 0)
  | .mand d a b => some (mkLane 0x48 d.val a.val b.val)
  | .mor d a b => some (mkLane 0x49 d.val a.val b.val)
  | .mxor d a b => some (mkLane 0x4A d.val a.val b.val)
  | .mget d m => some (mkLane 0x4B d.val m.val 0)
  | .mset m a => some (encSrcA 0x4C m.val a 0)
  | .shfl d a b => some (encSrcB 0x4D d.val (encOwn a) b)
  | .match d a => some (mkLane 0x4E d.val (encOwn a) 0)
  | .rdaddN32 d a => some (mkLane 0x4F d.val (encOwn a) 0)
  | .ldN32Lp d a q o => some (encSrcA 0x50 d.val a (qcode q * 64 + o.val))
  | .ldN32Sp d a q o => some (encSrcA 0x51 d.val a (qcode q * 64 + o.val))
  | .ldN32Csm d a q o => some (encSrcA 0x52 d.val a (qcode q * 64 + o.val))
  | .ldN32Chs d a q o => some (encSrcA 0x53 d.val a (qcode q * 64 + o.val))
  | .ldN32Gl d a q o => some (encSrcA 0x54 d.val a (qcode q * 64 + o.val))
  | .ldN64Sp d a q o => some (encSrcA 0x55 d.val a (qcode q * 64 + o.val))
  | .ldN64Gl d a q o => some (encSrcA 0x56 d.val a (qcode q * 64 + o.val))
  | .ldroN32Gl d a o => some (encSrcA 0x57 d.val a o.val)
  | .stN32Lp d a q o => some (encSrcA 0x58 d.val a (qcode q * 64 + o.val))
  | .stN32Sp d a q o => some (encSrcA 0x59 d.val a (qcode q * 64 + o.val))
  | .stN32Csm d a q o => some (encSrcA 0x5A d.val a (qcode q * 64 + o.val))
  | .stN32Chs d a q o => some (encSrcA 0x5B d.val a (qcode q * 64 + o.val))
  | .stN32Gl d a q o => some (encSrcA 0x5C d.val a (qcode q * 64 + o.val))
  | .stN64Sp d a q o => some (encSrcA 0x5D d.val a (qcode q * 64 + o.val))
  | .stN64Gl d a q o => some (encSrcA 0x5E d.val a (qcode q * 64 + o.val))
  | .ldroN64Gl d a o => some (encSrcA 0x5F d.val a o.val)
  | .atadd x => some (encAtom 0 x 0)
  | .atand x => some (encAtom 1 x 0)
  | .ator x => some (encAtom 2 x 0)
  | .atxor x => some (encAtom 3 x 0)
  | .atminI x => some (encAtom 4 x 0)
  | .atminN x => some (encAtom 5 x 0)
  | .atmaxI x => some (encAtom 6 x 0)
  | .atmaxN x => some (encAtom 7 x 0)
  | .atxch x => some (encAtom 8 x 0)
  | .atcas x cc => some (encAtom 9 x (encOwn cc))
  | .atfadd x => some (encAtom 10 x 0)
  | .cas128 x => some (encCas128 x)
  | .fence sc => some (mkLane 0x62 0 0 (scode sc))
  | .fenceAll => some (mkLane 0x62 0 0 0x08)
  | .fencePort sc => some (mkLane 0x62 0 0 (0x10 + scode sc))
  | .acqRo => some (mkLane 0x62 0 0 0x18)
  | .barArr d n => some (mkLane 0x63 d.val 0 n.val)
  | .barTst m a n => some (encSrcA 0x63 m.val a (0x40 + n.val))
  | .barCnt a n => some (encSrcA 0x63 0 a (0x80 + n.val))
  | .treeArr d t => some (mkLane 0x64 d.val 0 t.val)
  | .treeTst m a t => some (encSrcA 0x64 m.val a (8 + t.val))
  | .treeRelease => none
  | .sync m a => some (encSrcA 0x65 m.val a 0)
  | .watch a o => some (encSrcA 0x66 0 a o.val)
  | .doze d imm => some (encImm (mkLane 0x67 d.val 0 0) imm)
  | .dozeExpiry => none
  | .wakeEvent => none
  | .annPush d m a b => some (encW (encSrcAB 0x68 d.val a b) (0 * 256 + m.val))
  | .annPop d m a b => some (encW (encSrcAB 0x68 d.val a b) (1 * 256 + m.val))
  | .annEnq d m a b => some (encW (encSrcAB 0x68 d.val a b) (2 * 256 + m.val))
  | .annDeq d m a b => some (encW (encSrcAB 0x68 d.val a b) (3 * 256 + m.val))
  | .annAddf d m a b => some (encW (encSrcAB 0x68 d.val a b) (4 * 256 + m.val))
  | .annSwapeq d m a b => some (encW (encSrcAB 0x68 d.val a b) (5 * 256 + m.val))
  | .help d a => some (encSrcA 0x69 d.val a 0)
  | .annq d a => some (encSrcA 0x6A d.val a 0)
  | .push m a p => some (encSrcA 0x6B m.val a p.number)
  | .pop d p m => some (mkLane 0x6C d.val p.number m.val)
  | .peek d p m => some (mkLane 0x6D d.val p.number m.val)
  | .portEntryArrival => none
  | .portCreditArrival => none
  | .brx a imm => some (encImm (encSrcA 0x6E 0 a 0) imm)
  | .callx a => some (encSrcA 0x6F 0 a 0)
  | .bra l => some (encLB 0x70 l)
  | .call l => some (encLB 0x71 l)
  | .ret => some (mkLane 0x72 0 0 0)
  | .exit => some (mkLane 0x73 0 0 0)
  | .trap imm => some (encImm (mkLane 0x74 0 0 0) imm)
  | .bkpt => some (mkLane 0x75 0 0 0)
  | .scacc x => some (encScacc x)
  | .accadd x => some (encAccadd x)
  | .accSt x => some (encAcc 0 x)
  | .accLd x => some (encAcc 1 x)
  | .accClr acc => some (encW (mkLane 0x77 acc.val 0 0) 2)
  | .mmaF16 x => some (encMma 0x78 false x)
  | .mmaF16Async x => some (encMma 0x78 true x)
  | .mmaBf16 x => some (encMma 0x79 false x)
  | .mmaBf16Async x => some (encMma 0x79 true x)
  | .mmaE4m3 x => some (encMma 0x7A false x)
  | .mmaE4m3Async x => some (encMma 0x7A true x)
  | .mmaE5m2 x => some (encMma 0x7B false x)
  | .mmaE5m2Async x => some (encMma 0x7B true x)
  | .mmaI8 x => some (encMma 0x7C false x)
  | .mmaI8Async x => some (encMma 0x7C true x)
  | .mmaI4 x => some (encMma 0x7D false x)
  | .mmaI4Async x => some (encMma 0x7D true x)
  | .mmaQ4 x => some (encMma 0x7E false x)
  | .mmaQ4Async x => some (encMma 0x7E true x)
  | .nop => some (mkBunch 0x01 0 0 0)
  | .getsBunch d q => some (mkBunch 0x02 d.val q.number 0)
  | .setsBunch q a => some (mkBunch 0x03 q.number a.val 0)
  | .movN32Bunch d imm => some (encImm (mkBunch 0x04 d.val 0 0) imm)
  | .rdlaneN32 d a b => some (mkBunch 0x05 d.val a.val b.val)
  | .bz a imm => some (encImm (mkBunch 0x06 0 a.val 0) imm)
  | .bnz a imm => some (encImm (mkBunch 0x07 0 a.val 0) imm)
  | .addN32Bunch d a b => some (mkBunch 0x08 d.val a.val b.val)
  | .addN64Bunch d a b => some (mkBunch 0x09 d.val a.val b.val)
  | .subN32Bunch d a b => some (mkBunch 0x0A d.val a.val b.val)
  | .subN64Bunch d a b => some (mkBunch 0x0B d.val a.val b.val)
  | .mulloN32Bunch d a b => some (mkBunch 0x0C d.val a.val b.val)
  | .andN32Bunch d a b => some (mkBunch 0x0D d.val a.val b.val)
  | .orN32Bunch d a b => some (mkBunch 0x0E d.val a.val b.val)
  | .xorN32Bunch d a b => some (mkBunch 0x0F d.val a.val b.val)
  | .shlN32Bunch d a b => some (mkBunch 0x10 d.val a.val b.val)
  | .shrN32Bunch d a b => some (mkBunch 0x11 d.val a.val b.val)
  | .sarI32Bunch d a b => some (mkBunch 0x12 d.val a.val b.val)
  | .minI32Bunch d a b => some (mkBunch 0x13 d.val a.val b.val)
  | .minN32Bunch d a b => some (mkBunch 0x14 d.val a.val b.val)
  | .maxI32Bunch d a b => some (mkBunch 0x15 d.val a.val b.val)
  | .maxN32Bunch d a b => some (mkBunch 0x16 d.val a.val b.val)
  | .seqN32 d a b => some (mkBunch 0x17 d.val a.val b.val)
  | .sltI32 d a b => some (mkBunch 0x18 d.val a.val b.val)
  | .sltN32 d a b => some (mkBunch 0x19 d.val a.val b.val)
  | .addN32BunchImm d a imm => some (encImm (mkBunch 0x1A d.val a.val 0) imm)
  | .addN64BunchImm d a imm => some (encImm (mkBunch 0x1B d.val a.val 0) imm)
  | .andN32BunchImm d a imm => some (encImm (mkBunch 0x1C d.val a.val 0) imm)
  | .shlN32BunchImm d a imm => some (encImm (mkBunch 0x1D d.val a.val 0) imm)
  | .shrN32BunchImm d a imm => some (encImm (mkBunch 0x1E d.val a.val 0) imm)
  | .ldN32GlBunch d a q o => some (mkBunch 0x20 d.val a.val (qcode q * 64 + o.val))
  | .ldN64GlBunch d a q o => some (mkBunch 0x21 d.val a.val (qcode q * 64 + o.val))
  | .stN32GlBunch d a q o => some (mkBunch 0x22 d.val a.val (qcode q * 64 + o.val))
  | .stN64GlBunch d a q o => some (mkBunch 0x23 d.val a.val (qcode q * 64 + o.val))
  | .ldN32ChsBunch d a q o => some (mkBunch 0x24 d.val a.val (qcode q * 64 + o.val))
  | .stN32ChsBunch d a q o => some (mkBunch 0x25 d.val a.val (qcode q * 64 + o.val))
  | .ldN32SpBunch d a q o => some (mkBunch 0x26 d.val a.val (qcode q * 64 + o.val))
  | .stN32SpBunch d a q o => some (mkBunch 0x27 d.val a.val (qcode q * 64 + o.val))
  | .copy a ss ds => some (encW (mkBunch 0x28 0 a.val 0) (spcode ss * 8 + spcode ds))
  | .commit e => some (mkBunch 0x29 0 0 e.code)
  | .bwait e imm => some (encImm (mkBunch 0x2A e.code 0 0) imm)
  | .subs d a n base => some (encW (mkBunch 0x2B d.val a.val 0) (n.val * 2 ^ 20 + base.toNat))
  | .unsub a => some (mkBunch 0x2C 0 a.val 0)
  | .settrap d a b => some (mkBunch 0x2D d.val a.val b.val)
  | .rtt => some (mkBunch 0x2E 0 0 0)
  | .halt => some (mkBunch 0x2F 0 0 0)
  | .issueCycle => none
  | .runUrgent => none
  | .loadReturn => none
  | .atomicApply => none
  | .csmRemoteArrival => none
  | .sliceRequest => none
  | .lineLockClear => none
  | .directoryInvalidate => none
  | .pageWalk => none
  | .mmaExecute => none
  | .scaccExecute => none
  | .accaddExecute => none
  | .copyJobExecute => none
  | .engineCommandRetire => none
  | .pickerFill => none
  | .pickerPullback => none
  | .doorbell => none
  | .queuePollExpiry => none
  | .launch => none
  | .graph => none
  | .basket => none
  | .settle => none
  | .tlbinv => none
  | .migrate => none
  | .keyload => none
  | .wait => none
  | .launchComplete => none
  | .graphNodeComplete => none
  | .settleComplete => none
  | .tlbinvComplete => none
  | .migrateCopyComplete => none
  | .keyloadComplete => none
  | .paletteDispatch => none
  | .placementResume => none
  | .basketCount => none
  | .basketCountdownExpiry => none
  | .errorLogPoll => none
  | .respReplay => none
  | .respHalt => none
  | .respRelease => none
  | .haltArrival => none
  | .groupDump => none
  | .contextSave => none
  | .contextRestore => none
  | .stallSample => none
  | .debugRecordDrop => none
  | .clockThrottle => none
  | .thermalHalt => none
  | .linkDown => none
  | .linkTimeout => none
  | .inboundPeerAccess => none
  | .declareAgentDead => none
  | .firmwareImageVerify => none
  | .moduleReset => none
  | .registerWrite => none
  | .hostInboundAccess => none
  | .linkUp => none
  | .agentRejoin => none
  | .pickerAcknowledge => none
  | .storePerformed => none
  | .instructionFetch => none

/-- The words of a split sequence (R31, R41, R42). -/
def Raw.mainWord (r : Raw) : Nat := r.bunch.toNat * 2147483648 + r.op * 16777216 + r.d * 262144 + r.a * 512 + r.b
def Xp.word (x : Xp) : Nat :=
  0x01000000 + x.ka * 524288 + x.ba.toNat * 262144 + x.kb * 8192 + x.bb.toNat * 4096
def Raw.words (r : Raw) : List Nat :=
  r.xp.toList.map Xp.word ++ r.limm.toList.map (0x02000000 + ·) ++ r.mainWord :: (if isW r.bunch r.op then [r.w2] else [])

/-- The words of a well-formed instruction, from its XP or LIMM word where it needs one to its last word; none for a
step of another agent, which has no encoding. -/
def encode (i : Instr) : Option (List Nat) :=
  if i.wellFormed then (encodeRaw i).map Raw.words else none

end Sys2Proof
end

