-- ==== Sys2Proof/Machine/Halts.lean ====
section
/-! DEFINITION. Machine/Halts.lean: the arrival of a halt (R298), the dump of a halted group (R296, R301 to R307), the
host's answers (R319, R321), and the saving and restoring of a context (R322 to R324). -/

namespace Sys2Proof.Machine

/-! ## The halt at the other cores (R298) -/

/-- A halt of a launch reaches a core (a the core, b the launch) and stops the launch's groups there. (R298, R308) -/
def execHaltArrival (s : State) : Host.Outcome State Fault Refusal :=
  let m := (s.event.a, s.event.b)
  if !s.haltMsgs.contains m then .next s
  else
    let s := { s with haltMsgs := s.haltMsgs.erase m }
    match s.launch? m.2 with
    | none => .next s
    | some l =>
      match l.origin with
      | none => .next s
      | some o =>
        .next ((((s.residentOn m.1).filter fun g => g.launch == l.id).foldl (fun s g => s.stopGroup g.gid 2 o) s).failCheck l.id)

/-! ## The dump (R301 to R307) -/

/-- A copy as the dump reads it: from the group's state, or, as its core would, from the slot of a spilled register; with its
poison. -/
def State.dumpCopy (s : State) (h : Header) (core ctx num bi : Nat) (b : Bunch) (l : Fin 32) (r : Reg) : Word × Bool :=
  if !b.isLive r l then (0, false)
  else if b.regs[r].rep.isSpilled then
    match s.easelXlate ctx (h.slot num bi l r) .load with
    | .ok x =>
      let v := s.peek core (s.asidOf ctx) (h.slot num bi l r) x 4
      (BitVec.ofNat 32 (ofBytes v.1), v.2)
    | .error _ => (0, false)
  else (b.val r l, b.isBad r l)
def Thread.tstate (t : Thread) : Nat :=
  match t.st with | .exited => 4 | .parked _ _ => 3 | .dozing _ _ _ _ => 2 | .running => 1 | .moved _ => 1
def Thread.parkedAt (t : Thread) : Nat × DWord := match t.st with | .parked c a => (c, a) | _ => (0, 0)
/-- A thread record (R304), and the offsets in it of poisoned words. -/
def State.threadRecord (s : State) (g : Group) (h : Header) (ctx bi : Nat) (b : Bunch) (l : Fin 32) : List Byte × List Nat :=
  let t := b.threads[l]
  let vs := (List.finRange 64).map fun r => s.dumpCopy h g.core ctx g.num bi b l r
  let live := (List.finRange 64).foldl (fun (w : BitVec 64) r => if b.isLive r l then w ||| (1#64 <<< r.val) else w) 0
  let masks := (List.finRange 8).foldl (fun (w : BitVec 64) m => if b.masks[m].getLsbD l.val then w ||| (1#64 <<< m.val) else w) 0
  let accs := (t.acc.toList.take h.accum)
  (toBytes 8 (if t.st == .exited then t.exitPc else t.pc)
    ++ toBytes 4 (BitVec.ofNat 64 (t.parkedAt.1 * 256 + t.tstate)) ++ toBytes 4 (t.fmode.setWidth 64) ++ toBytes 8 live
    ++ toBytes 4 masks ++ toBytes 4 (BitVec.ofNat 64 t.rsd) ++ toBytes 8 t.parkedAt.2
    ++ toBytes 8 (h.wid g.num (threadIndex bi l)) ++ List.replicate 16 0 ++ wordBytes (vs.map fun v => v.1)
    ++ accs.flatMap (fun a => wordBytes a.cols.toList),
   ((List.range 64).filter fun k => (vs.getD k (0, false)).2).map (fun k => 64 + 4 * k)
    ++ (List.range h.accum).flatMap fun j => ((List.range 16).filter fun c => (t.acc.toList.getD j AccRow.zero).poison.getLsbD c).map
        fun c => 320 + 64 * j + 4 * c)
/-- A bunch record (R303). -/
def State.bunchRecord (s : State) (g : Group) (b : Bunch) : List Byte :=
  wordBytes b.sregs.toList ++ wordBytes [b.mx.seqWord, b.cp.seqWord, s.pstat g.core b, b.pspill]
/-- Threads of a group, in thread order. -/
def Group.threadPlaces (g : Group) : List (Nat × Bunch × Fin 32) :=
  (List.range g.size).filterMap fun i => (g.bunches[i / 32]?).map fun b => (i / 32, b, Fin.ofNat 32 i)
def barRecord (b : Bar) : List Byte :=
  toBytes 4 (BitVec.ofNat 64 ((if b.phase then 2 ^ 31 else 0) + b.arrived * 65536 + b.count)) ++ toBytes 4 0 ++ toBytes 8 b.waiters
def Space.code (x : Space) : Nat := match x with | .gl => 0 | .sp => 1 | .csm => 2 | .chs => 3 | .lp => 4
/-- A pending-store entry (R306). -/
def storeEntry (t : Store) : List Byte :=
  toBytes 8 t.addr ++ toBytes 8 (t.data &&& BitVec.ofNat 64 (2 ^ (8 * t.size) - 1))
  ++ toBytes 4 (BitVec.ofNat 64 (Sys2Proof.qcode t.q * 2 ^ 24 + t.size * 2 ^ 20 + Space.code t.sp * 65536 + t.bunch * 256 + t.lane.val))
  ++ toBytes 4 0 ++ toBytes 8 t.pc
/-- What the secondary faults of a dump have left (R307): their number, and the first one's section, code and address. -/
structure Secondary where
  count : Nat
  sec : Nat
  code : Nat
  addr : Nat
  deriving DecidableEq, Repr
def Secondary.add (x : Secondary) (sec : Nat) (e : Nat × Nat) : Secondary :=
  if x.count = 0 then ⟨1, sec, e.1, e.2⟩ else { x with count := min 255 (x.count + 1) }
/-- Offsets of the sections (R296). -/
def sectionOffsets (h : Header) : List Nat :=
  (List.range 5).map fun k => ((h.sectionSizes.take k).map fun n => alignUp n 32768).sum
/-- The header's 256 bytes (R302). -/
def dumpHeader (g : Group) (h : Header) (x : Halted) (o : Origin) (state : Nat) (f : Secondary) (lens : List Nat) : List Byte :=
  let w := fun (n : Nat) => toBytes 4 (BitVec.ofNat 64 n)
  w (f.count * 65536 + x.origin.reason * 256 + state) ++ w o.code ++ toBytes 8 o.addr ++ toBytes 8 o.pc ++ toBytes 8 o.wid
  ++ toBytes 4 (o.lanes.setWidth 64) ++ toBytes 4 ((coreWord g.core).setWidth 64) ++ toBytes 8 (BitVec.ofNat 64 x.hcyc)
  ++ w (f.sec * 2 ^ 28 + f.code) ++ toBytes 4 (o.group.setWidth 64) ++ toBytes 8 (BitVec.ofNat 64 f.addr)
  ++ toBytes 4 (g.gs.setWidth 64) ++ w (x.pending.length * 65536 + x.ndisc % 65536)
  ++ w (h.nbar * 2 ^ 20 + h.accum * 65536 + (h.t - 1)) ++ w h.scratch ++ w g.num ++ List.replicate 44 0
  ++ ((sectionOffsets h).zip lens).flatMap (fun p => w p.1 ++ w p.2) ++ List.replicate 88 0
/-- The origin a dump carries: the group's own, or for a halt from another group the launch's (R302, R308). -/
def dumpOrigin (l : Launch) (x : Halted) : Origin := if x.origin.reason = 2 then l.origin.getD x.origin else x.origin
/-- Sections 1 to 4 (R296), each with the offsets of its poisoned words. -/
def State.dumpSections (s : State) (g : Group) (l : Launch) (x : Halted) : List (List Byte × List Nat) :=
  let h := l.hdr
  let recs := g.threadPlaces.map fun p => s.threadRecord g h l.ctx p.1 p.2.1 p.2.2
  let size := 320 + 64 * h.accum
  [ (recs.flatMap fun r => r.1, ((List.range recs.length).zip recs).flatMap fun r => r.2.2.map fun o => r.1 * size + o),
    (Memory.readN g.sp 0 h.scratch, g.spPoison.map fun w => 8 * w),
    (g.bars.flatMap barRecord, []),
    (x.pending.flatMap storeEntry, []) ]
/-- Sections written one after the other from section k on: the faults met, and the bytes written into each. -/
def State.writeSections (core ctx base : Nat) (h : Header) : Nat → List (List Byte × List Nat) → Secondary → List Nat → State →
    State × Secondary × List Nat
  | _, [], f, lens, s => (s, f, lens)
  | k, x :: xs, f, lens, s =>
    match s.areaStore core ctx (base + (sectionOffsets h).getD k 0) x.1 x.2 with
    | (s, n, e) => State.writeSections core ctx base h (k + 1) xs (match e with | some e => f.add k e | none => f) (lens ++ [n]) s
/-- A fault in section 0 or in the header's rewrite ends the dump, and the log names the group and its dump area (R307). -/
def State.dumpFault (s : State) (g : Group) (base code : Nat) : State :=
  s.log { s.logOf g 0 0 with kind := 4, code := code, addr := BitVec.ofNat 64 base }
/-- The dump of a group (R301). -/
def State.dump (s : State) (g : Group) (l : Launch) (x : Halted) : State :=
  let h := l.hdr
  let base := h.db + g.num * h.dsz
  let o := dumpOrigin l x
  let zero : Secondary := ⟨0, 0, 0, 0⟩
  let sec0 := dumpHeader g h x o 1 zero [0, 0, 0, 0, 0] ++ g.bunches.flatMap fun b => s.bunchRecord g b
  let rest := s.dumpSections g l x
  match s.areaStore g.core l.ctx base sec0 [] with
  | (s, _, some e) => s.dumpFault g base e.1
  | (s, n, none) =>
    match State.writeSections g.core l.ctx base h 1 rest zero [n] s with
    | (s, f, lens) =>
      let last := dumpHeader g h x o 2 f lens
      match s.areaStore g.core l.ctx (base + 4) (last.drop 4) [] with
      | (s, _, some e) => s.dumpFault g base e.1
      | (s, _, none) =>
        match s.areaStore g.core l.ctx base (last.take 4) [] with
        | (s, _, some e) => s.dumpFault g base e.1
        | (s, _, none) => s
/-- A core has finished draining a halted group (R299); no page that its dump could touch is on the move (R289), and no halt of its
launch is on its way, which could still give the launch another origin (R308). -/
def State.drained (s : State) (g : Group) : Bool :=
  !(s.haltMsgs.any fun m => m.2 == g.launch)
  && !(s.reqs.any fun r => r.gid == g.gid) && !(s.pends.any fun p => p.gid == g.gid) && s.migrations.isEmpty
  && g.bunches.all fun b => b.mx.cmds.isEmpty && b.cp.cmds.isEmpty
/-- The host has released a launch's halted groups: this one leaves its core (R321, R309). -/
def State.releaseGroup (s : State) (gid : Nat) : State :=
  match (s.group? gid).filter fun g => !g.left && g.halted.any fun h => h.dumped with
  | some _ => s.depart gid
  | none => s
/-- Dumped groups of a launch that stand saved are released with it: they do not come back (R321). -/
def State.releaseSaved (s : State) (lid : Nat) : State :=
  let gone := fun (g : Group) => g.launch == lid && g.halted.any fun h => h.dumped
  let n := ((s.saved.flatMap fun v => v.groups).filter gone).length
  { s with saved := s.saved.map fun (v : Saved) => { v with groups := v.groups.filter fun g => !gone g } }.modLaunch lid fun l =>
    { l with ended := l.ended + n }
/-- The event's group, halted and drained, is dumped; with the last of a launch the launch fails. (R301, R309) -/
def execGroupDump (s : State) : Host.Outcome State Fault Refusal :=
  match s.group? s.event.a with
  | none => .next s
  | some g =>
    match g.halted, s.launch? g.launch with
    | some x, some l =>
      if x.dumped || !s.drained g then .next s
      else
        let s := (s.performStores fun t => t.gid == g.gid).drainCsm
        let s := match s.group? g.gid with | some g => s.dump g l x | none => s
        let s := s.modGroup g.gid fun g => { g with halted := g.halted.map fun h => { h with dumped := true } }
        let s := s.failCheck l.id
        .next (if l.released then (s.releaseGroup g.gid).forget l.id else s)
    | _, _ => .next s

/-! ## The host's answers (R319, R321) -/

/-- RESP of entry n, none where the ring has gone over it. -/
def State.respOf (s : State) (n : Nat) : Option Nat :=
  let a := s.dev.elbase.toNat + 64 * (n % Config.errorRing)
  if (s.physDword a).toNat = n + 1 then some (s.physWord (a + 12)).toNat else none
/-- What the host's answer to an open entry leads to (R319, R321). -/
def State.answerOf (s : State) (e : OpenEntry) : Option Event :=
  match s.respOf e.n with
  | none => none
  | some v =>
    if e.kind = 2 then (if v = 3 then some { row := .respRelease, a := e.n } else none)
    else if (s.group? e.gid).isNone then none
    else if v = 0 then none
    else if v = 1 then some { row := .respReplay, a := e.n }
    else some { row := .respHalt, a := e.n }
/-- An easel reads the answers to its open entries, and their steps join the agenda; entries of launches and groups that
are gone are closed. (R319) -/
def execErrorLogPoll (s : State) : Host.Outcome State Fault Refusal :=
  let e : Fin 8 := Fin.ofNat 8 s.event.a
  let mine := fun (x : OpenEntry) => (s.launch? x.launch).any fun l => l.easel == e.val
  let gone := fun (x : OpenEntry) => (s.launch? x.launch).isNone
    || (x.kind == 1 && (s.group? x.gid).isNone && !s.isSaved x.launch)
  .next { s with
    agenda := s.agenda ++ (s.openEntries.filter mine).filterMap s.answerOf
    openEntries := s.openEntries.filter fun x => !gone x
    respPoll := s.respPoll.set e.val (s.ecyc[e] + Config.pollCycles) }
def State.closeEntry (s : State) (n : Nat) : State := { s with openEntries := s.openEntries.filter fun x => x.n != n }
/-- The entry's lanes that are still parked on its fault. -/
def State.stillParked (s : State) (e : OpenEntry) : List (Fin 32) :=
  (lanesOf e.lanes).filter fun l => match s.thread? e.gid e.bunch l with
    | some t => (match t.st with | .parked c _ => c == e.code | _ => false)
    | none => false
/-- The open entry of faulting lanes that the event names; where its group stands saved, the answer waits for its restore (R319,
R324). -/
def State.answered (s : State) : Option OpenEntry :=
  (s.openEntries.find? fun x => x.n == s.event.a).filter fun e => e.kind == 1 && !((s.group? e.gid).isNone && s.isSaved e.launch)
/-- Answer 1: the lanes parked under the entry replay their instruction. (R319) -/
def execRespReplay (s : State) : Host.Outcome State Fault Refusal :=
  match s.answered with
  | none => .next s
  | some e =>
    let s' := s.closeEntry e.n
    if s.goesOn e.gid then
      .next ((s.stillParked e).foldl (fun s l => s.modThread e.gid e.bunch l fun t => { t with st := .running }) s')
    else .next s'
/-- Answer 2 or higher: the group halts, with the entry's lowest lane as origin. (R319) -/
def execRespHalt (s : State) : Host.Outcome State Fault Refusal :=
  match s.answered with
  | none => .next s
  | some e =>
    let s' := s.closeEntry e.n
    match s.group? e.gid, (s.stillParked e).head? with
    | some g, some l =>
      if g.halted.isSome || g.left then .next s'
      else
        match s.thread? e.gid e.bunch l with
        | none => .next s'
        | some t => .next (s'.halt e.gid (s.originOf g e.bunch l 1 e.code t.parkedAt.2 t.pc e.lanes))
    | _, _ => .next s'
/-- Answer 3 in a KIND 2 entry: halted groups of the launch leave once dumped, and those that halt later too. (R321) -/
def execRespRelease (s : State) : Host.Outcome State Fault Refusal :=
  match (s.openEntries.find? fun x => x.n == s.event.a).filter fun e => e.kind == 2 with
  | none => .next s
  | some e =>
    let s := (s.closeEntry e.n).modLaunch e.launch fun l => { l with released := true }
    let s := (s.groups.filter fun g => g.launch == e.launch).foldl (fun s g => s.releaseGroup g.gid) s
    .next (((s.releaseSaved e.launch).failCheck e.launch).forget e.launch)

/-! ## Saving a context (R322, R323) -/

/-- An access that is on its way completes; a remote .csm one after the stores that are on their way to its group (R144). -/
def State.finishReq (s : State) (id : Nat) : State :=
  match s.req? id with
  | none => s
  | some r =>
    if r.cached then
      (if !r.op.isAtomic then s.loadReturn r
       else if r.applied.isNone && r.lanes.any fun x => s.linkDown x.pa then s.timeOut r 0 0
       else s.atomicApply r)
    else
      match s.csmNet.find? fun m => m.stores.isEmpty && m.req == id with
      | some m => { s.drainTo (· == m.gid) with csmNet := (s.drainTo (· == m.gid)).csmNet.erase m }.csmArrive m
      | none => s
/-- Commands that have been performed retire. -/
def State.retireDone (s : State) (gid : Nat) : State :=
  match s.group? gid with
  | none => s
  | some g =>
    (g.bunches.flatMap fun b => (b.mx.cmds ++ b.cp.cmds).filterMap fun c => if c.done then some c.id else none).foldl
      (fun s id => match s.cmdAt id with | some x => s.retire x | none => s) s
/-- Entries and credits on their way to a group arrive. -/
def State.deliverPorts (s : State) (gid : Nat) : State :=
  let mine := s.portNet.filter fun m => m.gid == gid
  mine.foldl (fun s m => s.modThread m.gid m.bunch m.lane fun t =>
    match m.entry with
    | some x => t.enter (Port.ofIdx m.port) x
    | none => t.credit (Port.ofIdx m.port)) { s with portNet := s.portNet.filter fun m => m.gid != gid }
/-- A register as saved: its live lanes' values, with their poison (R323). -/
def State.savedReg (s : State) (h : Header) (core ctx num bi : Nat) (b : Bunch) (r : Reg) : VReg :=
  let v := b.regs[r]
  if !v.rep.isSpilled then v
  else
    let c := fun l => s.dumpCopy h core ctx num bi b l r
    { v with rep := .full (Vector.ofFn fun l : Fin 32 => (c l).1), bad := laneSet fun l => (c l).2 }
def Thread.saved (t : Thread) : Thread :=
  { t with
    latch := 0, age := 0, urgent := none, fetched := none
    await := match t.await with | .command id => .command id | _ => .none }
def State.savedGroup (s : State) (g : Group) : Group :=
  { g with bunches := g.bunches.mapIdx fun i (b : Bunch) =>
      { b with regs := Vector.ofFn fun r : Fin 64 => s.savedReg (s.hdrOf g) g.core (s.ctxOfGroup g) g.num i b r }.mapThreads fun _ t => t.saved }
/-- The groups of a context that stand on cores. -/
def State.ctxGroups (s : State) (ctx : Nat) : List Group :=
  s.groups.filter fun g => !g.left && (s.launch? g.launch).any fun l => l.ctx == ctx
/-- A context can be saved: it has launches, does not stand saved, and no instruction or debug record of its groups waits for a
page on the move (R289). -/
def State.savable (s : State) (ctx : Nat) : Bool :=
  let mine := fun (gid : Nat) => (s.ctxGroups ctx).any fun g => g.gid == gid
  (s.launches.any fun l => l.ctx == ctx) && !(s.saved.any fun v => v.ctx == ctx)
  && !(!s.migrations.isEmpty && ((s.pends.any fun p => mine p.gid) || s.dbgRecs.any fun r => mine r.gid && s.recordWaits r))
/-- The firmware stops, drains and saves every resident group of the event's context; placements of its launches go back to the
palette. (R322, R323) -/
def execContextSave (s : State) : Host.Outcome State Fault Refusal :=
  let ctx := s.event.a
  let gids := (s.ctxGroups ctx).map fun g => g.gid
  if !s.untrustedRuns || !s.savable ctx then .next s
  else
    let s := ((s.reqs.filter fun r => gids.contains r.gid).map fun r => r.id).foldl (fun s id => s.finishReq id) s
    let s := (s.performStores fun t => gids.contains t.gid).drainCsm
    let s := (gids.foldl (fun s gid => (s.retireDone gid).deliverPorts gid) s).drainRecords gids
    let cores := ((s.ctxGroups ctx).map fun g => g.core).eraseDups
    let s := cores.foldl (fun s c => s.siRelease c) s
    let kept := (s.ctxGroups ctx).map fun g => s.savedGroup g
    let s := { s with
      groups := s.groups.filter fun g => !(kept.any fun k => k.gid == g.gid)
      launches := s.launches.map fun (l : Launch) => if l.ctx = ctx then { l with waiting := [], reserved := [] } else l
      saved := s.saved ++ [⟨ctx, kept⟩] }
    .next (cores.foldl (fun s c => s.engineFrees c) s)

/-! ## Restoring a context (R324) -/

/-- The core that each saved group comes to: the firmware's choice, pairs of a group's number in the model and a core on the
card's list; a group that it does not name comes back to its own. -/
def placeOf (e : Event) (g : Group) : Nat := ((e.list.find? fun p => p.1 == g.gid).map fun p => p.2).getD g.core
/-- Two groups of one launch keep what R324 asks of their places. On one core they come to one core; on two, they come to two
where their ranks or the launch's tags need it. Each tag's instances are formed again. Groups of equal rank face each other
through the same ports and as far (log 31), and share a cluster where .csm accesses need it. -/
def pairKept (h : Header) (x y : Group) (cx cy : Nat) : Bool :=
  let facing := fun (a b : Nat) (p : Port) => ((neighbour a p).filter fun n => n.1 == b).map fun n => n.2
  (if x.core = y.core then cx == cy else cx != cy || (x.rank != y.rank && h.tags.all fun t => t == 0))
  && ((List.range 8).all fun t => h.span t == 0
      || (instanceOf (h.span t) x.core == instanceOf (h.span t) y.core) == (instanceOf (h.span t) cx == instanceOf (h.span t) cy))
  && (x.rank != y.rank
      || ((h.scratch == 0 || clusterOf x.core != clusterOf y.core || clusterOf cx == clusterOf cy)
        && corePorts.all fun p => facing x.core y.core p == facing cx cy p))
/-- The saved groups may come to their new places (R324). -/
def State.placesKept (s : State) (e : Event) (v : Saved) : Bool :=
  v.groups.all fun x =>
    let c := placeOf e x
    decide (c < Config.cores) && clusterPos c == clusterPos x.core && (s.hdrOf x).permits c
    && ((s.hdrOf x).chsz == 0 || coreStack c == coreStack x.core)
    && v.groups.all fun y =>
      if x.launch = y.launch then pairKept (s.hdrOf x) x y c (placeOf e y)
      else match s.launch? x.launch, s.launch? y.launch with
        | some l, some m => (List.range 8).all fun t => !tagsClash l m c (placeOf e y) t
        | _, _ => true

/-- What groups add to a core's load. -/
def State.addLoad (s : State) (a : Load) (g : Group) : Load :=
  ⟨a.groups + 1, a.bunches + g.bunches.length, a.threads + g.size, a.rows + g.size * (s.hdrOf g).accum, a.bars + g.bars.length,
   a.chunks + g.chunks.length⟩
def Load.within (a : Load) (core : Nat) : Bool :=
  decide (a.groups ≤ Config.maxGroups) && decide (a.bunches ≤ Config.maxBunches) && decide (a.threads ≤ Config.maxThreads)
  && decide (a.rows ≤ if isVector core then 0 else Config.accRows) && decide (a.bars ≤ Config.maxBarriers)
  && decide (a.chunks ≤ chunksOf core)
/-- Those that come to a core. -/
def Saved.comingTo (v : Saved) (e : Event) (c : Nat) : List Group := v.groups.filter fun g => placeOf e g == c
def Saved.places (v : Saved) (e : Event) : List Nat := (v.groups.map fun g => placeOf e g).eraseDups
/-- The windows of a saved context's launches find room on their stacks again (R147). -/
def State.windowsReturn (s : State) (v : Saved) : Bool :=
  (List.range 8).all fun st => decide (((s.launches.filter fun x =>
    (x.ctx == v.ctx || !s.isSaved x.id) && x.windows.any fun w => w.stack == st).map fun x => x.hdr.chsz).sum ≤ 512)
/-- The saved groups can stand on their new cores now (R283, R284, R324). -/
def State.canRestore (s : State) (e : Event) (v : Saved) : Bool :=
  s.placesKept e v && s.windowsReturn v && s.migrations.isEmpty
  && (v.places e).all fun c =>
    let mine := v.comingTo e c
    (mine.foldl (fun a g => s.addLoad a g) (s.loadOf c)).within c
    && s.scalarRoom c ((mine.map fun g => g.bunches.length).sum)
    && mine.all fun g => (s.launch? g.launch).all fun l => !s.tagTaken l c && !(s.avoided l).contains c
/-- A thread as restored: RST where it dozed or held pending bits (R68, R324). -/
def Thread.restored (t : Thread) : Thread :=
  let dozes := match t.st with | .dozing _ _ _ _ => true | _ => false
  if dozes || t.pend != 0 then t.wake wRst else t
/-- A waiter mask whose bits name the bunches of a saved group, with these in their new slots. -/
def movedWaiters (old new : List Bunch) (w : BitVec 64) : BitVec 64 :=
  (old.zip new).foldl (fun m p => if (w &&& slotBit p.1) != 0 then m ||| slotBit p.2 else m) 0
/-- A register is rebuilt by a write of its live lanes (R83, R90); spills are not counted. -/
def State.rebuildReg (s : State) (gid bi : Nat) (v : VReg) (r : Reg) : State :=
  if v.live = 0 then s
  else
    match s.hereOf gid bi with
    | none => s
    | some h =>
      match writeReg { s.regCtx h bi [r] with pc := 0, exec := 0 } s h.b r v.live v.val with
      | .ok (s, b) => s.putBunch gid bi (({ b with pspill := h.b.pspill } : Bunch).setReg r { b.regs[r] with bad := v.bad &&& v.live })
      | .error e =>
        let s := s.halt gid ⟨4, 0, 0, 0, 0, 0, BitVec.ofNat 32 h.g.num, h.g.core, 0⟩
        s.log { s.logOf h.g bi 0 with kind := 4, code := e.1, addr := e.2 }
/-- A watch is armed again by a fill; where it fails, EVC is pending (R324, R209). -/
def State.rearm (s : State) (g : Group) (bi : Nat) (l : Fin 32) : State :=
  match (s.thread? g.gid bi l).bind fun t => t.watch with
  | none => s
  | some w =>
    let lost := fun (s : State) => s.modThread g.gid bi l fun t => { t.wake wEvc with watch := none }
    match s.xlate g.core (s.ctxOfGroup g) w.base .load with
    | (s, .error _) => lost s
    | (s, .ok x) => if Pte.coh x.pte == .uc then lost s else s.l1Fill g.core w.asid w.base x w.len false
/-- A saved bunch in a slot, its registers still to be rebuilt. -/
def Bunch.restored (b : Bunch) (slot order : Nat) : Bunch :=
  ({ b with regs := Vector.replicate 64 VReg.placed, away := 0, slot := slot, order := order } : Bunch).mapThreads fun _ t => t.restored
/-- A saved group comes to its core again, with its bits in the waiter masks of its core's tags, which that core's saved tree gives;
what stands there of its address space, it reads afresh (R131, R184). -/
def State.restoreGroup (s : State) (tree : List TreeCore) (g : Group) : State :=
  let here := s.residentOn g.core
  let slots := lowestFree Config.maxBunches g.bunches.length (here.flatMap fun x => x.bunches.map fun b => b.slot)
  let chunks := lowestFree (chunksOf g.core) g.chunks.length (s.chunksHeld g.core)
  let bs := g.bunches.mapIdx fun i (b : Bunch) => b.restored (slots.getD i 0) (s.fresh + i)
  let moved := movedWaiters g.bunches bs
  let g' := { g with
    chunks := chunks, sampleDue := s.clock + 256 * g.period, bunches := bs
    bars := g.bars.map fun x => { x with waiters := moved x.waiters } }
  let bits := fun (t : Fin 8) => ((tree.find? fun x => x.tag == t).elim 0 fun x => moved x.waiters)
  let s := { s with groups := s.groups ++ [g'], fresh := s.fresh + g.bunches.length }.modLaunch g.launch fun (l : Launch) =>
    { l with tree := l.tree.map fun (t : TreeCore) => if t.core = g.core then { t with waiters := t.waiters ||| bits t.tag } else t }
  let a := s.asidOf (s.ctxOfGroup g)
  ((s.dropRo g.core a).siAcquire g.core a).shrinkL1 g.core
/-- Its registers are rebuilt, and its watches armed again. -/
def State.rebuildGroup (s : State) (g : Group) : State :=
  let s := ((List.range g.bunches.length).zip g.bunches).foldl (fun s p =>
    (List.finRange 64).foldl (fun s r => s.rebuildReg g.gid p.1 p.2.regs[r] r) s) s
  ((List.range g.bunches.length).flatMap fun i => allLanes.map fun l => (i, l)).foldl (fun s p => s.rearm g p.1 p.2) s
/-- A halt that reached the context while it was saved is applied (R322). -/
def State.lateHalt (s : State) (g : Group) : State :=
  match (s.launch? g.launch).bind fun l => l.origin with
  | some o => s.stopGroup g.gid 2 o
  | none => s
/-- The states of tags come to the new cores of a launch's groups, with the releases that are due; a core that no group of it is
left on takes no part any more (R76, R324). -/
def State.moveTree (s : State) (e : Event) (v : Saved) : State :=
  let at_ := fun (lid core : Nat) => (v.groups.find? fun g => g.launch == lid && g.core == core).map fun g => placeOf e g
  let mine := fun (lid : Nat) => v.groups.filter fun g => g.launch == lid
  { s with
    launches := s.launches.map fun (l : Launch) =>
      if (mine l.id).isEmpty then l
      else { l with tree := l.tree.filterMap fun (t : TreeCore) => (at_ l.id t.core).map fun c => { t with core := c, waiters := 0 } }
    treeDue := s.treeDue.map fun (d : TreeDue) =>
      match s.launch? d.launch with
      | none => d
      | some l =>
        let span := l.hdr.span d.tag.val
        match (mine d.launch).find? fun g => instanceOf span g.core == d.inst with
        | some g => { d with inst := instanceOf span (placeOf e g) }
        | none => d }
/-- The tree states that a saved group's core had. -/
def State.treeOf (s : State) (g : Group) : List TreeCore := (s.launch? g.launch).elim [] fun l => l.tree.filter fun t => t.core == g.core
/-- The firmware places the event's saved context again, on cores that keep its adjacencies, and rebuilds its state. Where spills
do not make the room that its bunches need, it goes on waiting (R91). (R324) -/
def execContextRestore (s : State) : Host.Outcome State Fault Refusal :=
  match s.saved.find? fun v => v.ctx == s.event.a with
  | none => .next s
  | some v =>
    let e := s.event
    if !s.untrustedRuns || !s.canRestore e v then .next s
    else
      let need := fun c => Config.vectorFloor * ((v.comingTo e c).map fun g => g.bunches.length).sum
      let s := (v.places e).foldl (fun s c => State.makeShared c (need c) Config.vectorPool [] s) s
      if !((v.places e).all fun c => decide (need c ≤ s.sharedFree c)) then .next s
      else
        let trees := v.groups.map fun g => s.treeOf g
        let s := { s.moveTree e v with saved := s.saved.filter fun x => x.ctx != v.ctx }
        let gs := v.groups.map fun g => { g with core := placeOf e g }
        let s := (gs.zip trees).foldl (fun s p => s.restoreGroup p.2 p.1) s
        let s := gs.foldl (fun s g => s.rebuildGroup g) s
        let s := gs.foldl (fun s g => s.lateHalt g) s
        .next { s with respPoll := s.ecyc }

end Sys2Proof.Machine
end

