-- ==== Sys2Proof/Machine/Issue.lean ====
section
/-! DEFINITION. Machine/Issue.lean: runs and their order (R61 to R64), the fetch of a sequence (R52, R61), the issue cycle
(R62, R63), what a run needs before its instruction executes (R31, R43, R51) and leaves behind it (R327), and stall samples
(R328). -/

namespace Sys2Proof.Machine

/-! ## Fetch (R44, R52, R61) -/

def DecodeResult.isShort (r : Sys2Proof.DecodeResult) : Bool := match r with | .short => true | .ok _ => false | .illegal _ => false
/-- Words from an address on, up to the end of the sequence that they start; or the fault of a word and its address. The
first argument bounds the words. -/
def State.fetchFrom (core ctx : Nat) : Nat → DWord → List Nat → State → State × Except (Nat × DWord) (List Nat)
  | 0, _, ws, s => (s, .ok ws)
  | n + 1, va, ws, s =>
    match s.fetchWord core ctx va with
    | (s, .error c) => (s, .error (c, va))
    | (s, .ok w) =>
      if DecodeResult.isShort (Sys2Proof.decode (ws ++ [w.toNat])) then State.fetchFrom core ctx n (va + 4) (ws ++ [w.toNat]) s
      else (s, .ok (ws ++ [w.toNat]))
/-- The sequence at a counter. -/
def State.fetchSeq (s : State) (core ctx : Nat) (pc : DWord) : State × Except (Nat × DWord) (List Nat) :=
  State.fetchFrom core ctx Sys2Proof.maxWords pc [] s
/-- The instruction of a sequence is bunch-set (R33). -/
def isBunchSeq (ws : List Nat) : Bool :=
  match ws.find? fun w => (Sys2Proof.prefixRank w).isNone with
  | some w => w / 2 ^ 31 % 2 == 1
  | none => false

/-! ## Runs (R61) -/

/-- A thread that no wait holds, in whose instruction only the fetch may be missing. -/
def Thread.ready (t : Thread) : Bool := t.present && t.st == .running && t.await == .none
/-- Eligible (R61). -/
def Thread.eligible (t : Thread) : Bool := t.ready && t.fetched == some t.pc
def Bunch.readyAt (b : Bunch) (pc : DWord) : Lanes := laneSet fun l => b.threads[l].ready && b.threads[l].pc == pc
def Group.runs? (g : Group) : Bool := !g.left && g.halted.isNone
/-- Bunches of groups that run, with their groups and indexes. -/
def State.runningBunches (s : State) : List (Group × Nat × Bunch) :=
  (s.groups.filter fun g => g.runs?).flatMap fun g => (List.range g.bunches.length).filterMap fun i =>
    (g.bunches[i]?).map fun b => (g, i, b)
/-- The counters of the eligible threads, each once. -/
def Bunch.counters (b : Bunch) : List DWord :=
  (allLanes.filterMap fun l => if b.threads[l].eligible then some b.threads[l].pc else none).eraseDups
/-- The eligible threads at a counter. -/
def Bunch.runAt (b : Bunch) (pc : DWord) : Lanes := laneSet fun l => b.threads[l].eligible && b.threads[l].pc == pc

/-! ## Fetching (INSTRUCTION_FETCH) -/

/-- Lanes at a counter whose instruction has not been fetched. -/
def Bunch.unfetched (b : Bunch) (pc : DWord) : Lanes :=
  laneSet fun l => b.threads[l].ready && b.threads[l].pc == pc && b.threads[l].fetched != some pc
/-- The sequence at the event's counter is fetched for the threads of the event's bunch that stand there, or its fetch
faults in them. (R61, R159) -/
def execInstructionFetch (s : State) : Host.Outcome State Fault Refusal :=
  let pc := s.event.pc
  match s.hereOf s.event.a s.event.b with
  | none => .next s
  | some h =>
    let m := h.b.unfetched pc
    if !h.g.runs? || m == 0 then .next s
    else
      match s.fetchSeq h.g.core h.l.ctx pc with
      | (s1, .ok _) =>
        .next (s1.modBunch h.g.gid s.event.b fun b => b.mapThreads fun l t => if m.getLsbD l.val then { t with fetched := some pc } else t)
      | (s1, .error e) =>
        .next (s1.deliver h.g.gid s.event.b pc ((lanesOf m).map fun l => { lane := l, code := e.1, addr := e.2 }))

/-! ## A run before its instruction (R31, R43, R51, R312) -/

/-- Lanes that a GUARD lets execute (R43). -/
def Bunch.gateLanes (b : Bunch) (m : Lanes) : Option (Mask × Bool) → Lanes
  | none => m
  | some (r, inv) => m &&& (if inv then ~~~ b.masks[r] else b.masks[r])
/-- The record of the run that issues: n prefix words of k words stand before its instruction. -/
def currentOf (r : Run) (m exec : Lanes) (n k : Nat) : Current :=
  ⟨r.gid, r.bunch, m, exec, r.pc, r.pc + BitVec.ofNat 64 (4 * n), r.pc + BitVec.ofNat 64 (4 * k)⟩
/-- A chosen run comes to its execution, though a halt of its group in the same cycle may have come after its issue (R298): what
is left of it, its sequence, its instruction. none: nothing executes. -/
def State.prepare (s : State) (r : Run) : State × Option Instr :=
  match s.hereOf r.gid r.bunch with
  | none => (s, none)
  | some h =>
    let m := r.lanes &&& h.b.readyAt r.pc
    if h.g.left || m == 0 then (s, none)
    else
      match s.fetchSeq h.g.core h.l.ctx r.pc with
      | (s, .error e) => (s.deliver r.gid r.bunch r.pc ((lanesOf m).map fun l => { lane := l, code := e.1, addr := e.2 }), none)
      | (s, .ok ws) =>
        match Sys2Proof.decode ws with
        | .ok d =>
          ({ s with issues := s.issues + 1, cur := currentOf r m (h.b.gateLanes m d.guard) d.nPrefix d.nWords }, some d.instr)
        | .illegal k => ({ s with issues := s.issues + 1, cur := currentOf r m m 0 0 }, some (.illegal (4 * k)))
        | .short => (s, none)
/-! ## Interlocks (R61, R65, R66) -/

/-- The scalar registers that an instruction names; others name none. -/
def Instr.scalars (i : Sys2Proof.Instr) : List Reg :=
  let two := fun (r : Reg) => [r, regNext r 1]
  let card := fun (r : Reg) => (List.range 8).map (regNext r)
  match i with
  | .movuN32 _ a => [a]
  | .movuN64 _ a => two a
  | .getsBunch d _ => [d]
  | .setsBunch _ a => [a]
  | .movN32Bunch d _ => [d]
  | .rdlaneN32 d _ b => [d, b]
  | .bz a _ => [a]
  | .bnz a _ => [a]
  | .addN32Bunch d a b => [d, a, b]
  | .addN64Bunch d a b => two d ++ two a ++ two b
  | .subN32Bunch d a b => [d, a, b]
  | .subN64Bunch d a b => two d ++ two a ++ two b
  | .mulloN32Bunch d a b => [d, a, b]
  | .andN32Bunch d a b => [d, a, b]
  | .orN32Bunch d a b => [d, a, b]
  | .xorN32Bunch d a b => [d, a, b]
  | .shlN32Bunch d a b => [d, a, b]
  | .shrN32Bunch d a b => [d, a, b]
  | .sarI32Bunch d a b => [d, a, b]
  | .minI32Bunch d a b => [d, a, b]
  | .minN32Bunch d a b => [d, a, b]
  | .maxI32Bunch d a b => [d, a, b]
  | .maxN32Bunch d a b => [d, a, b]
  | .seqN32 d a b => [d, a, b]
  | .sltI32 d a b => [d, a, b]
  | .sltN32 d a b => [d, a, b]
  | .addN32BunchImm d a _ => [d, a]
  | .addN64BunchImm d a _ => two d ++ two a
  | .andN32BunchImm d a _ => [d, a]
  | .shlN32BunchImm d a _ => [d, a]
  | .shrN32BunchImm d a _ => [d, a]
  | .ldN32GlBunch d a _ _ => d :: two a
  | .ldN64GlBunch d a _ _ => two d ++ two a
  | .stN32GlBunch d a _ _ => d :: two a
  | .stN64GlBunch d a _ _ => two d ++ two a
  | .ldN32ChsBunch d a _ _ => [d, a]
  | .stN32ChsBunch d a _ _ => [d, a]
  | .ldN32SpBunch d a _ _ => [d, a]
  | .stN32SpBunch d a _ _ => [d, a]
  | .copy a _ _ => card a
  | .subs d a _ _ => d :: card a
  | .unsub a => [a]
  | .settrap d a b => d :: two a ++ two b
  | .scacc x => two x.sd
  | .mmaF16 x => two x.sb ++ two x.sa
  | .mmaF16Async x => two x.sb ++ two x.sa
  | .mmaBf16 x => two x.sb ++ two x.sa
  | .mmaBf16Async x => two x.sb ++ two x.sa
  | .mmaE4m3 x => two x.sb ++ two x.sa
  | .mmaE4m3Async x => two x.sb ++ two x.sa
  | .mmaE5m2 x => two x.sb ++ two x.sa
  | .mmaE5m2Async x => two x.sb ++ two x.sa
  | .mmaI8 x => two x.sb ++ two x.sa
  | .mmaI8Async x => two x.sb ++ two x.sa
  | .mmaI4 x => two x.sb ++ two x.sa
  | .mmaI4Async x => two x.sb ++ two x.sa
  | .mmaQ4 x => two x.sb ++ two x.sa
  | .mmaQ4Async x => two x.sb ++ two x.sa
  | _ => []
/-- The load of a bunch that has still to write a scalar register its instruction names (R65, R66). -/
def State.operandWait (s : State) (gid bi : Nat) (i : Instr) : Option Pend :=
  s.pends.find? fun p => p.scalar && p.gid == gid && p.bunch == bi && p.dests.any fun d => (Instr.scalars i).contains d
/-- What an instruction that an engine of its core may hold comes to; others are held by none (R66, R187, R235 to R237, R251). -/
def Instr.trial (i : Sys2Proof.Instr) (s : State) : Option (Host.Outcome State Fault Refusal) :=
  match i with
  | .ldN32Lp a b c d => some (execLdN32Lp a b c d s)
  | .ldN32Sp a b c d => some (execLdN32Sp a b c d s)
  | .ldN32Csm a b c d => some (execLdN32Csm a b c d s)
  | .ldN32Chs a b c d => some (execLdN32Chs a b c d s)
  | .ldN32Gl a b c d => some (execLdN32Gl a b c d s)
  | .ldN64Sp a b c d => some (execLdN64Sp a b c d s)
  | .ldN64Gl a b c d => some (execLdN64Gl a b c d s)
  | .ldroN32Gl a b c => some (execLdroN32Gl a b c s)
  | .ldroN64Gl a b c => some (execLdroN64Gl a b c s)
  | .stN32Lp a b c d => some (execStN32Lp a b c d s)
  | .stN32Sp a b c d => some (execStN32Sp a b c d s)
  | .stN32Csm a b c d => some (execStN32Csm a b c d s)
  | .stN32Chs a b c d => some (execStN32Chs a b c d s)
  | .stN32Gl a b c d => some (execStN32Gl a b c d s)
  | .stN64Sp a b c d => some (execStN64Sp a b c d s)
  | .stN64Gl a b c d => some (execStN64Gl a b c d s)
  | .atadd a => some (execAtadd a s)
  | .atand a => some (execAtand a s)
  | .ator a => some (execAtor a s)
  | .atxor a => some (execAtxor a s)
  | .atminI a => some (execAtminI a s)
  | .atminN a => some (execAtminN a s)
  | .atmaxI a => some (execAtmaxI a s)
  | .atmaxN a => some (execAtmaxN a s)
  | .atxch a => some (execAtxch a s)
  | .atcas a b => some (execAtcas a b s)
  | .atfadd a => some (execAtfadd a s)
  | .cas128 a => some (execCas128 a s)
  | .annPush a b c d => some (execAnnPush a b c d s)
  | .annPop a b c d => some (execAnnPop a b c d s)
  | .annEnq a b c d => some (execAnnEnq a b c d s)
  | .annDeq a b c d => some (execAnnDeq a b c d s)
  | .annAddf a b c d => some (execAnnAddf a b c d s)
  | .annSwapeq a b c d => some (execAnnSwapeq a b c d s)
  | .help a b => some (execHelp a b s)
  | .annq a b => some (execAnnq a b s)
  | .scacc a => some (execScacc a s)
  | .accadd a => some (execAccadd a s)
  | .accSt a => some (execAccSt a s)
  | .accLd a => some (execAccLd a s)
  | .accClr a => some (execAccClr a s)
  | .mmaF16 a => some (execMmaF16 a s)
  | .mmaF16Async a => some (execMmaF16Async a s)
  | .mmaBf16 a => some (execMmaBf16 a s)
  | .mmaBf16Async a => some (execMmaBf16Async a s)
  | .mmaE4m3 a => some (execMmaE4m3 a s)
  | .mmaE4m3Async a => some (execMmaE4m3Async a s)
  | .mmaE5m2 a => some (execMmaE5m2 a s)
  | .mmaE5m2Async a => some (execMmaE5m2Async a s)
  | .mmaI8 a => some (execMmaI8 a s)
  | .mmaI8Async a => some (execMmaI8Async a s)
  | .mmaI4 a => some (execMmaI4 a s)
  | .mmaI4Async a => some (execMmaI4Async a s)
  | .mmaQ4 a => some (execMmaQ4 a s)
  | .mmaQ4Async a => some (execMmaQ4Async a s)
  | .ldN32GlBunch a b c d => some (execLdN32GlBunch a b c d s)
  | .ldN64GlBunch a b c d => some (execLdN64GlBunch a b c d s)
  | .stN32GlBunch a b c d => some (execStN32GlBunch a b c d s)
  | .stN64GlBunch a b c d => some (execStN64GlBunch a b c d s)
  | .ldN32ChsBunch a b c d => some (execLdN32ChsBunch a b c d s)
  | .stN32ChsBunch a b c d => some (execStN32ChsBunch a b c d s)
  | .ldN32SpBunch a b c d => some (execLdN32SpBunch a b c d s)
  | .stN32SpBunch a b c d => some (execStN32SpBunch a b c d s)
  | .copy a b c => some (execCopy a b c s)
  | .bwait a b => some (execBwait a b s)
  | _ => none
/-- Lanes of a run whose instruction an engine would hold now. -/
def State.engineHeld (s : State) (r : Run) : Lanes :=
  match s.prepare r with
  | (t, some i) =>
    match Instr.trial i t with
    | some (.next u) => laneSet fun l => r.lanes.getLsbD l.val && (u.thread? r.gid r.bunch l).any fun x => x.await == .engine
    | _ => 0
  | _ => 0
/-- Engines of a core have commands. -/
def State.enginesBusy (s : State) (core : Nat) : Bool := s.groups.any fun g => g.core == core && g.busy
/-- Threads whose instruction an interlock holds are not eligible (R61): those of one counter of a bunch. -/
def State.markHeld (s : State) (g : Group) (bi : Nat) (b : Bunch) (pc : DWord) : State :=
  let m := b.runAt pc
  let r : Run := ⟨g.gid, bi, m, pc⟩
  let wait := match s.prepare r with | (_, some i) => s.operandWait g.gid bi i | _ => none
  match wait with
  | some p => s.modBunch g.gid bi fun b => b.mapThreads fun l t => if m.getLsbD l.val then { t with await := .operand p.id } else t
  | none =>
    if s.enginesBusy g.core then
      let e := s.engineHeld r
      if e = 0 then s
      else s.modBunch g.gid bi fun b => b.mapThreads fun l t =>
        if e.getLsbD l.val then { t with await := .engine, heldAt := some (t.heldAt.getD s.fresh) } else t
    else s
/-- Every thread that an interlock holds. -/
def State.markAll (s : State) : State :=
  s.runningBunches.foldl (fun s x =>
    if s.enginesBusy x.1.core || s.pends.any fun p => p.scalar && p.gid == x.1.gid && p.bunch == x.2.1 then
      x.2.2.counters.foldl (fun s pc => s.markHeld x.1 x.2.1 x.2.2 pc) s
    else s) s

/-! ## Rank (R62) -/

/-- A run as it stands for nomination: with its urgency, the placing order of its bunch, and its pipe. -/
structure Cand where
  run : Run
  urgent : Option Nat
  order : Nat
  bunchSet : Bool
  deriving DecidableEq, Repr
/-- The order of counters and bunches (R62, rows 3 and 4). -/
def Cand.lower (a b : Cand) : Bool := decide (a.run.pc.toNat < b.run.pc.toNat) || (a.run.pc == b.run.pc && decide (a.order < b.order))
/-- A run ranks before another (R62). -/
def Cand.before (a b : Cand) : Bool :=
  match a.urgent, b.urgent with
  | some x, some y => decide (x < y) || (x == y && a.lower b)
  | some _, none => true
  | none, some _ => false
  | none, none => a.lower b
def Cand.insert (c : Cand) : List Cand → List Cand
  | [] => [c]
  | x :: l => if c.before x then c :: x :: l else x :: Cand.insert c l
def ranked (l : List Cand) : List Cand := l.foldr Cand.insert []

/-- Ages and urgency of the threads of a run when it is nominated (R63): those of a merge. Its number is theirs, or a new one where
they bring different ones or leave others with theirs behind. -/
def Bunch.joinRun (b : Bunch) (m : Lanes) (tag : Nat) : Bunch :=
  let ts := (lanesOf m).map fun l => b.threads[l]
  let age := ts.foldl (fun a t => max a t.age) 0
  let urgent := ts.foldl (fun u t => match u, t.urgent with | some x, some y => some (min x y) | none, y => y | x, none => x) none
  b.mapThreads fun l t => if m.getLsbD l.val then { t with age := age, urgent := urgent, runTag := tag } else t
/-- Threads of different runs stand in one run now: runs have merged (R64). -/
def Bunch.merged (b : Bunch) (m : Lanes) : Bool :=
  let tags := (lanesOf m).map fun l => b.threads[l].runTag
  tags.any fun t => some t != tags.head?
/-- Threads of a run have left others of their last run behind. -/
def Bunch.parted (b : Bunch) (m : Lanes) : Bool :=
  allLanes.any fun l => !m.getLsbD l.val && b.threads[l].live && (lanesOf m).any fun k => b.threads[k].runTag == b.threads[l].runTag
/-- The runs of a bunch, formed anew; where runs merge, a trace record. -/
def State.formRuns (s : State) (g : Group) (bi : Nat) (b : Bunch) : State :=
  b.counters.foldl (fun s pc =>
    let m := b.runAt pc
    let s := if b.merged m then s.trace g bi m 2 0 false false 0xFFFFFFFF (fun _ => pc) else s
    if b.merged m || b.parted m then s.fresh'.modBunch g.gid bi fun b => b.joinRun m (s.fresh + 1)
    else s.modBunch g.gid bi fun b => b.joinRun m (((lanesOf m).head?).elim 0 fun l => b.threads[l].runTag)) s
/-- The best run of a bunch. -/
def State.nominee (s : State) (g : Group) (bi : Nat) (b : Bunch) : Option Cand :=
  (ranked (b.counters.map fun pc =>
    let m := b.runAt pc
    let pipe := match (s.fetchSeq g.core (s.ctxOfGroup g) pc).2 with | .ok ws => isBunchSeq ws | .error _ => false
    { run := ⟨g.gid, bi, m, pc⟩, urgent := b.threads[(lanesOf m).headD 0].urgent, order := b.order, bunchSet := pipe })).head?

/-! ## The issue cycle (R62, R63) -/

/-- Of ranked nominees of a core, the first n that are lane-set and the first that is bunch-set. -/
def pickPipes : List Cand → Nat → Bool → List Run
  | [], _, _ => []
  | c :: cs, n, free =>
    if c.bunchSet then (if free then c.run :: pickPipes cs n false else pickPipes cs n free)
    else match n with
      | 0 => pickPipes cs 0 free
      | k + 1 => c.run :: pickPipes cs k free
/-- What every core issues in the cycle, core by core, each in rank order. -/
def State.issues? (s : State) : List Run :=
  let bs := s.runningBunches
  ((bs.map fun x => x.1.core).eraseDups).flatMap fun c =>
    pickPipes (ranked (bs.filterMap fun x => if x.1.core = c then s.nominee x.1 x.2.1 x.2.2 else none)) Config.lanePipes true
/-- The counts of eligible threads rise (R63); those of a run that then issues start again as it does. -/
def Thread.grow (t : Thread) : Thread := if t.eligible then { t with age := t.age + 1 } else t
def State.growAges (s : State) : State :=
  { s with groups := s.groups.map fun g => if g.runs? then g.mapThreads fun _ _ t => t.grow else g }
/-- What a group's cycle has settled: its flags (R110), and what a SETTRAP has named (R313); its next stall sample is a period
later (R328). -/
def Group.tick (g : Group) (now : Nat) : Group :=
  match g.trapNext with
  | none => if g.gsNow = 0 then g else { g with gsNow := 0 }
  | some n =>
    { g with gsNow := 0, tra := n.1, tfb := n.2.1, dbg := n.2.2, trapNext := none, sampleDue := now + 256 * (n.2.2.toNat % 65536) }
/-- A new cycle begins: every count of cycles rises (R4, R5, R127). -/
def State.tick (s : State) : State :=
  { s with clock := s.clock + 1, ecyc := s.ecyc.map (· + 1), groups := s.groups.map fun (g : Group) => g.tick (s.clock + 1) }.reap
/-- A cycle of the module: each core forms its runs anew, of the threads that no interlock holds, its bunches nominate, its pipes
take their runs, which then execute in rank order; and a debug record of each group is written. (R61 to R64, R325) -/
def execIssueCycle (s : State) : Host.Outcome State Fault Refusal :=
  let s := s.tick.markAll
  let s := s.runningBunches.foldl (fun s x => s.formRuns x.1 x.2.1 x.2.2) s
  .next ({ s.growAges with issued := s.issues? }.takeRecords)

/-! ## A run after its instruction (R63, R327) -/

/-- The counter of a lane of the run once its instruction has retired: none for one that has exited, or whose instruction
an engine still holds. -/
def State.counterAfter (s : State) (c : Current) (l : Fin 32) : Option DWord :=
  match s.thread? c.gid c.bunch l with
  | none => none
  | some t =>
    if t.st == .exited then none
    else match t.await with
      | .none => some t.pc
      | .request => some c.next
      | .command _ => some c.next
      | .engine => none
      | .operand _ => none
/-- JOIN of a divergence at a BRX: word 1 of its table names it (R24, R50); else all ones. -/
def State.joinOf (s : State) (g : Group) (i : Instr) : Word :=
  match i with
  | .brx _ imm =>
    let t := s.immTarget imm
    match (s.fetchWord g.core (s.ctxOfGroup g) (t + 4)).2 with
    | .ok w => lowWord (t + ((w.setWidth 24).signExtend 64 <<< 2) - (s.hdrOf g).code)
    | .error _ => 0xFFFFFFFF
  | _ => 0xFFFFFFFF
/-- The run has issued: its count and urgency start again, but in the lanes whose instruction an engine holds (R63). -/
def State.restart (s : State) : State :=
  s.modBunch s.cur.gid s.cur.bunch fun b => b.mapThreads fun l t =>
    if s.cur.run.getLsbD l.val && t.await != .engine then { t with age := 0, urgent := none } else t
/-- After the instruction: what it has appended to a chain of a group that has halted is discarded (R298, R299); a run whose lanes
part is recorded, where the group traces (R327); where they wait for an answer, their retirement records it. -/
def State.afterIssue (s : State) (i : Instr) : State :=
  let s := s.restart
  match s.group? s.cur.gid with
  | none => s
  | some g =>
    let s := if g.halted.isSome then s.discard g.gid else s
    if (lanesOf s.cur.run).any fun l => (s.thread? s.cur.gid s.cur.bunch l).any fun t => t.await == .request then s
    else s.traceSplit g s.cur.bunch s.cur.run (s.joinOf g i) (s.counterAfter s.cur) s.cur.pc

/-! ## Stall samples (R328) -/

/-- A thread waits for the page of a spill slot: of one of its own, or of a slot that its retirement spills to (R93, R289). -/
def State.spillWaits (s : State) (g : Group) (bi : Nat) (l : Fin 32) (a : DWord) : Bool :=
  let h := s.hdrOf g
  let top := h.slice g.num bi l + h.lps
  decide (top - 256 ≤ a.toNat) && decide (a.toNat < top)
/-- The state of a live thread, as a CAUSE. -/
def State.causeOf (s : State) (g : Group) (bi : Nat) (l : Fin 32) (t : Thread) : Nat :=
  match t.st with
  | .dozing _ _ _ _ => 5
  | .parked _ _ => 6
  | .moved a => if s.spillWaits g bi l a then 4 else 2
  | _ =>
    match t.await with
    | .request => if s.pends.any fun p => p.gid == g.gid && p.bunch == bi && p.waiting == 0 && p.mask.getLsbD l.val then 4 else 2
    | .command _ => 3
    | .engine => 3
    | .operand _ => 1
    | .none =>
      if s.issued.any fun r => r.gid == g.gid && r.bunch == bi && r.lanes.getLsbD l.val then 8
      else if t.fetched == some t.pc then 7
      else 2
/-- The instruction that an operand of each lane of a record waits for, less CODE; else all ones (R326, R328). -/
def State.auxOf (s : State) (g : Group) (b : Bunch) (m : Lanes) : List Word :=
  allLanes.map fun l =>
    match b.threads[l].await with
    | .operand id =>
      match s.pends.find? fun p => p.id == id with
      | some p => if m.getLsbD l.val then lowWord (p.pc - (s.hdrOf g).code) else 0xFFFFFFFF
      | none => 0xFFFFFFFF
    | _ => 0xFFFFFFFF
/-- The next live thread of a group in thread order, from a thread index on, wrapping. -/
def Group.nextLive (g : Group) (n : Nat) : Option (Nat × Nat × Fin 32) :=
  ((List.range g.size).map fun k => (n + k) % g.size).findSome? fun i =>
    let l : Fin 32 := Fin.ofNat 32 i
    match g.bunches[i / 32]? with
    | some b => if b.threads[l].live then some (i, i / 32, l) else none
    | none => none
/-- A sample of a group is due. -/
def Group.sampleIsDue (g : Group) (now : Nat) : Bool := !g.left && g.halted.isNone && g.period != 0 && decide (g.sampleDue ≤ now)
/-- The core records the run of the group's next live thread: its lanes that share counter and state. (R328) DESIGN CHOICE (log
77): PSPILL is in no sample: R95 says it appears there, and R326 gives a record no field for it. -/
def execStallSample (s : State) : Host.Outcome State Fault Refusal :=
  match (s.group? s.event.a).filter fun g => g.sampleIsDue s.clock with
  | none => .next s
  | some g =>
    let s' := s.modGroup g.gid fun g => { g with sampleDue := g.sampleDue + 256 * g.period }
    match g.nextLive g.sampleNext with
    | none => .next s'
    | some (i, bi, l) =>
      match g.bunches[bi]? with
      | none => .next s'
      | some b =>
        let t := b.threads[l]
        let cause := s.causeOf g bi l t
        let m := laneSet fun k => let u := b.threads[k]; u.live && u.pc == t.pc && s.causeOf g bi k u == cause
        let s' := s'.modGroup g.gid fun g => { g with sampleNext := (i + 1) % g.size }
        .next (s'.record g (debugWords s.clock m 8 cause 0 false false (32 * bi) 0xFFFFFFFF g.core g.num
          (pcOffs (s.hdrOf g) m fun k => b.threads[k].pc) (s.auxOf g b m)))

end Sys2Proof.Machine
end

