-- ==== Sys2Proof/Machine/LaneFloat.lean ====
section
/-! DEFINITION. Machine/LaneFloat.lean: the floating-point instructions of the lane set (R108 to R113) and the
conversions (R114 to R116). Rounding takes the mode of each lane's FMODE at issue. -/

namespace Sys2Proof.Machine

/-! ## Shapes -/

def Bunch.rm (b : Bunch) (l : Fin 32) : RM := rmOf b.threads[l].fmode
def Bunch.narrow (b : Bunch) (l : Fin 32) : Reading := narrowOf b.threads[l].fmode
/-- One or two sources, a result with exceptions. -/
def State.unF (s : State) (d : Reg) (a : Src) (f : RM → Word → LaneRes) : Host.Outcome State Fault Refusal :=
  s.alu (opsRR d a 1 1) fun x l => outRes (f (x.rm l) (srcWord a x l))
def State.binF (s : State) (d : Reg) (a b : Src) (f : RM → Word → Word → LaneRes) : Host.Outcome State Fault Refusal :=
  s.alu (opsRRR d a b 1 1 1) fun x l => outRes (f (x.rm l) (srcWord a x l) (srcWord b x l))
/-- Multiply-add into the destination, which is read as a source (R111). -/
def State.fmaF (s : State) (d : Reg) (a b : Src) (f : RM → Word → Word → Word → LaneRes) : Host.Outcome State Fault Refusal :=
  s.alu (opsFma d a b) fun x l =>
    outRes (f (x.rm l) (x.val d l) (srcWord a x l) (srcWord b x l))
/-- A conversion under FMODE.RM and FMODE.NARROW. -/
def State.cvtF (s : State) (d : Reg) (a : Src) (f : RM → Reading → Word → LaneRes) : Host.Outcome State Fault Refusal :=
  s.alu (opsRR d a 1 1) fun x l => outRes (f (x.rm l) (x.narrow l) (srcWord a x l))

/-! ## Meanings -/

/-- UNF selector 0: clears the FP32 sign bit. (R113) -/
def execAbsF32 (d : Reg) (a : Src) (s : State) : Host.Outcome State Fault Refusal :=
  s.un32 d a absF

/-- UNF selector 1: inverts the FP32 sign bit. (R113) -/
def execNegF32 (d : Reg) (a : Src) (s : State) : Host.Outcome State Fault Refusal :=
  s.un32 d a negF

/-- UNF selector 2: FP32 reciprocal rounded under RNE. (R113) -/
def execRcpF32 (d : Reg) (a : Src) (s : State) : Host.Outcome State Fault Refusal :=
  s.unF d a fun _ x => .ofF (fp32.rcp x.toNat)

/-- UNF selector 3: FP32 reciprocal square root rounded under RNE. (R113) -/
def execRsqF32 (d : Reg) (a : Src) (s : State) : Host.Outcome State Fault Refusal :=
  s.unF d a fun _ x => .ofF (fp32.rsq x.toNat)

/-- UNF selector 4: rounds to an integral value towards minus infinity. (R113) -/
def execFloorF32 (d : Reg) (a : Src) (s : State) : Host.Outcome State Fault Refusal :=
  s.unF d a fun _ x => .ofF (fp32.integral .rdn false x.toNat)

/-- UNF selector 5: rounds to an integral value towards plus infinity. (R113) -/
def execCeilF32 (d : Reg) (a : Src) (s : State) : Host.Outcome State Fault Refusal :=
  s.unF d a fun _ x => .ofF (fp32.integral .rup false x.toNat)

/-- UNF selector 6: rounds to an integral value towards zero. (R113) -/
def execTruncF32 (d : Reg) (a : Src) (s : State) : Host.Outcome State Fault Refusal :=
  s.unF d a fun _ x => .ofF (fp32.integral .rz false x.toNat)

/-- UNF selector 7: rounds to an integral value under FMODE.RM. (R113) -/
def execRintF32 (d : Reg) (a : Src) (s : State) : Host.Outcome State Fault Refusal :=
  s.unF d a fun rm x => .ofF (fp32.integral rm true x.toNat)

/-- UNF selector 8: unbiased exponent as an FP32 integer. (R113) -/
def execGetexpF32 (d : Reg) (a : Src) (s : State) : Host.Outcome State Fault Refusal :=
  s.unF d a fun _ x => .ofF (fp32.getexp x.toNat)

/-- UNF selector 9: mantissa scaled into [1, 2). (R113) -/
def execGetmantF32 (d : Reg) (a : Src) (s : State) : Host.Outcome State Fault Refusal :=
  s.unF d a fun _ x => .ofF (fp32.getmant x.toNat)

/-- UNF selector 10: clears both FP16 sign bits. (R113) -/
def execAbsF16 (d : Reg) (a : Src) (s : State) : Host.Outcome State Fault Refusal :=
  s.un32 d a absHalves

/-- UNF selector 11: inverts both FP16 sign bits. (R113) -/
def execNegF16 (d : Reg) (a : Src) (s : State) : Host.Outcome State Fault Refusal :=
  s.un32 d a negHalves

/-- UNF selector 12: FP16 reciprocal of both halves. (R113) -/
def execRcpF16 (d : Reg) (a : Src) (s : State) : Host.Outcome State Fault Refusal :=
  s.unF d a fun _ x => .halves (fp16.rcp (loHalf x)) (fp16.rcp (hiHalf x))

/-- UNF selector 13: clears both BF16 sign bits. (R113) -/
def execAbsBf16 (d : Reg) (a : Src) (s : State) : Host.Outcome State Fault Refusal :=
  s.un32 d a absHalves

/-- UNF selector 14: inverts both BF16 sign bits. (R113) -/
def execNegBf16 (d : Reg) (a : Src) (s : State) : Host.Outcome State Fault Refusal :=
  s.un32 d a negHalves

/-- Converts FP32 to signed integer, optionally saturating. (R116) -/
def execCvtI32F32 (d : Reg) (a : Src) (sat : Bool) (s : State) : Host.Outcome State Fault Refusal :=
  s.cvtF d a fun rm _ x => cvtI32F32 rm sat x

/-- Converts FP32 to unsigned integer, optionally saturating. (R116) -/
def execCvtN32F32 (d : Reg) (a : Src) (sat : Bool) (s : State) : Host.Outcome State Fault Refusal :=
  s.cvtF d a fun rm _ x => cvtN32F32 rm sat x

/-- Converts a signed integer to FP32. (R116) -/
def execCvtF32I32 (d : Reg) (a : Src) (s : State) : Host.Outcome State Fault Refusal :=
  s.cvtF d a fun rm _ x => .ofF (cvtFromInt rm x.toInt)

/-- Converts an unsigned integer to FP32. (R116) -/
def execCvtF32N32 (d : Reg) (a : Src) (s : State) : Host.Outcome State Fault Refusal :=
  s.cvtF d a fun rm _ x => .ofF (cvtFromInt rm x.toNat)

/-- Narrows FP32 to FP16. (R116) -/
def execCvtF16F32 (d : Reg) (a : Src) (sat : Bool) (s : State) : Host.Outcome State Fault Refusal :=
  s.cvtF d a fun rm _ x => .ofF (cvtNarrow fp16 .iee rm sat x.toNat)

/-- Narrows FP32 to BF16. (R116) -/
def execCvtBf16F32 (d : Reg) (a : Src) (sat : Bool) (s : State) : Host.Outcome State Fault Refusal :=
  s.cvtF d a fun rm _ x => .ofF (cvtNarrow bf16 .iee rm sat x.toNat)

/-- Narrows FP32 to E4M3 under FMODE.NARROW. (R116) -/
def execCvtE4m3F32 (d : Reg) (a : Src) (sat : Bool) (s : State) : Host.Outcome State Fault Refusal :=
  s.cvtF d a fun rm r x => .ofF (cvtNarrow (e4m3 r) r rm sat x.toNat)

/-- Narrows FP32 to E5M2 under FMODE.NARROW. (R116) -/
def execCvtE5m2F32 (d : Reg) (a : Src) (sat : Bool) (s : State) : Host.Outcome State Fault Refusal :=
  s.cvtF d a fun rm r x => .ofF (cvtNarrow (e5m2 r) r rm sat x.toNat)

/-- Widens FP16 to FP32 exactly. (R116) -/
def execCvtF32F16 (d : Reg) (a : Src) (s : State) : Host.Outcome State Fault Refusal :=
  s.cvtF d a fun _ _ x => .ofF (cvtWiden fp16 (x.toNat % 65536))

/-- Widens BF16 to FP32 exactly. (R116) -/
def execCvtF32Bf16 (d : Reg) (a : Src) (s : State) : Host.Outcome State Fault Refusal :=
  s.cvtF d a fun _ _ x => .ofF (cvtWiden bf16 (x.toNat % 65536))

/-- Widens E4M3 to FP32 under FMODE.NARROW. (R116) -/
def execCvtF32E4m3 (d : Reg) (a : Src) (s : State) : Host.Outcome State Fault Refusal :=
  s.cvtF d a fun _ r x => .ofF (cvtWiden (e4m3 r) (x.toNat % 256))

/-- Widens E5M2 to FP32 under FMODE.NARROW. (R116) -/
def execCvtF32E5m2 (d : Reg) (a : Src) (s : State) : Host.Outcome State Fault Refusal :=
  s.cvtF d a fun _ r x => .ofF (cvtWiden (e5m2 r) (x.toNat % 256))

/-- Converts FP32 to the nearest Q4 codebook code. (R116) -/
def execCvtQ4F32 (d : Reg) (a : Src) (s : State) : Host.Outcome State Fault Refusal :=
  s.cvtF d a fun _ _ x => .ofF (cvtQ4 x.toNat)

/-- Converts a Q4 code to its exact FP32 value. (R116) -/
def execCvtF32Q4 (d : Reg) (a : Src) (s : State) : Host.Outcome State Fault Refusal :=
  s.cvtF d a fun _ _ x => .ofF (cvtFromQ4 x.toNat)

/-- Narrows a signed integer to INT4. (R116) -/
def execCvtI4I32 (d : Reg) (a : Src) (sat : Bool) (s : State) : Host.Outcome State Fault Refusal :=
  s.un32 d a (cvtI4I32 sat)

/-- Sign-extends an INT4 to 32 bits. (R116) -/
def execCvtI32I4 (d : Reg) (a : Src) (s : State) : Host.Outcome State Fault Refusal :=
  s.un32 d a (cvtI32I4)

/-- Narrows a signed integer to 8 unsigned bits. (R116) -/
def execCvtN8I32 (d : Reg) (a : Src) (sat : Bool) (s : State) : Host.Outcome State Fault Refusal :=
  s.un32 d a (fun x => narrowN 8 sat x.toInt x)

/-- Narrows a signed integer to 16 unsigned bits. (R116) -/
def execCvtN16I32 (d : Reg) (a : Src) (sat : Bool) (s : State) : Host.Outcome State Fault Refusal :=
  s.un32 d a (fun x => narrowN 16 sat x.toInt x)

/-- Narrows an unsigned integer to 8 bits. (R116) -/
def execCvtN8N32 (d : Reg) (a : Src) (sat : Bool) (s : State) : Host.Outcome State Fault Refusal :=
  s.un32 d a (fun x => narrowN 8 sat x.toNat x)

/-- Narrows an unsigned integer to 16 bits. (R116) -/
def execCvtN16N32 (d : Reg) (a : Src) (sat : Bool) (s : State) : Host.Outcome State Fault Refusal :=
  s.un32 d a (fun x => narrowN 16 sat x.toNat x)

/-- FP32 sum with an immediate bit pattern. (R111) -/
def execAddF32Imm (d : Reg) (a : Src) (imm : Word) (s : State) : Host.Outcome State Fault Refusal :=
  s.unF d a fun rm x => f32op fp32.add rm x imm

/-- FP32 product with an immediate bit pattern. (R111) -/
def execMulF32Imm (d : Reg) (a : Src) (imm : Word) (s : State) : Host.Outcome State Fault Refusal :=
  s.unF d a fun rm x => f32op fp32.mul rm x imm

/-- FP32 sum rounded once. (R111) -/
def execAddF32 (d : Reg) (a b : Src) (s : State) : Host.Outcome State Fault Refusal :=
  s.binF d a b (f32op fp32.add)

/-- FP32 difference rounded once. (R111) -/
def execSubF32 (d : Reg) (a b : Src) (s : State) : Host.Outcome State Fault Refusal :=
  s.binF d a b (f32op fp32.sub)

/-- FP32 product rounded once. (R111) -/
def execMulF32 (d : Reg) (a b : Src) (s : State) : Host.Outcome State Fault Refusal :=
  s.binF d a b (f32op fp32.mul)

/-- Fused FP32 multiply-add into the destination with one rounding. (R111) -/
def execFmadF32 (d : Reg) (a b : Src) (s : State) : Host.Outcome State Fault Refusal :=
  s.fmaF d a b (fun rm c x y => .ofF (fp32.fmad rm c.toNat x.toNat y.toNat))

/-- FP32 minimumNumber. (R111) -/
def execMinF32 (d : Reg) (a b : Src) (s : State) : Host.Outcome State Fault Refusal :=
  s.binF d a b (f32op fun _ => fp32.minMax false)

/-- FP32 maximumNumber. (R111) -/
def execMaxF32 (d : Reg) (a b : Src) (s : State) : Host.Outcome State Fault Refusal :=
  s.binF d a b (f32op fun _ => fp32.minMax true)

/-- Scales an FP32 value by a signed power of two. (R111) -/
def execScalexpF32 (d : Reg) (a b : Src) (s : State) : Host.Outcome State Fault Refusal :=
  s.binF d a b fun rm x y => .ofF (fp32.scalexp rm x.toNat y.toInt)

/-- Packed FP16 sum of both halves. (R112) -/
def execAddF16 (d : Reg) (a b : Src) (s : State) : Host.Outcome State Fault Refusal :=
  s.binF d a b (f16op fp16.add)

/-- Packed FP16 product of both halves. (R112) -/
def execMulF16 (d : Reg) (a b : Src) (s : State) : Host.Outcome State Fault Refusal :=
  s.binF d a b (f16op fp16.mul)

/-- Packed FP16 fused multiply-add. (R112) -/
def execFmadF16 (d : Reg) (a b : Src) (s : State) : Host.Outcome State Fault Refusal :=
  s.fmaF d a b (fmadHalves fp16)

/-- Packed BF16 fused multiply-add. (R112) -/
def execFmadBf16 (d : Reg) (a b : Src) (s : State) : Host.Outcome State Fault Refusal :=
  s.fmaF d a b (fmadHalves bf16)

end Sys2Proof.Machine
end

