-- ==== Sys2Proof/Machine/Dispatch.lean ====
section
/-! DEFINITION. Machine/Dispatch.lean: one arm per row of the opcode table, each one call of the row's meaning. -/

namespace Sys2Proof.Machine

def exec (i : Instr) (s : State) : Host.Outcome State Fault Refusal :=
  match i with
  | .illegal off => Sys2Proof.Machine.execIllegal off s
  | .gets d r => Sys2Proof.Machine.execGets d r s
  | .sets r a => Sys2Proof.Machine.execSets r a s
  | .movuN32 d a => Sys2Proof.Machine.execMovuN32 d a s
  | .movuN64 d a => Sys2Proof.Machine.execMovuN64 d a s
  | .addN32 d a b => Sys2Proof.Machine.execAddN32 d a b s
  | .addN64 d a b => Sys2Proof.Machine.execAddN64 d a b s
  | .subN32 d a b => Sys2Proof.Machine.execSubN32 d a b s
  | .subN64 d a b => Sys2Proof.Machine.execSubN64 d a b s
  | .mulloN32 d a b => Sys2Proof.Machine.execMulloN32 d a b s
  | .mulhiI32 d a b => Sys2Proof.Machine.execMulhiI32 d a b s
  | .mulhiN32 d a b => Sys2Proof.Machine.execMulhiN32 d a b s
  | .shaddN64 d a b => Sys2Proof.Machine.execShaddN64 d a b s
  | .andN32 d a b => Sys2Proof.Machine.execAndN32 d a b s
  | .orN32 d a b => Sys2Proof.Machine.execOrN32 d a b s
  | .xorN32 d a b => Sys2Proof.Machine.execXorN32 d a b s
  | .shlN32 d a b => Sys2Proof.Machine.execShlN32 d a b s
  | .shlN64 d a b => Sys2Proof.Machine.execShlN64 d a b s
  | .shrN32 d a b => Sys2Proof.Machine.execShrN32 d a b s
  | .shrN64 d a b => Sys2Proof.Machine.execShrN64 d a b s
  | .sarI32 d a b => Sys2Proof.Machine.execSarI32 d a b s
  | .sarI64 d a b => Sys2Proof.Machine.execSarI64 d a b s
  | .minI32 d a b => Sys2Proof.Machine.execMinI32 d a b s
  | .minN32 d a b => Sys2Proof.Machine.execMinN32 d a b s
  | .maxI32 d a b => Sys2Proof.Machine.execMaxI32 d a b s
  | .maxN32 d a b => Sys2Proof.Machine.execMaxN32 d a b s
  | .bfxN32 d a b => Sys2Proof.Machine.execBfxN32 d a b s
  | .bfxI32 d a b => Sys2Proof.Machine.execBfxI32 d a b s
  | .bfiN32 d a b => Sys2Proof.Machine.execBfiN32 d a b s
  | .addsatI32 d a b => Sys2Proof.Machine.execAddsatI32 d a b s
  | .addsatN32 d a b => Sys2Proof.Machine.execAddsatN32 d a b s
  | .subsatI32 d a b => Sys2Proof.Machine.execSubsatI32 d a b s
  | .subsatN32 d a b => Sys2Proof.Machine.execSubsatN32 d a b s
  | .movN32 d a => Sys2Proof.Machine.execMovN32 d a s
  | .movN64 d a => Sys2Proof.Machine.execMovN64 d a s
  | .notN32 d a => Sys2Proof.Machine.execNotN32 d a s
  | .negI32 d a => Sys2Proof.Machine.execNegI32 d a s
  | .absI32 d a => Sys2Proof.Machine.execAbsI32 d a s
  | .negI64 d a => Sys2Proof.Machine.execNegI64 d a s
  | .popcN32 d a => Sys2Proof.Machine.execPopcN32 d a s
  | .clzN32 d a => Sys2Proof.Machine.execClzN32 d a s
  | .brevN32 d a => Sys2Proof.Machine.execBrevN32 d a s
  | .sextI8 d a => Sys2Proof.Machine.execSextI8 d a s
  | .sextI16 d a => Sys2Proof.Machine.execSextI16 d a s
  | .absF32 d a => Sys2Proof.Machine.execAbsF32 d a s
  | .negF32 d a => Sys2Proof.Machine.execNegF32 d a s
  | .rcpF32 d a => Sys2Proof.Machine.execRcpF32 d a s
  | .rsqF32 d a => Sys2Proof.Machine.execRsqF32 d a s
  | .floorF32 d a => Sys2Proof.Machine.execFloorF32 d a s
  | .ceilF32 d a => Sys2Proof.Machine.execCeilF32 d a s
  | .truncF32 d a => Sys2Proof.Machine.execTruncF32 d a s
  | .rintF32 d a => Sys2Proof.Machine.execRintF32 d a s
  | .getexpF32 d a => Sys2Proof.Machine.execGetexpF32 d a s
  | .getmantF32 d a => Sys2Proof.Machine.execGetmantF32 d a s
  | .absF16 d a => Sys2Proof.Machine.execAbsF16 d a s
  | .negF16 d a => Sys2Proof.Machine.execNegF16 d a s
  | .rcpF16 d a => Sys2Proof.Machine.execRcpF16 d a s
  | .absBf16 d a => Sys2Proof.Machine.execAbsBf16 d a s
  | .negBf16 d a => Sys2Proof.Machine.execNegBf16 d a s
  | .cvtI32F32 d a sat => Sys2Proof.Machine.execCvtI32F32 d a sat s
  | .cvtN32F32 d a sat => Sys2Proof.Machine.execCvtN32F32 d a sat s
  | .cvtF32I32 d a => Sys2Proof.Machine.execCvtF32I32 d a s
  | .cvtF32N32 d a => Sys2Proof.Machine.execCvtF32N32 d a s
  | .cvtF16F32 d a sat => Sys2Proof.Machine.execCvtF16F32 d a sat s
  | .cvtBf16F32 d a sat => Sys2Proof.Machine.execCvtBf16F32 d a sat s
  | .cvtE4m3F32 d a sat => Sys2Proof.Machine.execCvtE4m3F32 d a sat s
  | .cvtE5m2F32 d a sat => Sys2Proof.Machine.execCvtE5m2F32 d a sat s
  | .cvtF32F16 d a => Sys2Proof.Machine.execCvtF32F16 d a s
  | .cvtF32Bf16 d a => Sys2Proof.Machine.execCvtF32Bf16 d a s
  | .cvtF32E4m3 d a => Sys2Proof.Machine.execCvtF32E4m3 d a s
  | .cvtF32E5m2 d a => Sys2Proof.Machine.execCvtF32E5m2 d a s
  | .cvtQ4F32 d a => Sys2Proof.Machine.execCvtQ4F32 d a s
  | .cvtF32Q4 d a => Sys2Proof.Machine.execCvtF32Q4 d a s
  | .cvtI4I32 d a sat => Sys2Proof.Machine.execCvtI4I32 d a sat s
  | .cvtI32I4 d a => Sys2Proof.Machine.execCvtI32I4 d a s
  | .cvtN8I32 d a sat => Sys2Proof.Machine.execCvtN8I32 d a sat s
  | .cvtN16I32 d a sat => Sys2Proof.Machine.execCvtN16I32 d a sat s
  | .cvtN8N32 d a sat => Sys2Proof.Machine.execCvtN8N32 d a sat s
  | .cvtN16N32 d a sat => Sys2Proof.Machine.execCvtN16N32 d a sat s
  | .movN32Imm d imm => Sys2Proof.Machine.execMovN32Imm d imm s
  | .addN32Imm d a imm => Sys2Proof.Machine.execAddN32Imm d a imm s
  | .addN64Imm d a imm => Sys2Proof.Machine.execAddN64Imm d a imm s
  | .mulloN32Imm d a imm => Sys2Proof.Machine.execMulloN32Imm d a imm s
  | .andN32Imm d a imm => Sys2Proof.Machine.execAndN32Imm d a imm s
  | .orN32Imm d a imm => Sys2Proof.Machine.execOrN32Imm d a imm s
  | .shlN32Imm d a imm => Sys2Proof.Machine.execShlN32Imm d a imm s
  | .shlN64Imm d a imm => Sys2Proof.Machine.execShlN64Imm d a imm s
  | .shrN32Imm d a imm => Sys2Proof.Machine.execShrN32Imm d a imm s
  | .sarI32Imm d a imm => Sys2Proof.Machine.execSarI32Imm d a imm s
  | .cmpI32Imm c m a imm => Sys2Proof.Machine.execCmpI32Imm c m a imm s
  | .addF32Imm d a imm => Sys2Proof.Machine.execAddF32Imm d a imm s
  | .mulF32Imm d a imm => Sys2Proof.Machine.execMulF32Imm d a imm s
  | .shflup d a k => Sys2Proof.Machine.execShflup d a k s
  | .shfldn d a k => Sys2Proof.Machine.execShfldn d a k s
  | .shflx d a k => Sys2Proof.Machine.execShflx d a k s
  | .addF32 d a b => Sys2Proof.Machine.execAddF32 d a b s
  | .subF32 d a b => Sys2Proof.Machine.execSubF32 d a b s
  | .mulF32 d a b => Sys2Proof.Machine.execMulF32 d a b s
  | .fmadF32 d a b => Sys2Proof.Machine.execFmadF32 d a b s
  | .minF32 d a b => Sys2Proof.Machine.execMinF32 d a b s
  | .maxF32 d a b => Sys2Proof.Machine.execMaxF32 d a b s
  | .scalexpF32 d a b => Sys2Proof.Machine.execScalexpF32 d a b s
  | .addF16 d a b => Sys2Proof.Machine.execAddF16 d a b s
  | .mulF16 d a b => Sys2Proof.Machine.execMulF16 d a b s
  | .fmadF16 d a b => Sys2Proof.Machine.execFmadF16 d a b s
  | .fmadBf16 d a b => Sys2Proof.Machine.execFmadBf16 d a b s
  | .cmpI32 c m a b => Sys2Proof.Machine.execCmpI32 c m a b s
  | .cmpN32 c m a b => Sys2Proof.Machine.execCmpN32 c m a b s
  | .cmpF32 c m a b => Sys2Proof.Machine.execCmpF32 c m a b s
  | .selN32 d a b => Sys2Proof.Machine.execSelN32 d a b s
  | .ballot d m => Sys2Proof.Machine.execBallot d m s
  | .mand d a b => Sys2Proof.Machine.execMand d a b s
  | .mor d a b => Sys2Proof.Machine.execMor d a b s
  | .mxor d a b => Sys2Proof.Machine.execMxor d a b s
  | .mget d m => Sys2Proof.Machine.execMget d m s
  | .mset m a => Sys2Proof.Machine.execMset m a s
  | .shfl d a b => Sys2Proof.Machine.execShfl d a b s
  | .match d a => Sys2Proof.Machine.execMatch d a s
  | .rdaddN32 d a => Sys2Proof.Machine.execRdaddN32 d a s
  | .ldN32Lp d a q o => Sys2Proof.Machine.execLdN32Lp d a q o s
  | .ldN32Sp d a q o => Sys2Proof.Machine.execLdN32Sp d a q o s
  | .ldN32Csm d a q o => Sys2Proof.Machine.execLdN32Csm d a q o s
  | .ldN32Chs d a q o => Sys2Proof.Machine.execLdN32Chs d a q o s
  | .ldN32Gl d a q o => Sys2Proof.Machine.execLdN32Gl d a q o s
  | .ldN64Sp d a q o => Sys2Proof.Machine.execLdN64Sp d a q o s
  | .ldN64Gl d a q o => Sys2Proof.Machine.execLdN64Gl d a q o s
  | .ldroN32Gl d a o => Sys2Proof.Machine.execLdroN32Gl d a o s
  | .stN32Lp d a q o => Sys2Proof.Machine.execStN32Lp d a q o s
  | .stN32Sp d a q o => Sys2Proof.Machine.execStN32Sp d a q o s
  | .stN32Csm d a q o => Sys2Proof.Machine.execStN32Csm d a q o s
  | .stN32Chs d a q o => Sys2Proof.Machine.execStN32Chs d a q o s
  | .stN32Gl d a q o => Sys2Proof.Machine.execStN32Gl d a q o s
  | .stN64Sp d a q o => Sys2Proof.Machine.execStN64Sp d a q o s
  | .stN64Gl d a q o => Sys2Proof.Machine.execStN64Gl d a q o s
  | .ldroN64Gl d a o => Sys2Proof.Machine.execLdroN64Gl d a o s
  | .atadd x => Sys2Proof.Machine.execAtadd x s
  | .atand x => Sys2Proof.Machine.execAtand x s
  | .ator x => Sys2Proof.Machine.execAtor x s
  | .atxor x => Sys2Proof.Machine.execAtxor x s
  | .atminI x => Sys2Proof.Machine.execAtminI x s
  | .atminN x => Sys2Proof.Machine.execAtminN x s
  | .atmaxI x => Sys2Proof.Machine.execAtmaxI x s
  | .atmaxN x => Sys2Proof.Machine.execAtmaxN x s
  | .atxch x => Sys2Proof.Machine.execAtxch x s
  | .atcas x c => Sys2Proof.Machine.execAtcas x c s
  | .atfadd x => Sys2Proof.Machine.execAtfadd x s
  | .cas128 x => Sys2Proof.Machine.execCas128 x s
  | .fence sc => Sys2Proof.Machine.execFence sc s
  | .fenceAll => Sys2Proof.Machine.execFenceAll s
  | .fencePort sc => Sys2Proof.Machine.execFencePort sc s
  | .acqRo => Sys2Proof.Machine.execAcqRo s
  | .barArr d b => Sys2Proof.Machine.execBarArr d b s
  | .barTst m a b => Sys2Proof.Machine.execBarTst m a b s
  | .barCnt a b => Sys2Proof.Machine.execBarCnt a b s
  | .treeArr d t => Sys2Proof.Machine.execTreeArr d t s
  | .treeTst m a t => Sys2Proof.Machine.execTreeTst m a t s
  | .treeRelease => Sys2Proof.Machine.execTreeRelease s
  | .sync m a => Sys2Proof.Machine.execSync m a s
  | .watch a o => Sys2Proof.Machine.execWatch a o s
  | .doze d imm => Sys2Proof.Machine.execDoze d imm s
  | .dozeExpiry => Sys2Proof.Machine.execDozeExpiry s
  | .wakeEvent => Sys2Proof.Machine.execWakeEvent s
  | .annPush d m a b => Sys2Proof.Machine.execAnnPush d m a b s
  | .annPop d m a b => Sys2Proof.Machine.execAnnPop d m a b s
  | .annEnq d m a b => Sys2Proof.Machine.execAnnEnq d m a b s
  | .annDeq d m a b => Sys2Proof.Machine.execAnnDeq d m a b s
  | .annAddf d m a b => Sys2Proof.Machine.execAnnAddf d m a b s
  | .annSwapeq d m a b => Sys2Proof.Machine.execAnnSwapeq d m a b s
  | .help d a => Sys2Proof.Machine.execHelp d a s
  | .annq d a => Sys2Proof.Machine.execAnnq d a s
  | .push m a p => Sys2Proof.Machine.execPush m a p s
  | .pop d p m => Sys2Proof.Machine.execPop d p m s
  | .peek d p m => Sys2Proof.Machine.execPeek d p m s
  | .portEntryArrival => Sys2Proof.Machine.execPortEntryArrival s
  | .portCreditArrival => Sys2Proof.Machine.execPortCreditArrival s
  | .brx a imm => Sys2Proof.Machine.execBrx a imm s
  | .callx a => Sys2Proof.Machine.execCallx a s
  | .bra l => Sys2Proof.Machine.execBra l s
  | .call l => Sys2Proof.Machine.execCall l s
  | .ret => Sys2Proof.Machine.execRet s
  | .exit => Sys2Proof.Machine.execExit s
  | .trap imm => Sys2Proof.Machine.execTrap imm s
  | .bkpt => Sys2Proof.Machine.execBkpt s
  | .scacc x => Sys2Proof.Machine.execScacc x s
  | .accadd x => Sys2Proof.Machine.execAccadd x s
  | .accSt x => Sys2Proof.Machine.execAccSt x s
  | .accLd x => Sys2Proof.Machine.execAccLd x s
  | .accClr acc => Sys2Proof.Machine.execAccClr acc s
  | .mmaF16 x => Sys2Proof.Machine.execMmaF16 x s
  | .mmaF16Async x => Sys2Proof.Machine.execMmaF16Async x s
  | .mmaBf16 x => Sys2Proof.Machine.execMmaBf16 x s
  | .mmaBf16Async x => Sys2Proof.Machine.execMmaBf16Async x s
  | .mmaE4m3 x => Sys2Proof.Machine.execMmaE4m3 x s
  | .mmaE4m3Async x => Sys2Proof.Machine.execMmaE4m3Async x s
  | .mmaE5m2 x => Sys2Proof.Machine.execMmaE5m2 x s
  | .mmaE5m2Async x => Sys2Proof.Machine.execMmaE5m2Async x s
  | .mmaI8 x => Sys2Proof.Machine.execMmaI8 x s
  | .mmaI8Async x => Sys2Proof.Machine.execMmaI8Async x s
  | .mmaI4 x => Sys2Proof.Machine.execMmaI4 x s
  | .mmaI4Async x => Sys2Proof.Machine.execMmaI4Async x s
  | .mmaQ4 x => Sys2Proof.Machine.execMmaQ4 x s
  | .mmaQ4Async x => Sys2Proof.Machine.execMmaQ4Async x s
  | .nop => Sys2Proof.Machine.execNop s
  | .getsBunch d r => Sys2Proof.Machine.execGetsBunch d r s
  | .setsBunch r a => Sys2Proof.Machine.execSetsBunch r a s
  | .movN32Bunch d imm => Sys2Proof.Machine.execMovN32Bunch d imm s
  | .rdlaneN32 d a b => Sys2Proof.Machine.execRdlaneN32 d a b s
  | .bz a imm => Sys2Proof.Machine.execBz a imm s
  | .bnz a imm => Sys2Proof.Machine.execBnz a imm s
  | .addN32Bunch d a b => Sys2Proof.Machine.execAddN32Bunch d a b s
  | .addN64Bunch d a b => Sys2Proof.Machine.execAddN64Bunch d a b s
  | .subN32Bunch d a b => Sys2Proof.Machine.execSubN32Bunch d a b s
  | .subN64Bunch d a b => Sys2Proof.Machine.execSubN64Bunch d a b s
  | .mulloN32Bunch d a b => Sys2Proof.Machine.execMulloN32Bunch d a b s
  | .andN32Bunch d a b => Sys2Proof.Machine.execAndN32Bunch d a b s
  | .orN32Bunch d a b => Sys2Proof.Machine.execOrN32Bunch d a b s
  | .xorN32Bunch d a b => Sys2Proof.Machine.execXorN32Bunch d a b s
  | .shlN32Bunch d a b => Sys2Proof.Machine.execShlN32Bunch d a b s
  | .shrN32Bunch d a b => Sys2Proof.Machine.execShrN32Bunch d a b s
  | .sarI32Bunch d a b => Sys2Proof.Machine.execSarI32Bunch d a b s
  | .minI32Bunch d a b => Sys2Proof.Machine.execMinI32Bunch d a b s
  | .minN32Bunch d a b => Sys2Proof.Machine.execMinN32Bunch d a b s
  | .maxI32Bunch d a b => Sys2Proof.Machine.execMaxI32Bunch d a b s
  | .maxN32Bunch d a b => Sys2Proof.Machine.execMaxN32Bunch d a b s
  | .seqN32 d a b => Sys2Proof.Machine.execSeqN32 d a b s
  | .sltI32 d a b => Sys2Proof.Machine.execSltI32 d a b s
  | .sltN32 d a b => Sys2Proof.Machine.execSltN32 d a b s
  | .addN32BunchImm d a imm => Sys2Proof.Machine.execAddN32BunchImm d a imm s
  | .addN64BunchImm d a imm => Sys2Proof.Machine.execAddN64BunchImm d a imm s
  | .andN32BunchImm d a imm => Sys2Proof.Machine.execAndN32BunchImm d a imm s
  | .shlN32BunchImm d a imm => Sys2Proof.Machine.execShlN32BunchImm d a imm s
  | .shrN32BunchImm d a imm => Sys2Proof.Machine.execShrN32BunchImm d a imm s
  | .ldN32GlBunch d a q o => Sys2Proof.Machine.execLdN32GlBunch d a q o s
  | .ldN64GlBunch d a q o => Sys2Proof.Machine.execLdN64GlBunch d a q o s
  | .stN32GlBunch d a q o => Sys2Proof.Machine.execStN32GlBunch d a q o s
  | .stN64GlBunch d a q o => Sys2Proof.Machine.execStN64GlBunch d a q o s
  | .ldN32ChsBunch d a q o => Sys2Proof.Machine.execLdN32ChsBunch d a q o s
  | .stN32ChsBunch d a q o => Sys2Proof.Machine.execStN32ChsBunch d a q o s
  | .ldN32SpBunch d a q o => Sys2Proof.Machine.execLdN32SpBunch d a q o s
  | .stN32SpBunch d a q o => Sys2Proof.Machine.execStN32SpBunch d a q o s
  | .copy a ss ds => Sys2Proof.Machine.execCopy a ss ds s
  | .commit e => Sys2Proof.Machine.execCommit e s
  | .bwait e imm => Sys2Proof.Machine.execBwait e imm s
  | .subs d a nslot base => Sys2Proof.Machine.execSubs d a nslot base s
  | .unsub a => Sys2Proof.Machine.execUnsub a s
  | .settrap d a b => Sys2Proof.Machine.execSettrap d a b s
  | .rtt => Sys2Proof.Machine.execRtt s
  | .halt => Sys2Proof.Machine.execHalt s
  | .issueCycle => Sys2Proof.Machine.execIssueCycle s
  | .runUrgent => Sys2Proof.Machine.execRunUrgent s
  | .loadReturn => Sys2Proof.Machine.execLoadReturn s
  | .atomicApply => Sys2Proof.Machine.execAtomicApply s
  | .csmRemoteArrival => Sys2Proof.Machine.execCsmRemoteArrival s
  | .sliceRequest => Sys2Proof.Machine.execSliceRequest s
  | .lineLockClear => Sys2Proof.Machine.execLineLockClear s
  | .directoryInvalidate => Sys2Proof.Machine.execDirectoryInvalidate s
  | .pageWalk => Sys2Proof.Machine.execPageWalk s
  | .mmaExecute => Sys2Proof.Machine.execMmaExecute s
  | .scaccExecute => Sys2Proof.Machine.execScaccExecute s
  | .accaddExecute => Sys2Proof.Machine.execAccaddExecute s
  | .copyJobExecute => Sys2Proof.Machine.execCopyJobExecute s
  | .engineCommandRetire => Sys2Proof.Machine.execEngineCommandRetire s
  | .pickerFill => Sys2Proof.Machine.execPickerFill s
  | .pickerPullback => Sys2Proof.Machine.execPickerPullback s
  | .doorbell => Sys2Proof.Machine.execDoorbell s
  | .queuePollExpiry => Sys2Proof.Machine.execQueuePollExpiry s
  | .launch => Sys2Proof.Machine.execLaunch s
  | .graph => Sys2Proof.Machine.execGraph s
  | .basket => Sys2Proof.Machine.execBasket s
  | .settle => Sys2Proof.Machine.execSettle s
  | .tlbinv => Sys2Proof.Machine.execTlbinv s
  | .migrate => Sys2Proof.Machine.execMigrate s
  | .keyload => Sys2Proof.Machine.execKeyload s
  | .wait => Sys2Proof.Machine.execWait s
  | .launchComplete => Sys2Proof.Machine.execLaunchComplete s
  | .graphNodeComplete => Sys2Proof.Machine.execGraphNodeComplete s
  | .settleComplete => Sys2Proof.Machine.execSettleComplete s
  | .tlbinvComplete => Sys2Proof.Machine.execTlbinvComplete s
  | .migrateCopyComplete => Sys2Proof.Machine.execMigrateCopyComplete s
  | .keyloadComplete => Sys2Proof.Machine.execKeyloadComplete s
  | .paletteDispatch => Sys2Proof.Machine.execPaletteDispatch s
  | .placementResume => Sys2Proof.Machine.execPlacementResume s
  | .basketCount => Sys2Proof.Machine.execBasketCount s
  | .basketCountdownExpiry => Sys2Proof.Machine.execBasketCountdownExpiry s
  | .errorLogPoll => Sys2Proof.Machine.execErrorLogPoll s
  | .respReplay => Sys2Proof.Machine.execRespReplay s
  | .respHalt => Sys2Proof.Machine.execRespHalt s
  | .respRelease => Sys2Proof.Machine.execRespRelease s
  | .haltArrival => Sys2Proof.Machine.execHaltArrival s
  | .groupDump => Sys2Proof.Machine.execGroupDump s
  | .contextSave => Sys2Proof.Machine.execContextSave s
  | .contextRestore => Sys2Proof.Machine.execContextRestore s
  | .stallSample => Sys2Proof.Machine.execStallSample s
  | .debugRecordDrop => Sys2Proof.Machine.execDebugRecordDrop s
  | .clockThrottle => Sys2Proof.Machine.execClockThrottle s
  | .thermalHalt => Sys2Proof.Machine.execThermalHalt s
  | .linkDown => Sys2Proof.Machine.execLinkDown s
  | .linkTimeout => Sys2Proof.Machine.execLinkTimeout s
  | .inboundPeerAccess => Sys2Proof.Machine.execInboundPeerAccess s
  | .declareAgentDead => Sys2Proof.Machine.execDeclareAgentDead s
  | .firmwareImageVerify => Sys2Proof.Machine.execFirmwareImageVerify s
  | .moduleReset => Sys2Proof.Machine.execModuleReset s
  | .registerWrite => Sys2Proof.Machine.execRegisterWrite s
  | .hostInboundAccess => Sys2Proof.Machine.execHostInboundAccess s
  | .linkUp => Sys2Proof.Machine.execLinkUp s
  | .agentRejoin => Sys2Proof.Machine.execAgentRejoin s
  | .pickerAcknowledge => Sys2Proof.Machine.execPickerAcknowledge s
  | .storePerformed => Sys2Proof.Machine.execStorePerformed s
  | .instructionFetch => Sys2Proof.Machine.execInstructionFetch s

end Sys2Proof.Machine
end

