-- ==== Sys2Proof/Machine/Schedule.lean ====
section
/-! DEFINITION. Machine/Schedule.lean: which step of another agent comes next, where none is asked for from outside: the
first that is due, in a fixed order of the kinds (log 19). Each function names the first step of its kinds that is due; a
step that is named changes the state so that it is due no more. -/

namespace Sys2Proof.Machine

/-! ## Halts, dumps and ends of launches -/

def State.dueHalt (s : State) : Option Event := s.haltMsgs.head?.map fun m => { row := .haltArrival, a := m.1, b := m.2 }
def State.dueDump (s : State) : Option Event :=
  (s.groups.find? fun g => !g.left && (g.halted.any fun x => !x.dumped) && s.drained g).map fun g => { row := .groupDump, a := g.gid }
/-- A launch of which all groups have exited, or a halted one that has still to fail or to go. -/
def State.launchOver (s : State) (l : Launch) : Bool :=
  if l.origin.isSome then
    (!l.finished && s.allDumped l) || (l.finished && !(s.groups.any fun g => g.launch == l.id) && !s.isSaved l.id)
  else s.launchDone l
def State.dueLaunch (s : State) : Option Event :=
  (s.launches.find? fun l => s.launchOver l).map fun l =>
    match l.source, l.origin with
    | .node g i, none => { row := .graphNodeComplete, a := g, b := i }
    | _, _ => { row := .launchComplete, a := l.id }

/-! ## The memory system -/

/-- The slice would take or queue the request now (R164). -/
def State.sliceReady (s : State) (r : Req) : Bool :=
  r.st == .sent && !s.reqBlocked r && (!s.mustQueue r || s.queueRoom r)
/-- An atomic that its slice has accepted is applied, or its completions do not come; then locks clear (R164). -/
def State.dueLock (s : State) : Option Event :=
  match s.reqs.find? fun r => r.cached && r.st == .accepted && r.op.isAtomic with
  | some r =>
    some { row := if r.applied.isNone && r.lanes.any (fun x => s.linkDown x.pa) then .linkTimeout else .atomicApply, a := r.id }
  | none => s.locks.head?.map fun k => { row := .lineLockClear, a := k.blk }
def State.dueRequest (s : State) : Option Event :=
  s.dueLock <|> ((s.reqs.find? fun r => r.cached && r.st == .accepted).map fun r => { row := .loadReturn, a := r.id })
  <|> (s.csmNet.head?.map fun m => { row := .csmRemoteArrival, a := m.gid })
  <|> ((s.reqs.find? fun r => s.sliceReady r).map fun r => { row := .sliceRequest, a := r.id })
def State.dueStore (s : State) : Option Event := s.stores.head?.map fun t => { row := .storePerformed, a := t.core }
def State.duePort (s : State) : Option Event :=
  s.portNet.head?.map fun m => { row := if m.entry.isSome then .portEntryArrival else .portCreditArrival, a := m.gid }

/-! ## Engines and pickers -/

def rowOfCmd (c : Cmd) : Instr :=
  match c.op with
  | .mma .. => .mmaExecute
  | .scacc .. => .scaccExecute
  | .accadd .. => .accaddExecute
  | .copy _ => .copyJobExecute
/-- Of two commands that may start, the one its engine takes: of one core's matrix engine, the next bunch in slot order. -/
def State.firstOf (s : State) (x y : CmdAt) : CmdAt :=
  if x.e = .mx ∧ y.e = .mx ∧ x.g.core = y.g.core ∧ s.turnOf y < s.turnOf x then y else x
def State.dueEngine (s : State) : Option Event :=
  let cs := s.allCmds
  match cs.find? fun x => x.c.done with
  | some x => some { row := .engineCommandRetire, a := x.c.id }
  | none =>
    match cs.filter fun x => s.canStart x with
    | [] => none
    | x :: xs => let y := xs.foldl s.firstOf x; some { row := rowOfCmd y.c, a := y.c.id }
/-- A picker has a slot to fill, or news of slots handed back. While a page is on the move the pickers rest: a tile may lie on it. -/
def Sub.ready (u : Sub) (g : Group) : Bool :=
  let u' := u.reconcile g
  u' != u || !(u.ending || decide (u.n ≤ u.next) || g.ringState u u.next != 0 || (u.full.any fun k => u.slotOf k == u.slotOf u.next))
def State.duePicker (s : State) : Option Event :=
  match s.subs.find? fun u => u.ending with
  | some u => some { row := .pickerAcknowledge, a := u.id }
  | none =>
    if !s.migrations.isEmpty then none else
    s.subs.findSome? fun u =>
      ((s.group? u.gid).filter fun g => g.runs?).bind fun g =>
        if u.full.any fun k => g.ringState u k == 2 then some { row := .pickerPullback, a := u.id }
        else if u.ready g then some { row := .pickerFill, a := u.id }
        else none

/-! ## Threads -/

/-- The first running bunch of which some thread satisfies a test. -/
def State.bunchWhere (s : State) (p : Thread → Bool) : Option (Group × Nat × Bunch) :=
  s.runningBunches.find? fun x => allLanes.any fun l => p x.2.2.threads[l]
def State.dueWake (s : State) : Option Event :=
  match s.bunchWhere fun t => match t.st with | .dozing _ _ _ _ => t.pend != 0 | _ => false with
  | some x => some { row := .wakeEvent, a := x.1.gid, b := x.2.1 }
  | none =>
    (s.bunchWhere fun t => match t.st with | .dozing n _ _ _ => decide (n ≤ s.clock) | _ => false).map fun x =>
      { row := .dozeExpiry, a := x.1.gid, b := x.2.1 }
def State.dueTree (s : State) : Option Event :=
  (s.treeDue.find? fun d => decide (d.due ≤ s.clock) && !s.isSaved d.launch).map fun d =>
    { row := .treeRelease, a := d.launch, b := d.tag.val, c := d.inst }
def State.dueUrgent (s : State) : Option Event :=
  (s.bunchWhere fun t => decide (Config.urgentAge ≤ t.age) && t.urgent.isNone).map fun x => { row := .runUrgent, a := x.1.gid, b := x.2.1 }
def State.dueFetch (s : State) : Option Event :=
  (s.bunchWhere fun t => t.ready && t.fetched != some t.pc).bind fun x =>
    (allLanes.find? fun l => x.2.2.threads[l].ready && x.2.2.threads[l].fetched != some x.2.2.threads[l].pc).map fun l =>
      { row := .instructionFetch, a := x.1.gid, b := x.2.1, pc := x.2.2.threads[l].pc }

/-! ## Easels -/

def easelIdx : List (Fin 8) := List.finRange 8
/-- A command that may start, or an issued one that may complete. -/
def State.commandStep (s : State) (c : Command) : Option Instr :=
  if c.op = Op.launch then (if c.started || s.waitsBehind c then none else some .launch)
  else if c.op = Op.wait then
    (if s.commands.any fun x => x.queue == c.queue && decide (x.id < c.id) then none else some .wait)
  else if !c.started then
    (if s.waitsBehind c then none
     else match c.op with
      | 2 => some .graph
      | 3 => some .basket
      | 4 => some .settle
      | 5 => some .tlbinv
      | 6 => some .migrate
      | 7 => some .keyload
      | _ => none)
  else if c.op = Op.settle then some .settleComplete
  else if c.op = Op.tlbinv then (if s.pageCaptured (s.asidOf c.ctx) c.a.toNat c.b.toNat || s.pageAsked (s.asidOf c.ctx) c.a.toNat c.b.toNat then none else some .tlbinvComplete)
  else if c.op = Op.keyload then
    (if s.slotBusy c.a.toNat c.id then none else some .keyloadComplete)
  else if c.op = Op.migrate then (if s.migrations.any fun m => m.cmd == c.id && !s.moveHeld m then some .migrateCopyComplete else none)
  else none
def State.dueCommand (s : State) : Option Event :=
  s.commands.findSome? fun c => (s.commandStep c).map fun i => { row := i, a := c.id }
def State.dueBasket (s : State) : Option Event :=
  s.baskets.findSome? fun b => (s.command? b.cmd).bind fun c =>
    if (s.nextRecord c b).isSome then some { row := .basketCount, a := b.cmd }
    else if !b.recs.isEmpty && decide (b.started + b.d ≤ s.ecyc[Fin.ofNat 8 c.easel]) then some { row := .basketCountdownExpiry, a := b.cmd }
    else none
def State.duePoll (s : State) : Option Event :=
  match easelIdx.find? fun e => decide (s.respPoll[e] ≤ s.ecyc[e]) with
  | some e => some { row := .errorLogPoll, a := e.val }
  | none => (easelIdx.find? fun e => decide (s.nextPoll[e] ≤ s.ecyc[e])).map fun e => { row := .queuePollExpiry, a := e.val }
/-- A waiting placement that goes on gets its groups onto their cores, or a spill made for it fails (R91, R93). -/
def State.resumeActs (s : State) (l : Launch) : Bool :=
  s.resumable l && (let t := s.placePlan l l.waiting
    !((t.launch? l.id).any fun x => !x.waiting.isEmpty) || t.dev.elcount != s.dev.elcount)
def State.duePalette (s : State) : Option Event :=
  match s.launches.find? fun l => s.resumeActs l with
  | some l => some { row := .placementResume, a := l.id }
  | none =>
    if decide (s.palCyc ≤ s.ecyc[0]) && s.launches.any fun l => s.inPalette l then some { row := .paletteDispatch } else none

/-! ## The order -/

def State.dueDrop (s : State) : Option Event := if s.lateRecords.isEmpty then none else some { row := .debugRecordDrop }
/-- The first step that is due. -/
def State.due (s : State) : Option Event :=
  s.dueHalt <|> s.dueRequest <|> s.dueStore <|> s.duePort <|> s.dueEngine <|> s.duePicker <|> s.dueTree <|> s.dueWake <|> s.dueUrgent
  <|> s.dueDump <|> s.dueLaunch <|> s.dueCommand <|> s.dueBasket <|> s.duePoll <|> s.duePalette <|> s.dueDrop <|> s.dueFetch
/-- The steps that the spec gives a bound in cycles: no cycle of the module begins while one of them is due (R63, R67, R70, R77,
R164, R277, R284, R287, R319, R325). -/
def State.bound (s : State) : Option Event :=
  s.dueLock <|> s.dueTree <|> s.dueWake <|> s.dueUrgent <|> s.dueBasket <|> s.duePoll <|> s.duePalette <|> s.dueDrop
/-- A stall sample that is due in this cycle (R328). -/
def State.dueSample (s : State) : Option Event :=
  (s.groups.find? fun g => g.sampleIsDue s.clock).map fun g => { row := .stallSample, a := g.gid }

/-! ## What comes next -/

/-- What a step does: the machine stops, a step without effect, a step of another agent, or a run's instruction. -/
inductive Act where
  | stop (f : Fault)
  | skip (s : State)
  | event (i : Instr) (s : State)
  | run (i : Instr) (s : State)
  deriving DecidableEq, Repr

/-- The step of an event's row, with the event as its card. A card that names an instruction of a program is no event. -/
def State.actOf (s : State) (e : Event) : Act := if e.row.isEvent then .event e.row { s with event := e } else .skip s
/-- A module held in reset (R294): only an image that verifies and the reset's end can be its next steps. -/
def State.heldAct (s : State) : Act :=
  match s.agenda with
  | [] => .stop .heldInReset
  | e :: es =>
    let s := { s with agenda := es }
    match e.row with
    | .firmwareImageVerify => s.actOf e
    | .moduleReset => s.actOf e
    | _ => .skip s
/-- What the agenda asks for first. Where it asks for the next cycle, what is bound to come before that comes first. -/
def State.asked (s : State) (e : Event) (es : List Event) : Act :=
  match if e.row = .issueCycle then s.bound else none with
  | some b => s.actOf b
  | none => { s with agenda := es }.actOf e
/-- The module's next step: a stall sample that is due in this cycle; a run that the cycle has issued; what the agenda asks
for; what is due; else the next cycle. -/
def State.nextAct (s : State) : Act :=
  if s.fw.held then s.heldAct
  else
    match s.dueSample with
    | some e => s.actOf e
    | none =>
      match s.issued with
      | r :: rs =>
        match { s with issued := rs }.prepare r with
        | (s, some i) => .run i s
        | (s, none) => .skip s
      | [] =>
        match s.agenda with
        | e :: es => s.asked e es
        | [] =>
          match s.due with
          | some e => s.actOf e
          | none => .event .issueCycle s

end Sys2Proof.Machine
end

