-- ==== Sys2Proof/Machine/Loading.lean ====
section
/-! DEFINITION. Machine/Loading.lean: a program put before the machine without a host that launches it (log 16): code in
memory, a context that maps it, and a launch of one thread at its first word. -/

namespace Sys2Proof.Machine

/-- Where the code comes to lie, in the page that is mapped at virtual address 0 (log 16). -/
def loadAt : Nat := 0x100
/-- Core of the loaded launch: the matrix core in row 2 and column 2 of stack 0, first of its cluster (log 16). -/
def loadCore : Nat := 26
/-- A page entry of the first page of HBM: V, L, RD, W, X, RO, kind RC, DIR (R157). -/
def loadPte : Pte := 0x7F
/-- The header of the loaded launch: one group of one thread, everything a program may name within its limits. -/
def loadHeader : Header :=
  { code := BitVec.ofNat 64 loadAt, ngroup := 1, nbar := 8, accum := 8, regs := 64, t := 1, scratch := 65536, gl := 1,
    widths := [5, 1], exts := [1, 1], tags := [1, 2, 3, 0, 0, 0, 0, 0], stackMask := 0, kind := 2, shape := 0, lpb := 0,
    lps := 32768, chsz := 1, g := 1, ttbase := 0, ttcount := 0, args := List.replicate 8 0 }
def loadGroup (gid lid : Nat) : Group :=
  { gid := gid, launch := lid, num := 0, core := loadCore, rank := 0, size := 1,
    bunches := [(Bunch.placed 1 (BitVec.ofNat 64 loadAt) (List.replicate 8 0) 0 gid).laneCredits],
    bars := List.replicate 8 ⟨1, 0, false, 0⟩, gs := 0, gsNow := 0, tra := 0, tfb := 0, dbg := 0, trapNext := none, sp := [], spPoison := [],
    chunks := [0, 1, 2, 3], halted := none, left := false, sampleNext := 0, sampleDue := 0 }
def loadLaunch (lid ctx : Nat) : Launch :=
  { id := lid, ctx := ctx, queue := 0, index := 0, prio := 0, easel := 0, order := lid, source := .external, hdr := loadHeader,
    starts := [], windows := [⟨coreStack loadCore, [], []⟩],
    tree := [0, 1, 2].map fun t => ⟨loadCore, Fin.ofNat 8 t, 1, 0, false, false, 0⟩, next := 1, ended := 0, withdrawn := false,
    origin := none, released := false, reserved := [], waiting := [], finished := false }
/-- A context number, and an address space, that nothing uses yet. -/
def State.freeCtx (s : State) : Nat :=
  (s.ctxCache.map fun e => e.1).foldl max 0 + (s.ctxCache.map fun e => e.2.1).foldl max 0 + (s.tlb.map fun e => e.asid).foldl max 0
    + (s.l1.map fun b => b.asid).foldl max 0 + 1
/-- The machine about to run a program: its bytes in memory, its launch resident, its first run issued. Samples that are due
wait a cycle. -/
def State.withProgram (s : State) (code : List Byte) : State :=
  let gid := s.fresh
  let lid := s.fresh + 1
  let ctx := s.freeCtx
  let pc := BitVec.ofNat 64 loadAt
  let entry : TlbEntry := ⟨clusterOf loadCore, ctx, 0, 32768, loadPte⟩
  { s with
    mem := Memory.writeN s.mem loadAt code
    poison := poisonAfter s.poison (loadAt / 8 * 8) (code.length + 8)
    fw := { s.fw with held := false }
    groups := loadGroup gid lid :: s.groups.map fun g => { g with sampleDue := max g.sampleDue (s.clock + 1) }
    launches := loadLaunch lid ctx :: s.launches
    tlb := entry :: s.tlb
    ctxCache := (ctx, ctx, 0) :: s.ctxCache
    fresh := s.fresh + 2
    issued := ⟨gid, 0, 1, pc⟩ :: s.issued }

end Sys2Proof.Machine
end

