-- ==== Sys2Proof/Machine/Step.lean ====
section
/-! DEFINITION. Machine/Step.lean: one step of the module, and a program put before it. -/

namespace Sys2Proof.Machine

/-- One step of the module (log 1, log 19). -/
def step (s : State) : Host.Outcome State Fault Refusal :=
  match s.nextAct with
  | .stop f => .fault f
  | .skip t => .next t
  | .event i t => exec i t
  | .run i t =>
    match exec i t with
    | .next u => .next (u.afterIssue i)
    | .fault f => .fault f
    | .refused r => .refused r

/-- The machine with an instruction where its next step fetches it (log 16): its bits numbered as the opcode table numbers
them, the bits above nbits 0. -/
def State.withFetchWord (s : State) (nbits w : Nat) : State :=
  s.withProgram (Sys2Proof.bytesOfBits Sys2Proof.maxWords (w % 2 ^ nbits))

end Sys2Proof.Machine
end

