-- ==== Sys2Proof/Safety.lean ====
section
/-! DEFINITION. Safety.lean: the words in which claims speak of a step: what a step must keep, when the run that issues
finds its operands in the core, and what an instruction of lanes or of the bunch leaves behind. -/

namespace Sys2Proof.Machine

/-- Every byte memory of the machine is in its canonical form: memory, scratchpads (of saved groups too), windows of chip
scratchpad, L1 copies, and the shared caches' copies of peers' memory. -/
def State.Canonical (s : State) : Prop :=
  Memory.wf s.mem = true ∧ (∀ g ∈ s.groups, Memory.wf g.sp = true)
    ∧ (∀ l ∈ s.launches, ∀ w ∈ l.windows, Memory.wf w.bytes = true) ∧ (∀ b ∈ s.l1, Memory.wf b.data = true)
    ∧ (∀ b ∈ s.slices, Memory.wf b.data = true) ∧ ∀ v ∈ s.saved, ∀ g ∈ v.groups, Memory.wf g.sp = true

/-! ## Before -/

/-- A register of a bunch is in the core: it is not spilled (R82), nor is an entry that an instruction in flight had for it. -/
def Bunch.InCore (b : Bunch) (r : Reg) : Prop := b.regs[r].rep ≠ .spilled ∧ b.hold r ≠ .spilled
/-- The registers that a form names are in the core, and an entry is free for each destination (R87, R90): so the instruction
neither refills nor spills. -/
def State.InCore (s : State) (h : Here) (o : Operands) : Prop :=
  (∀ r ∈ o.named, h.b.InCore r)
  ∧ h.b.full + o.dests.length ≤ Config.vectorFloor + (s.roomFor h.g.core h.g.gid s.cur.bunch).shared

/-- The run that issues reads the sources of a form without a fault in any lane: no poisoned copy, and no released one
where the thread traps on it (R86, R93). -/
def State.ReadsWell (s : State) (h : Here) (rs : Fin 32 → List Read) : Prop :=
  ∀ l : Fin 32, s.cur.exec.getLsbD l.val = true → readFault h s.cur.bunch h.b (rs l) l = none

/-- The run stands at its group, and finds the operands of a form. -/
def State.LaneReady (s : State) (h : Here) (o : Operands) (rs : Fin 32 → List Read) : Prop :=
  s.here? = some h ∧ s.InCore h o ∧ s.ReadsWell h fun l => o.reads ++ rs l

/-- No lane traps on a floating-point exception it raises (R109). -/
def State.NoFpx (s : State) (h : Here) (exc : Fin 32 → Exc) : Prop :=
  ∀ l : Fin 32, s.cur.exec.getLsbD l.val = true → fpxTraps h.b.threads[l].fmode (exc l) = false

/-! ## After -/

/-- Registers of a bunch after lanes `good` have released `rel`, and lanes `w` have then written `dests`: the values
written, every other copy as before, and every other record too but for its last access. -/
def Bunch.RegsAfter (b b' : Bunch) (good w : Lanes) (rel dests : List Reg) (vals : Fin 32 → List Word) : Prop :=
  (∀ (i : Nat) (r : Reg), dests[i]? = some r → ∀ l : Fin 32, w.getLsbD l.val = true →
      b'.isLive r l = true ∧ b'.isBad r l = false ∧ b'.val r l = (vals l).getD i 0)
  ∧ (∀ (r : Reg) (l : Fin 32), ¬ (r ∈ dests ∧ w.getLsbD l.val = true) →
      if r ∈ rel ∧ good.getLsbD l.val = true then b'.isLive r l = false
      else b'.isLive r l = b.isLive r l ∧ b'.val r l = b.val r l ∧ b'.isBad r l = b.isBad r l)
  ∧ (∀ r : Reg, r ∉ dests → r ∉ rel → ∃ a, b'.regs[r] = { b.regs[r] with access := a })

/-- The bunch after its executing lanes have written their bits of a mask register: other lanes' bits stay. -/
def Bunch.withMask (b : Bunch) (m : Mask) (exec : Lanes) (f : Fin 32 → Bool) : Bunch :=
  { b with masks := b.masks.set m.val (laneSet fun l => if exec.getLsbD l.val then f l else b.masks[m].getLsbD l.val) }

/-- A bunch after an instruction of its run: it is `x` but for registers and threads; the threads of the run, those gated
off among them, have gone to their counters; the registers are as RegsAfter says. -/
def Bunch.After (b x b' : Bunch) (exec run w : Lanes) (goto : Fin 32 → DWord) (rel dests : List Reg)
    (vals : Fin 32 → List Word) : Prop :=
  b' = { x with regs := b'.regs, threads := b'.threads }
  ∧ (∀ l : Fin 32, b'.threads[l] = if (exec ||| run).getLsbD l.val then x.threads[l].jump (goto l) else x.threads[l])
  ∧ b.RegsAfter b' exec w rel dests vals

/-- GS bits of an instruction: exceptions of its lanes, and STALE where a lane reads a released copy (R86, R109). -/
def State.gsBits (s : State) (h : Here) (rs : Fin 32 → List Read) (exc : Fin 32 → Exc) : Word :=
  (lanesOf s.cur.exec).foldl (fun w l => w ||| gsOfExc (exc l))
    (if (lanesOf s.cur.exec).any fun l => (rs l).any fun r => r.stale h.b l then gsStale else 0)

/-- The module after an instruction of lanes: the run's bunch is new, its group's flags are raised, and nothing else has
changed. -/
def State.laneNext (s : State) (h : Here) (b' : Bunch) (flags : Word) : State :=
  (s.putBunch h.g.gid s.cur.bunch b').setGs h.g.gid flags

/-- An instruction of lanes completes: its executing lanes write `vals` to `o.dests` and release their last-use sources;
every lane of the run goes on; the bunch is otherwise `x`; nothing else of the module changes but GS. -/
def LaneDone (i : Instr) (s : State) (h : Here) (x : Bunch) (o : Operands) (rs : Fin 32 → List Read) (exc : Fin 32 → Exc)
    (vals : Fin 32 → List Word) : Prop :=
  ∃ b', exec i s = .next (s.laneNext h b' (s.gsBits h (fun l => o.reads ++ rs l) exc))
    ∧ h.b.After x b' s.cur.exec s.cur.run s.cur.exec (fun _ => s.cur.next) o.marked o.dests vals

/-- An instruction of lanes whose acts make `t` of the module, but for the run's bunch: that is `x` with new registers;
lanes `w` write `vals` to the destinations; the executing lanes go to `goto`, the lanes gated off to the next instruction.
-/
def LaneActs (i : Instr) (s t : State) (h : Here) (x : Bunch) (o : Operands) (w : Lanes) (goto : Fin 32 → DWord)
    (vals : Fin 32 → List Word) : Prop :=
  ∃ b', exec i s = .next (t.laneNext h b' (s.gsBits h (fun _ => o.reads) fun _ => 0))
    ∧ h.b.After x b' s.cur.exec s.cur.run w (fun l => if s.cur.exec.getLsbD l.val = true then goto l else s.cur.next)
        o.marked o.dests vals

def noReads (_ : Fin 32) : List Read := []
def noExc (_ : Fin 32) : Exc := 0

/-- A bunch instruction completes: the scalar state of the bunch is `x`'s, every thread of the run goes to `pc`, and nothing
else of the module changes. -/
def BunchDone (i : Instr) (s : State) (h : Here) (x : Bunch) (pc : DWord) : Prop :=
  exec i s = .next (s.putBunch h.g.gid s.cur.bunch (x.jumpLanes s.cur.run fun _ => pc))

/-! ## The quiet parts of the module -/

/-- No store stands inside a core, and none is on its way to another core (R172, R145). -/
def State.Settled (s : State) : Prop := s.stores = [] ∧ ∀ m ∈ s.csmNet, m.stores = []
/-- The L1 of a core holds no block of an SI page: the SI actions of R152 find nothing to do. -/
def State.NoSi (s : State) (core : Nat) : Prop := ∀ b ∈ s.l1, b.core = core → Pte.coh b.pte ≠ .si
/-- No block stands twice in an L1 (R151). -/
def State.OneBlock (s : State) : Prop := (s.l1.map fun b => (b.core, b.asid, b.vb)).Nodup
/-- No command of an engine of a core is unretired (R187, R251). -/
def State.EnginesIdle (s : State) (core : Nat) : Prop :=
  ∀ g ∈ s.groups, g.core = core → ∀ b ∈ g.bunches, b.mx.cmds = [] ∧ b.cp.cmds = []
/-- Each group has its own number in the model (log 9). -/
def State.GidsDiffer (s : State) : Prop := (s.groups.map fun g => g.gid).Nodup
/-- The cluster's TLB holds the page of an address, and the access may use it (R156, R159, R160). -/
def State.Mapped (s : State) (core ctx va : Nat) (n : Need) (x : Xl) : Prop :=
  va < 2 ^ 57 ∧ (∃ e ∈ s.ctxCache, e.1 = ctx)
  ∧ ∃ lf, s.tlbFind (clusterOf core) (s.asidOf ctx) va = some lf ∧ x = ⟨Pte.pa lf.pte + (va - lf.base), lf.pte⟩
    ∧ permOk lf.pte n = true ∧ s.keyLoaded (Pte.key lf.pte) = true ∧ s.linkDown x.pa = false
/-- The home point shows bytes at a physical address, through a key slot, as State.mem has them: no device is there, and of
local memory the home slice holds them, or HBM has them as they stand in State.mem (R161, R164). -/
def State.Plain (s : State) (slot pa n : Nat) : Prop :=
  windowOf pa ≠ .device
  ∧ ∀ i < n, isLocal (pa + i) = true → s.sliceHolds ((pa + i) / 32) = true ∨ s.hbmView (s.keyOf slot) ((pa + i) / 32) = none
/-- It does, and none of them is poisoned. -/
def State.Clean (s : State) (slot pa n : Nat) : Prop := s.Plain slot pa n ∧ poisoned s.poison pa n = false
/-- Nothing lies enciphered, and every block in a slice was filled under the null key (R161, R291). -/
def State.NullKeyed (s : State) : Prop := s.hbm = [] ∧ ∀ b ∈ s.slices, s.keyOf b.key = 0
/-- No L1 holds a physical block (R151). -/
def State.NotInL1 (s : State) (pb : Nat) : Prop := ∀ b ∈ s.l1, b.pb ≠ pb
/-- No slice has a block locked (R164). -/
def State.Unlocked (s : State) (blk : Nat) : Prop := ∀ k ∈ s.locks, k.blk ≠ blk
/-- The same module with other blocks in its shared cache, and other sectors in HBM behind it (R163, R164). -/
def State.recached (s : State) (sl : List SliceBlock) (hb : List HbmSector) : State := { s with slices := sl, hbm := hb }
/-- An acquire at .sy has taken the copies of peers' blocks from the stacks (R188, log 71). -/
def State.acquired (s : State) (q : Qual) : State :=
  if q = some .sy then { s with slices := s.slices.filter fun b => !isPeer (512 * b.pb) } else s
/-- The registers that an answer writes are in the core, with room for those it allocates. -/
def State.RoomAt (s : State) (h : Here) (bi : Nat) (dests : List Reg) : Prop :=
  (∀ d ∈ dests, h.b.InCore d) ∧ h.b.full + dests.length ≤ Config.vectorFloor + (s.roomFor h.g.core h.g.gid bi).shared

end Sys2Proof.Machine
end

