-- ==== Sys2Proof/Certificates/Slice0/Obligations.lean ====
section
/-! DEFINITION. Certificates/Slice0/Obligations.lean: the statements about the machine that are to be proved. Tables give,
for each instruction of a shape, the result the spec's own formula computes. -/

namespace Sys2Proof.Claims
open Sys2Proof.Machine

/-! ## Results of the integer forms, by R104 to R107 -/

/-- A word from its bits. -/
def bits (f : Nat → Bool) : Word := laneSet fun i => f i.val

/-- R104: sums, differences, products, logic, minimum, maximum and saturation of two 32-bit operands. -/
def binary32 : List ((Reg → Src → Src → Instr) × (Word → Word → Word)) :=
  [(.addN32, fun a b => .ofNat 32 (a.toNat + b.toNat)),
   (.subN32, fun a b => .ofInt 32 ((a.toNat : Int) - b.toNat)),
   (.mulloN32, fun a b => .ofNat 32 (a.toNat * b.toNat)),
   (.mulhiI32, fun a b => .ofInt 32 (a.toInt * b.toInt / 2 ^ 32)),
   (.mulhiN32, fun a b => .ofNat 32 (a.toNat * b.toNat / 2 ^ 32)),
   (.andN32, fun a b => bits fun i => a.getLsbD i && b.getLsbD i),
   (.orN32, fun a b => bits fun i => a.getLsbD i || b.getLsbD i),
   (.xorN32, fun a b => bits fun i => a.getLsbD i != b.getLsbD i),
   (.minI32, fun a b => .ofInt 32 (min a.toInt b.toInt)),
   (.maxI32, fun a b => .ofInt 32 (max a.toInt b.toInt)),
   (.minN32, fun a b => .ofNat 32 (min a.toNat b.toNat)),
   (.maxN32, fun a b => .ofNat 32 (max a.toNat b.toNat)),
   (.addsatI32, fun a b => .ofInt 32 (max (-2 ^ 31) (min (2 ^ 31 - 1) (a.toInt + b.toInt)))),
   (.subsatI32, fun a b => .ofInt 32 (max (-2 ^ 31) (min (2 ^ 31 - 1) (a.toInt - b.toInt)))),
   (.addsatN32, fun a b => .ofNat 32 (min (2 ^ 32 - 1) (a.toNat + b.toNat))),
   (.subsatN32, fun a b => .ofNat 32 (a.toNat - b.toNat))]
/-- R104: the forms with an immediate. -/
def immediate32 : List ((Reg → Src → Word → Instr) × (Word → Word → Word)) :=
  [(.addN32Imm, fun a b => .ofNat 32 (a.toNat + b.toNat)),
   (.mulloN32Imm, fun a b => .ofNat 32 (a.toNat * b.toNat)),
   (.andN32Imm, fun a b => bits fun i => a.getLsbD i && b.getLsbD i),
   (.orN32Imm, fun a b => bits fun i => a.getLsbD i || b.getLsbD i)]
/-- R104: the sums and differences of pairs. -/
def binary64 : List ((Reg → Src → Src → Instr) × (DWord → DWord → DWord)) :=
  [(.addN64, fun a b => .ofNat 64 (a.toNat + b.toNat)), (.subN64, fun a b => .ofInt 64 ((a.toNat : Int) - b.toNat))]

/-- R105: shifts of a value of w bits by an unsigned count. -/
def shiftLeft (w a c : Nat) : Nat := if w ≤ c then 0 else a * 2 ^ c % 2 ^ w
def shiftRight (w a c : Nat) : Nat := if w ≤ c then 0 else a / 2 ^ c
def shiftArith (w : Nat) (a : Int) (c : Nat) : Int := if w ≤ c then (if a < 0 then -1 else 0) else a / 2 ^ c
def shifts32 : List ((Reg → Src → Src → Instr) × (Word → Word → Word)) :=
  [(.shlN32, fun a c => .ofNat 32 (shiftLeft 32 a.toNat c.toNat)),
   (.shrN32, fun a c => .ofNat 32 (shiftRight 32 a.toNat c.toNat)),
   (.sarI32, fun a c => .ofInt 32 (shiftArith 32 a.toInt c.toNat))]
def shiftsImmediate32 : List ((Reg → Src → Word → Instr) × (Word → Word → Word)) :=
  [(.shlN32Imm, fun a c => .ofNat 32 (shiftLeft 32 a.toNat c.toNat)),
   (.shrN32Imm, fun a c => .ofNat 32 (shiftRight 32 a.toNat c.toNat)),
   (.sarI32Imm, fun a c => .ofInt 32 (shiftArith 32 a.toInt c.toNat))]
def shifts64 : List ((Reg → Src → Src → Instr) × (DWord → Word → DWord)) :=
  [(.shlN64, fun a c => .ofNat 64 (shiftLeft 64 a.toNat c.toNat)),
   (.shrN64, fun a c => .ofNat 64 (shiftRight 64 a.toNat c.toNat)),
   (.sarI64, fun a c => .ofInt 64 (shiftArith 64 a.toInt c.toNat)),
   (.shaddN64, fun a b => .ofInt 64 ((a.toNat : Int) + 4 * b.toInt))]

/-- R106: position and length of the field that b describes, cut at bit 31. -/
def position (b : Word) : Nat := b.toNat % 32
def length (b : Word) : Nat := min (b.toNat / 256 % 64) (32 - position b)
def extract (b a : Word) : Nat := a.toNat / 2 ^ position b % 2 ^ length b
def extracts : List ((Reg → Src → Src → Instr) × (Word → Word → Word)) :=
  [(.bfxN32, fun a b => .ofNat 32 (extract b a)),
   (.bfxI32, fun a b => .ofInt 32 (if 2 ^ length b ≤ 2 * extract b a ∧ length b ≠ 0 then (extract b a : Int) - 2 ^ length b
      else extract b a))]
def insert (old a b : Word) : Word :=
  bits fun i => if position b ≤ i ∧ i < position b + length b then a.getLsbD (i - position b) else old.getLsbD i

/-- R107, and of R116 the widening of an i4: the one-source forms. -/
def unary32 : List ((Reg → Src → Instr) × (Word → Word)) :=
  [(.movN32, fun a => a),
   (.notN32, fun a => bits fun i => !a.getLsbD i),
   (.negI32, fun a => .ofInt 32 (-a.toInt)),
   (.absI32, fun a => .ofInt 32 |a.toInt|),
   (.popcN32, fun a => .ofNat 32 ((List.range 32).countP fun i => a.getLsbD i)),
   (.clzN32, fun a => .ofNat 32 ((List.range 32).takeWhile fun i => !a.getLsbD (31 - i)).length),
   (.brevN32, fun a => bits fun i => a.getLsbD (31 - i)),
   (.sextI8, fun a => bits fun i => a.getLsbD (min i 7)),
   (.sextI16, fun a => bits fun i => a.getLsbD (min i 15)),
   (.cvtI32I4, fun a => bits fun i => a.getLsbD (min i 3))]
def unary64 : List ((Reg → Src → Instr) × (DWord → DWord)) :=
  [(.movN64, fun a => a), (.negI64, fun a => .ofInt 64 (-a.toInt))]

/-! ## Results of the floating-point forms, by R111 to R113 -/

/-- A lane's rounding mode and narrow reading (R108, R125). -/
def modeOf (h : Here) (l : Fin 32) : RM := rmOf h.b.threads[l].fmode
def readingAt (h : Here) (l : Fin 32) : Reading := narrowOf h.b.threads[l].fmode
/-- R111: forms of two operands, and with an immediate pattern. -/
def float32 : List ((Reg → Src → Src → Instr) × (RM → Word → Word → FRes)) :=
  [(.addF32, fun m a b => fp32.finish m (addExact m (fp32.read a.toNat) (fp32.read b.toNat))),
   (.subF32, fun m a b => fp32.finish m (addExact m (fp32.read a.toNat) (fp32.read b.toNat).flip)),
   (.mulF32, fun m a b => fp32.finish m (mulExact (fp32.read a.toNat) (fp32.read b.toNat))),
   (.minF32, fun _ a b => fp32.minMax false a.toNat b.toNat),
   (.maxF32, fun _ a b => fp32.minMax true a.toNat b.toNat),
   (.scalexpF32, fun m a b => fp32.scalexp m a.toNat b.toInt)]
def floatImmediate32 : List ((Reg → Src → Word → Instr) × (RM → Word → Word → FRes)) :=
  [(.addF32Imm, fun m a b => fp32.finish m (addExact m (fp32.read a.toNat) (fp32.read b.toNat))),
   (.mulF32Imm, fun m a b => fp32.finish m (mulExact (fp32.read a.toNat) (fp32.read b.toNat)))]
/-- R112: an operation on each half of a word; the exceptions are the union. -/
def low (w : Word) : Nat := w.toNat % 2 ^ 16
def high (w : Word) : Nat := w.toNat / 2 ^ 16
def packed (lo hi : FRes) : FRes := ⟨lo.code + 2 ^ 16 * hi.code, lo.exc ||| hi.exc⟩
def float16 : List ((Reg → Src → Src → Instr) × (RM → Nat → Nat → FRes)) :=
  [(.addF16, fun m a b => fp16.finish m (addExact m (fp16.read a) (fp16.read b))),
   (.mulF16, fun m a b => fp16.finish m (mulExact (fp16.read a) (fp16.read b)))]
/-- R111, R112: multiply-add into the destination, with one rounding. -/
def fused (f : Fmt) (m : RM) (c a b : Nat) : FRes :=
  let p := mulExact (f.read a) (f.read b)
  if p.2 then ⟨f.nan, Exc.nv⟩ else f.finish m (addExact m (f.read c) p.1)
def fusedForms : List ((Reg → Src → Src → Instr) × (RM → Word → Word → Word → FRes)) :=
  [(.fmadF32, fun m c a b => fused fp32 m c.toNat a.toNat b.toNat),
   (.fmadF16, fun m c a b => packed (fused fp16 m (low c) (low a) (low b)) (fused fp16 m (high c) (high a) (high b))),
   (.fmadBf16, fun m c a b => packed (fused bf16 m (low c) (low a) (low b)) (fused bf16 m (high c) (high a) (high b)))]
/-- R113: sign forms, which raise nothing, and the forms by value. -/
def signForms : List ((Reg → Src → Instr) × (Word → Word)) :=
  [(.absF32, fun a => bits fun i => i != 31 && a.getLsbD i), (.negF32, fun a => bits fun i => (i == 31) != a.getLsbD i),
   (.absF16, fun a => bits fun i => i % 16 != 15 && a.getLsbD i), (.negF16, fun a => bits fun i => (i % 16 == 15) != a.getLsbD i),
   (.absBf16, fun a => bits fun i => i % 16 != 15 && a.getLsbD i), (.negBf16, fun a => bits fun i => (i % 16 == 15) != a.getLsbD i)]
def floatUnary : List ((Reg → Src → Instr) × (RM → Word → FRes)) :=
  [(.rcpF32, fun _ a => fp32.rcp a.toNat), (.rsqF32, fun _ a => fp32.rsq a.toNat),
   (.floorF32, fun _ a => fp32.integral .rdn false a.toNat), (.ceilF32, fun _ a => fp32.integral .rup false a.toNat),
   (.truncF32, fun _ a => fp32.integral .rz false a.toNat), (.rintF32, fun m a => fp32.integral m true a.toNat),
   (.getexpF32, fun _ a => fp32.getexp a.toNat), (.getmantF32, fun _ a => fp32.getmant a.toNat),
   (.rcpF16, fun _ a => packed (fp16.rcp (low a)) (fp16.rcp (high a)))]
/-- R115, R116: conversions with SAT, and those without; narrow sources are read from the low bits. -/
def satConversions : List ((Reg → Src → Bool → Instr) × (RM → Reading → Bool → Word → FRes)) :=
  [(.cvtI32F32, fun m _ sat a => cvtToInt m (-2 ^ 31) (2 ^ 31 - 1) 0x80000000 sat a.toNat),
   (.cvtN32F32, fun m _ sat a => cvtToInt m 0 (2 ^ 32 - 1) 0 sat a.toNat),
   (.cvtF16F32, fun m _ sat a => cvtNarrow fp16 .iee m sat a.toNat),
   (.cvtBf16F32, fun m _ sat a => cvtNarrow bf16 .iee m sat a.toNat),
   (.cvtE4m3F32, fun m r sat a => cvtNarrow (e4m3 r) r m sat a.toNat),
   (.cvtE5m2F32, fun m r sat a => cvtNarrow (e5m2 r) r m sat a.toNat)]
def conversions : List ((Reg → Src → Instr) × (RM → Reading → Word → FRes)) :=
  [(.cvtF32I32, fun m _ a => fp32.write m (.fin (decide (a.toInt < 0)) a.toInt.natAbs 0)),
   (.cvtF32N32, fun m _ a => fp32.write m (.fin false a.toNat 0)),
   (.cvtF32F16, fun _ _ a => fp32.write .rne (fp16.read (a.toNat % 2 ^ 16))),
   (.cvtF32Bf16, fun _ _ a => fp32.write .rne (bf16.read (a.toNat % 2 ^ 16))),
   (.cvtF32E4m3, fun _ r a => fp32.write .rne ((e4m3 r).read (a.toNat % 2 ^ 8))),
   (.cvtF32E5m2, fun _ r a => fp32.write .rne ((e5m2 r).read (a.toNat % 2 ^ 8))),
   (.cvtQ4F32, fun _ _ a => cvtQ4 a.toNat),
   (.cvtF32Q4, fun _ _ a => fp32.write .rne (q4Read (a.toNat % 2 ^ 4)))]
def integerNarrowing : List ((Reg → Src → Bool → Instr) × (Bool → Word → Word)) :=
  [(.cvtI4I32, fun sat a => if sat then .ofInt 32 (max (-8) (min 7 a.toInt)) else bits fun i => a.getLsbD (min i 3)),
   (.cvtN8I32, fun sat a => .ofInt 32 (if sat then max 0 (min 255 a.toInt) else a.toNat % 256)),
   (.cvtN16I32, fun sat a => .ofInt 32 (if sat then max 0 (min 65535 a.toInt) else a.toNat % 65536)),
   (.cvtN8N32, fun sat a => .ofNat 32 (if sat then min 255 a.toNat else a.toNat % 256)),
   (.cvtN16N32, fun sat a => .ofNat 32 (if sat then min 65535 a.toNat else a.toNat % 65536))]

/-! ## Masks and shuffles, by R117 to R122 -/

def compareSigned (c : ICond) (a b : Word) : Prop :=
  match c with
  | .eq => a = b
  | .ne => a ≠ b
  | .lt => a.toInt < b.toInt
  | .le => a.toInt ≤ b.toInt
  | .gt => b.toInt < a.toInt
  | .ge => b.toInt ≤ a.toInt
  | .tst => a &&& b ≠ 0
  | .ntst => a &&& b = 0
def compareUnsigned (c : ICond) (a b : Word) : Prop :=
  match c with
  | .eq => a = b
  | .ne => a ≠ b
  | .lt => a.toNat < b.toNat
  | .le => a.toNat ≤ b.toNat
  | .gt => b.toNat < a.toNat
  | .ge => b.toNat ≤ a.toNat
  | .tst => a &&& b ≠ 0
  | .ntst => a &&& b = 0
def maskForms : List ((Mask → Mask → Mask → Instr) × (Bool → Bool → Bool)) :=
  [(.mand, fun x y => x && y), (.mor, fun x y => x || y), (.mxor, fun x y => x != y)]
/-- The member whose copy a shuffle reads, from a lane number: none outside 0 to 31 and for a lane that is no member. -/
def member (exec : Lanes) (j : Int) : Option (Fin 32) :=
  if 0 ≤ j ∧ j < 32 ∧ exec.getLsbD j.toNat = true then some (Fin.ofNat 32 j.toNat) else none
def shuffleRead (exec : Lanes) (r : Reg) (j : Int) : List Read :=
  match member exec j with
  | some k => [⟨r, .bc k, false⟩]
  | none => []
def shuffleValue (exec : Lanes) (b : Bunch) (r : Reg) (j : Int) : Word :=
  match member exec j with
  | some k => b.val r k
  | none => 0
def shuffles : List ((Reg → Own → Fin 32 → Instr) × (Fin 32 → Fin 32 → Int)) :=
  [(.shflup, fun l k => (l.val : Int) - k.val), (.shfldn, fun l k => (l.val : Int) + k.val),
   (.shflx, fun l k => ((l.val ^^^ k.val : Nat) : Int))]
def everyMember (exec : Lanes) (r : Reg) : List Read := (lanesOf exec).map fun j => ⟨r, .bc j, false⟩

/-! ## System registers, by R59, R94 and R123 to R128 -/

/-- Lanes of a register that an instruction in flight is releasing, and whether one has taken an entry for it (R84). -/
def releasing (b : Bunch) (r : Reg) (l : Fin 32) : Bool := b.flights.any fun f => decide (r ∈ f.marked) && f.lanes.getLsbD l.val
def takenFor (b : Bunch) (r : Reg) : Bool := b.flights.any fun f => decide (r ∈ f.dests)
/-- Every copy of the register is on its way out. -/
def leavingAll (b : Bunch) (r : Reg) : Bool :=
  (List.finRange 32).any (releasing b r) && (List.finRange 32).all fun l => !b.isLive r l || releasing b r l
/-- Full, compressed and spilled registers of a bunch, as the instructions issued so far leave them (R82, R84, R94). -/
def countFull (b : Bunch) : Nat := (List.finRange 64).countP fun r =>
  if takenFor b r then !b.away.getLsbD r.val
  else !leavingAll b r && match b.regs[r].rep with | .full _ => true | _ => false
def countCompressed (b : Bunch) : Nat := (List.finRange 64).countP fun r =>
  !takenFor b r && !leavingAll b r && match b.regs[r].rep with | .compressed _ => true | _ => false
def countSpilled (b : Bunch) : Nat := (List.finRange 64).countP fun r =>
  if takenFor b r then b.away.getLsbD r.val
  else !leavingAll b r && match b.regs[r].rep with | .spilled => true | _ => false
/-- The fields of a thread's work identifier, field 0 first (R59). -/
def identifierFields (h : Here) (bi : Nat) (l : Fin 32) : List Nat := h.l.hdr.fields h.g.num (32 * bi + l.val)
def identifier (h : Here) (bi : Nat) (l : Fin 32) : Nat := packFields h.l.hdr.widths (identifierFields h bi l) % 2 ^ 64
/-- The value of a system register for a lane (R123). -/
def sysValue (s : State) (h : Here) (l : Fin 32) (r : SysReg) : Word :=
  match r with
  | .lane => .ofNat 32 l.val
  | .wid => .ofNat 32 (identifier h s.cur.bunch l)
  | .widh => .ofNat 32 (identifier h s.cur.bunch l / 2 ^ 32)
  | .wf0 => .ofNat 32 ((identifierFields h s.cur.bunch l).getD 0 0)
  | .wf1 => .ofNat 32 ((identifierFields h s.cur.bunch l).getD 1 0)
  | .wf2 => .ofNat 32 ((identifierFields h s.cur.bunch l).getD 2 0)
  | .wf3 => .ofNat 32 ((identifierFields h s.cur.bunch l).getD 3 0)
  | .wf4 => .ofNat 32 ((identifierFields h s.cur.bunch l).getD 4 0)
  | .wf5 => .ofNat 32 ((identifierFields h s.cur.bunch l).getD 5 0)
  | .core => .ofNat 32 ((if isVector h.g.core then 2 ^ 31 else 0) + 2 ^ 16 * (h.g.core / 144) + 2 ^ 8 * (h.g.core % 144 / 12)
      + h.g.core % 12)
  | .cyc => .ofNat 32 s.clock
  | .cych => h.b.threads[l].latch
  | .gs => h.g.gs
  | .fmode => h.b.threads[l].fmode
  | .pstat => .ofNat 32 (2 ^ 20 * s.sharedFree h.g.core + 2 ^ 13 * countFull h.b + 2 ^ 6 * countCompressed h.b + countSpilled h.b)
  | .pspill => h.b.pspill
  | .rsd => .ofNat 32 (h.b.threads[l].ret.length + 4 * h.b.threads[l].spilled)
/-- Threads of some lanes changed. -/
def changeLanes (b : Bunch) (m : Lanes) (f : Fin 32 → Thread → Thread) : Bunch :=
  b.mapThreads fun l t => if m.getLsbD l.val then f l t else t
/-- A read of CYC latches the count's high half in the lanes that read (R127). -/
def latching (s : State) (r : SysReg) (m : Lanes) (b : Bunch) : Bunch :=
  match r with
  | .cyc => changeLanes b m fun _ t => { t with latch := .ofNat 32 (s.clock / 2 ^ 32) }
  | _ => b
/-- A value that SETS may write (R124, R125): no reserved bit, and NARROW not 3. -/
def writable (r : SysReg) (w : Word) : Prop :=
  match r with
  | .gs => w.toNat < 2 ^ 6
  | .fmode => w.toNat < 2 ^ 11 ∧ w.getLsbD 7 = false ∧ w.toNat / 2 ^ 9 ≠ 3
  | .pspill => True
  | _ => False
def scalarWritten (b : Bunch) (d : Reg) (w : Word) : Bunch :=
  { b with sregs := b.sregs.set d.val w, swritten := b.swritten ||| (1#64 <<< d.val) }
def scalarPair (b : Bunch) (r : Reg) : DWord := b.sregs[regNext r 1] ++ b.sregs[r]
def pairWritten (b : Bunch) (d : Reg) (x : DWord) : Bunch :=
  scalarWritten (scalarWritten b d (x.extractLsb' 0 32)) (regNext d 1) (x.extractLsb' 32 32)

/-! ## Bunch forms, by R136 -/

def scalarForms : List ((Reg → Reg → Reg → Instr) × (Word → Word → Word)) :=
  [(.addN32Bunch, fun a b => .ofNat 32 (a.toNat + b.toNat)),
   (.subN32Bunch, fun a b => .ofInt 32 ((a.toNat : Int) - b.toNat)),
   (.mulloN32Bunch, fun a b => .ofNat 32 (a.toNat * b.toNat)),
   (.andN32Bunch, fun a b => bits fun i => a.getLsbD i && b.getLsbD i),
   (.orN32Bunch, fun a b => bits fun i => a.getLsbD i || b.getLsbD i),
   (.xorN32Bunch, fun a b => bits fun i => a.getLsbD i != b.getLsbD i),
   (.shlN32Bunch, fun a c => .ofNat 32 (shiftLeft 32 a.toNat c.toNat)),
   (.shrN32Bunch, fun a c => .ofNat 32 (shiftRight 32 a.toNat c.toNat)),
   (.sarI32Bunch, fun a c => .ofInt 32 (shiftArith 32 a.toInt c.toNat)),
   (.minI32Bunch, fun a b => .ofInt 32 (min a.toInt b.toInt)),
   (.minN32Bunch, fun a b => .ofNat 32 (min a.toNat b.toNat)),
   (.maxI32Bunch, fun a b => .ofInt 32 (max a.toInt b.toInt)),
   (.maxN32Bunch, fun a b => .ofNat 32 (max a.toNat b.toNat)),
   (.seqN32, fun a b => if a = b then 1 else 0),
   (.sltI32, fun a b => if a.toInt < b.toInt then 1 else 0),
   (.sltN32, fun a b => if a.toNat < b.toNat then 1 else 0)]
def scalarImmediates : List ((Reg → Reg → Word → Instr) × (Word → Word → Word)) :=
  [(.addN32BunchImm, fun a b => .ofNat 32 (a.toNat + b.toNat)),
   (.andN32BunchImm, fun a b => bits fun i => a.getLsbD i && b.getLsbD i),
   (.shlN32BunchImm, fun a c => .ofNat 32 (shiftLeft 32 a.toNat c.toNat)),
   (.shrN32BunchImm, fun a c => .ofNat 32 (shiftRight 32 a.toNat c.toNat))]
def scalarPairForms : List ((Reg → Reg → Reg → Instr) × (DWord → DWord → DWord)) :=
  [(.addN64Bunch, fun a b => .ofNat 64 (a.toNat + b.toNat)), (.subN64Bunch, fun a b => .ofInt 64 ((a.toNat : Int) - b.toNat))]

/-! ## Control flow, by R39 and R129 to R134, and traps, by R311 to R318 -/

/-- A word offset counted from an address (R39). -/
def targetOf (a : DWord) (off : Int) : DWord := .ofInt 64 (a.toNat + 4 * off)
/-- The bytes of a number, lowest first. -/
def littleEndian (n x : Nat) : List Byte := (List.range n).map fun i => .ofNat 8 (x / 256 ^ i)
/-- A trap frame (R314). -/
def frame (resume pc addr : DWord) (code : Nat) (exc : Exc) (arg : Word) (wid : Nat) : List Byte :=
  littleEndian 8 resume.toNat ++ littleEndian 8 pc.toNat ++ littleEndian 8 addr.toNat
  ++ littleEndian 4 (code + 256 * exc.toNat) ++ littleEndian 4 arg.toNat ++ littleEndian 8 wid ++ List.replicate 24 0
/-- The group has a trap routine and a thread of it is not in it, its frame lies at a physical address of memory, uncached and
without poison, in no L1, no store is on its way, and no request is for its block. -/
def FrameReady (s : State) (h : Here) (l : Fin 32) (x : Xl) : Prop :=
  h.g.tra ≠ 0 ∧ h.b.threads[l].inTrap = false ∧ h.g.halted = none
  ∧ s.xlate h.g.core h.l.ctx (h.g.tfb.toNat + 64 * (32 * s.cur.bunch + l.val)) .store = (s, .ok x)
  ∧ h.g.tfb.toNat + 64 * (32 * s.cur.bunch + l.val) < 2 ^ 64
  ∧ Pte.coh x.pte = .uc ∧ s.Plain (Pte.key x.pte) x.pa 64 ∧ s.NotInL1 (x.pa / 512) ∧ s.poison = [] ∧ s.stores = [] ∧ s.csmNet = []
  ∧ s.Unlocked (x.pa / 512) ∧ ∀ r ∈ s.reqs, r.blk ≠ x.pa / 512
/-- A thread enters the trap routine (R315): frame written, counter at TRA, in-trap bit 1. -/
def entered (s : State) (h : Here) (l : Fin 32) (x : Xl) (bs : List Byte) : State :=
  { s with mem := Memory.writeN s.mem x.pa bs }.modThread h.g.gid s.cur.bunch l fun t =>
    { t with pc := h.g.tra, await := .none, heldAt := none, inTrap := true }

/-! ## Ports, by R54, R96 and R141 -/

def isCorePort (p : Port) : Prop := p = .n ∨ p = .s ∨ p = .e ∨ p = .w
/-- A thread arms a port (R141): an armed port and kind that are the same keep a pending PRT. -/
def armed (p : Port) (k : PortWait) (t : Thread) : Thread :=
  if t.armedPort = some (Port.idx p, k) then t
  else { t with armedPort := some (Port.idx p, k), pend := t.pend &&& 0xF7 }
def withPort (t : Thread) (p : Port) (q : PortQ) : Thread := { t with ports := t.ports.set (Port.idx p).val q }

/-! ## Lane-private areas, by R92, R93, R131 and R148 -/

/-- The value of bytes, lowest first. -/
def valueOf : List Byte → Nat
  | [] => 0
  | b :: bs => b.toNat + 256 * valueOf bs
/-- First byte of a thread's lane-private slice, and the bytes of its program part (R148). -/
def threadSlice (h : Here) (bi : Nat) (l : Fin 32) : Nat := h.l.hdr.lpb + (h.g.num * h.l.hdr.t + (32 * bi + l.val)) * h.l.hdr.lps
def programBytes (h : Here) : Nat := h.l.hdr.lps - 256 - 32 * h.l.hdr.g
/-- The slot of a register, and a place of the return spill area (R93, R148). -/
def slotOf (h : Here) (bi : Nat) (l : Fin 32) (r : Reg) : Nat := threadSlice h bi l + h.l.hdr.lps - 256 + 4 * r.val
def returnPlace (h : Here) (bi : Nat) (l : Fin 32) (k : Nat) : Nat := threadSlice h bi l + programBytes h + 8 * k
/-- An address on a mapped uncached page under the null key: the access goes straight to the home point, which no L1 hides
and where no request is before it. -/
def Straight (s : State) (h : Here) (va : Nat) (n : Need) (x : Xl) : Prop :=
  s.Mapped h.g.core h.l.ctx va n x ∧ Pte.coh x.pte = .uc ∧ s.keyOf (Pte.key x.pte) = 0 ∧ windowOf x.pa ≠ .device
  ∧ s.NotInL1 (x.pa / 512) ∧ s.block? h.g.core (s.asidOf h.l.ctx) va = none
  ∧ s.Unlocked (x.pa / 512) ∧ ∀ r ∈ s.reqs, r.blk ≠ x.pa / 512
/-- Memory after some items have been written at their places, in order. -/
def putAll {α : Type} (m : List Host.Cell) (place : α → Nat) (bs : α → List Byte) (l : List α) : List Host.Cell :=
  l.foldl (fun m i => Memory.writeN m (place i) (bs i)) m
/-- What lies in memory at a physical address. -/
def wordAt (m : List Host.Cell) (a : Nat) : Word := .ofNat 32 (valueOf (Memory.readN m a 4))
def dwordAt (m : List Host.Cell) (a : Nat) : DWord := .ofNat 64 (valueOf (Memory.readN m a 8))

end Sys2Proof.Claims

open Sys2Proof Sys2Proof.Machine Sys2Proof.Claims

/-- R104, in full: register forms of 32 bits and of pairs, immediate forms, the immediate sign-extended for pairs, and MOV.
Saturation and every other form raise no flag but STALE, and no operand makes a form fault. -/
def Obligations.IntegerBinaryResults : Prop :=
  (∀ p ∈ binary32, ∀ s h d a b, s.LaneReady h (opsRRR d a b 1 1 1) noReads →
    LaneDone (p.1 d a b) s h h.b (opsRRR d a b 1 1 1) noReads noExc fun l => [p.2 (srcWord a h.b l) (srcWord b h.b l)])
  ∧ (∀ p ∈ immediate32, ∀ s h d a imm, s.LaneReady h (opsRR d a 1 1) noReads →
    LaneDone (p.1 d a imm) s h h.b (opsRR d a 1 1) noReads noExc fun l => [p.2 (srcWord a h.b l) imm])
  ∧ (∀ p ∈ binary64, ∀ s h d a b, s.LaneReady h (opsRRR d a b 2 2 2) noReads →
    LaneDone (p.1 d a b) s h h.b (opsRRR d a b 2 2 2) noReads noExc fun l =>
      [lowWord (p.2 (srcPair a h.b l) (srcPair b h.b l)), highWord (p.2 (srcPair a h.b l) (srcPair b h.b l))])
  ∧ (∀ s h d a imm, s.LaneReady h (opsRR d a 2 2) noReads →
    LaneDone (.addN64Imm d a imm) s h h.b (opsRR d a 2 2) noReads noExc fun l =>
      let x := BitVec.ofInt 64 ((srcPair a h.b l).toNat + imm.toInt)
      [lowWord x, highWord x])
  ∧ (∀ s h d imm, s.LaneReady h (opsD [d]) noReads →
    LaneDone (.movN32Imm d imm) s h h.b (opsD [d]) noReads noExc fun _ => [imm])

/-- R105: the shifts by registers and immediates, whose counts may reach or pass the width, and SHADD. -/
def Obligations.ShiftResults : Prop :=
  (∀ p ∈ shifts32, ∀ s h d a b, s.LaneReady h (opsRRR d a b 1 1 1) noReads →
    LaneDone (p.1 d a b) s h h.b (opsRRR d a b 1 1 1) noReads noExc fun l => [p.2 (srcWord a h.b l) (srcWord b h.b l)])
  ∧ (∀ p ∈ shiftsImmediate32, ∀ s h d a imm, s.LaneReady h (opsRR d a 1 1) noReads →
    LaneDone (p.1 d a imm) s h h.b (opsRR d a 1 1) noReads noExc fun l => [p.2 (srcWord a h.b l) imm])
  ∧ (∀ p ∈ shifts64, ∀ s h d a b, s.LaneReady h (opsRRR d a b 2 2 1) noReads →
    LaneDone (p.1 d a b) s h h.b (opsRRR d a b 2 2 1) noReads noExc fun l =>
      [lowWord (p.2 (srcPair a h.b l) (srcWord b h.b l)), highWord (p.2 (srcPair a h.b l) (srcWord b h.b l))])
  ∧ (∀ s h d a imm, s.LaneReady h (opsRR d a 2 2) noReads →
    LaneDone (.shlN64Imm d a imm) s h h.b (opsRR d a 2 2) noReads noExc fun l =>
      let x := BitVec.ofNat 64 (shiftLeft 64 (srcPair a h.b l).toNat imm.toNat)
      [lowWord x, highWord x])

/-- R106: the bit-field forms; BFI reads its destination as a source that carries no last-use mark. -/
def Obligations.BitFieldResults : Prop :=
  (∀ p ∈ extracts, ∀ s h d a b, s.LaneReady h (opsRRR d a b 1 1 1) noReads →
    LaneDone (p.1 d a b) s h h.b (opsRRR d a b 1 1 1) noReads noExc fun l => [p.2 (srcWord a h.b l) (srcWord b h.b l)])
  ∧ (∀ s h d a b, s.LaneReady h (opsFma d a b) noReads →
    LaneDone (.bfiN32 d a b) s h h.b (opsFma d a b) noReads noExc fun l =>
      [insert (h.b.val d l) (srcWord a h.b l) (srcWord b h.b l)])

/-- R107, R103, and of R116 CVT.i32.i4: the unary integer forms and moves; MOVU copies a scalar register or pair, as it stands
at issue, into every executing lane. -/
def Obligations.UnaryAndUniformResults : Prop :=
  ((∀ p ∈ unary32, ∀ s h d a, s.LaneReady h (opsRR d a 1 1) noReads →
    LaneDone (p.1 d a) s h h.b (opsRR d a 1 1) noReads noExc fun l => [p.2 (srcWord a h.b l)])
  ∧ (∀ p ∈ unary64, ∀ s h d a, s.LaneReady h (opsRR d a 2 2) noReads →
    LaneDone (p.1 d a) s h h.b (opsRR d a 2 2) noReads noExc fun l =>
      [lowWord (p.2 (srcPair a h.b l)), highWord (p.2 (srcPair a h.b l))]))
  ∧ ((∀ s h d a, s.LaneReady h (opsD [d]) noReads →
    LaneDone (.movuN32 d a) s h h.b (opsD [d]) noReads noExc fun _ => [h.b.sregs[a]])
  ∧ (∀ s h d a, s.LaneReady h (opsD [d, regNext d 1]) noReads →
    LaneDone (.movuN64 d a) s h h.b (opsD [d, regNext d 1]) noReads noExc fun _ => [h.b.sregs[a], h.b.sregs[regNext a 1]]))

/-- R111, R112: the float forms of two operands, exact and rounded once, and their flags; FMAD reads its destination as the
addend and rounds once; no enabled exception is raised. -/
def Obligations.FloatResults : Prop :=
  ((∀ p ∈ float32, ∀ s h d a b, s.LaneReady h (opsRRR d a b 1 1 1) noReads →
    let r := fun l => p.2 (modeOf h l) (srcWord a h.b l) (srcWord b h.b l)
    s.NoFpx h (fun l => (r l).exc) →
    LaneDone (p.1 d a b) s h h.b (opsRRR d a b 1 1 1) noReads (fun l => (r l).exc) fun l => [.ofNat 32 (r l).code])
  ∧ (∀ p ∈ floatImmediate32, ∀ s h d a imm, s.LaneReady h (opsRR d a 1 1) noReads →
    let r := fun l => p.2 (modeOf h l) (srcWord a h.b l) imm
    s.NoFpx h (fun l => (r l).exc) →
    LaneDone (p.1 d a imm) s h h.b (opsRR d a 1 1) noReads (fun l => (r l).exc) fun l => [.ofNat 32 (r l).code])
  ∧ (∀ p ∈ float16, ∀ s h d a b, s.LaneReady h (opsRRR d a b 1 1 1) noReads →
    let r := fun l => packed (p.2 (modeOf h l) (low (srcWord a h.b l)) (low (srcWord b h.b l)))
      (p.2 (modeOf h l) (high (srcWord a h.b l)) (high (srcWord b h.b l)))
    s.NoFpx h (fun l => (r l).exc) →
    LaneDone (p.1 d a b) s h h.b (opsRRR d a b 1 1 1) noReads (fun l => (r l).exc) fun l => [.ofNat 32 (r l).code]))
  ∧ (∀ p ∈ fusedForms, ∀ s h d a b, s.LaneReady h (opsFma d a b) noReads →
    let r := fun l => p.2 (modeOf h l) (h.b.val d l) (srcWord a h.b l) (srcWord b h.b l)
    s.NoFpx h (fun l => (r l).exc) →
    LaneDone (p.1 d a b) s h h.b (opsFma d a b) noReads (fun l => (r l).exc) fun l => [.ofNat 32 (r l).code])

/-- R113: the one-source float forms; the sign forms keep every other bit and raise nothing. -/
def Obligations.FloatUnaryResults : Prop :=
  (∀ p ∈ signForms, ∀ s h d a, s.LaneReady h (opsRR d a 1 1) noReads →
    LaneDone (p.1 d a) s h h.b (opsRR d a 1 1) noReads noExc fun l => [p.2 (srcWord a h.b l)])
  ∧ (∀ p ∈ floatUnary, ∀ s h d a, s.LaneReady h (opsRR d a 1 1) noReads →
    let r := fun l => p.2 (modeOf h l) (srcWord a h.b l)
    s.NoFpx h (fun l => (r l).exc) →
    LaneDone (p.1 d a) s h h.b (opsRR d a 1 1) noReads (fun l => (r l).exc) fun l => [.ofNat 32 (r l).code])

/-- R115, R116: the conversions, under FMODE.RM and FMODE.NARROW, with SAT where a form has it. -/
def Obligations.ConversionResults : Prop :=
  (∀ p ∈ satConversions, ∀ s h d a sat, s.LaneReady h (opsRR d a 1 1) noReads →
    let r := fun l => p.2 (modeOf h l) (readingAt h l) sat (srcWord a h.b l)
    s.NoFpx h (fun l => (r l).exc) →
    LaneDone (p.1 d a sat) s h h.b (opsRR d a 1 1) noReads (fun l => (r l).exc) fun l => [.ofNat 32 (r l).code])
  ∧ (∀ p ∈ conversions, ∀ s h d a, s.LaneReady h (opsRR d a 1 1) noReads →
    let r := fun l => p.2 (modeOf h l) (readingAt h l) (srcWord a h.b l)
    s.NoFpx h (fun l => (r l).exc) →
    LaneDone (p.1 d a) s h h.b (opsRR d a 1 1) noReads (fun l => (r l).exc) fun l => [.ofNat 32 (r l).code])
  ∧ (∀ p ∈ integerNarrowing, ∀ s h d a sat, s.LaneReady h (opsRR d a 1 1) noReads →
    LaneDone (p.1 d a sat) s h h.b (opsRR d a 1 1) noReads noExc fun l => [p.2 sat (srcWord a h.b l)])

/-- R117: the compares write the executing lanes' bits of a mask register and leave the other bits; CMP.f32 compares values
(+0 equals -0), is false of a NaN but for ne and un, and raises NV for a signalling NaN alone. -/
def Obligations.CompareResults : Prop :=
  ((∀ s h c m a b, s.LaneReady h { reads := srcReads a 1 ++ srcReads b 1, dests := [] } noReads →
    ∀ f : Fin 32 → Bool, (∀ l, f l = true ↔ compareSigned c (srcWord a h.b l) (srcWord b h.b l)) →
    LaneDone (.cmpI32 c m a b) s h (h.b.withMask m s.cur.exec f) { reads := srcReads a 1 ++ srcReads b 1, dests := [] }
      noReads noExc fun _ => [])
  ∧ (∀ s h c m a b, s.LaneReady h { reads := srcReads a 1 ++ srcReads b 1, dests := [] } noReads →
    ∀ f : Fin 32 → Bool, (∀ l, f l = true ↔ compareUnsigned c (srcWord a h.b l) (srcWord b h.b l)) →
    LaneDone (.cmpN32 c m a b) s h (h.b.withMask m s.cur.exec f) { reads := srcReads a 1 ++ srcReads b 1, dests := [] }
      noReads noExc fun _ => [])
  ∧ (∀ s h c m a imm, s.LaneReady h { reads := srcReads a 1, dests := [] } noReads →
    ∀ f : Fin 32 → Bool, (∀ l, f l = true ↔ compareSigned c (srcWord a h.b l) imm) →
    LaneDone (.cmpI32Imm c m a imm) s h (h.b.withMask m s.cur.exec f) { reads := srcReads a 1, dests := [] }
      noReads noExc fun _ => []))
  ∧ (∀ s h c m a b, s.LaneReady h { reads := srcReads a 1 ++ srcReads b 1, dests := [] } noReads →
    let x := fun l => fp32.read (srcWord a h.b l).toNat
    let y := fun l => fp32.read (srcWord b h.b l).toNat
    let exc := fun l => if (x l).isSig || (y l).isSig then Exc.nv else 0
    s.NoFpx h exc →
    ∀ f : Fin 32 → Bool, (∀ l, f l = true ↔
      let nan := (x l).isNan = true ∨ (y l).isNan = true
      match c with
      | .eq => ¬ nan ∧ cmpVal (x l) (y l) = 0
      | .ne => nan ∨ cmpVal (x l) (y l) ≠ 0
      | .lt => ¬ nan ∧ cmpVal (x l) (y l) < 0
      | .le => ¬ nan ∧ cmpVal (x l) (y l) ≤ 0
      | .gt => ¬ nan ∧ 0 < cmpVal (x l) (y l)
      | .ge => ¬ nan ∧ 0 ≤ cmpVal (x l) (y l)
      | .un => nan
      | .ord => ¬ nan) →
    LaneDone (.cmpF32 c m a b) s h (h.b.withMask m s.cur.exec f) { reads := srcReads a 1 ++ srcReads b 1, dests := [] }
      noReads exc fun _ => [])

/-- R118 and R119: SEL by m0, the mask forms, MSET, MGET (of every lane the group has) and BALLOT (of the members). -/
def Obligations.MaskFormResults : Prop :=
  (∀ s h d a b, s.LaneReady h (opsRRR d a b 1 1 1) noReads →
    LaneDone (.selN32 d a b) s h h.b (opsRRR d a b 1 1 1) noReads noExc fun l =>
      [if h.b.masks[(0 : Fin 8)].getLsbD l.val then srcWord a h.b l else srcWord b h.b l])
  ∧ (∀ p ∈ maskForms, ∀ s h d a b, s.LaneReady h { reads := [], dests := [] } noReads →
    LaneDone (p.1 d a b) s h
      (h.b.withMask d s.cur.exec fun l => p.2 (h.b.masks[a].getLsbD l.val) (h.b.masks[b].getLsbD l.val))
      { reads := [], dests := [] } noReads noExc fun _ => [])
  ∧ (∀ s h m a, s.LaneReady h { reads := srcReads a 1, dests := [] } noReads →
    LaneDone (.mset m a) s h (h.b.withMask m s.cur.exec fun l => decide (srcWord a h.b l ≠ 0))
      { reads := srcReads a 1, dests := [] } noReads noExc fun _ => [])
  ∧ (∀ s h d m, s.LaneReady h (opsD [d]) noReads →
    LaneDone (.mget d m) s h h.b (opsD [d]) noReads noExc fun _ =>
      [bits fun i => if hi : i < 32 then h.b.masks[m].getLsbD i && h.b.threads[i].present else false])
  ∧ (∀ s h d m, s.LaneReady h (opsD [d]) noReads →
    LaneDone (.ballot d m) s h h.b (opsD [d]) noReads noExc fun _ =>
      [bits fun i => h.b.masks[m].getLsbD i && s.cur.exec.getLsbD i])

/-- R120 to R122: a shuffle reads the copy of a member, and 0 of any other lane; MATCH and RDADD read every member. -/
def Obligations.ShuffleResults : Prop :=
  (∀ p ∈ shuffles, ∀ s h d a k,
    let rs := fun l => shuffleRead s.cur.exec a.reg (p.2 l k)
    s.LaneReady h (opsShuffle d a []) rs →
    LaneDone (p.1 d a k) s h h.b (opsShuffle d a []) rs noExc fun l => [shuffleValue s.cur.exec h.b a.reg (p.2 l k)])
  ∧ (∀ s h d a b,
    let j := fun l => ((srcWord b h.b l).toNat : Int) % 32
    let rs := fun l => shuffleRead s.cur.exec a.reg (j l)
    s.LaneReady h (opsShuffle d a (srcReads b 1)) rs →
    LaneDone (.shfl d a b) s h h.b (opsShuffle d a (srcReads b 1)) rs noExc fun l => [shuffleValue s.cur.exec h.b a.reg (j l)])
  ∧ (∀ s h d a, s.LaneReady h (opsShuffle d a []) (fun _ => everyMember s.cur.exec a.reg) →
    LaneDone (.match d a) s h h.b (opsShuffle d a []) (fun _ => everyMember s.cur.exec a.reg) noExc fun l =>
      [laneSet fun i => s.cur.exec.getLsbD i.val && decide (h.b.val a.reg i = h.b.val a.reg l)])
  ∧ (∀ s h d a, s.LaneReady h (opsShuffle d a []) (fun _ => everyMember s.cur.exec a.reg) →
    LaneDone (.rdaddN32 d a) s h h.b (opsShuffle d a []) (fun _ => everyMember s.cur.exec a.reg) noExc fun _ =>
      [.ofNat 32 ((lanesOf s.cur.exec).map fun i => (h.b.val a.reg i).toNat).sum])

/-- R123, R126 to R128: a lane GETS reads the register of each executing lane's thread, bunch, group or core; of CYC it
also latches. A bunch GETS reads that of the run's lowest lane. Two clauses are the model's choice: that a bunch GETS of CYC
latches in every thread of the run (log 36), and what PSTAT counts of instructions still in flight (log 35). -/
def Obligations.SystemRegisterReads : Prop :=
  (∀ s h d r, s.LaneReady h (opsD [d]) noReads →
    LaneDone (.gets d r) s h (latching s r s.cur.exec h.b) (opsD [d]) noReads noExc fun l => [sysValue s h l r])
  ∧ (∀ s h d r l, s.here? = some h → (lanesOf s.cur.run).head? = some l →
    BunchDone (.getsBunch d r) s h (latching s r s.cur.run (scalarWritten h.b d (sysValue s h l r))) s.cur.next)

/-- R124, R125, R128: a lane SETS of FMODE writes each executing thread's, one of GS or PSPILL takes the highest executing
lane's value; a flag raised in the same cycle stays set (R110). A bunch SETS writes for every thread of the run. A value
with a reserved bit is written by no form: each lane with such a value takes BADSYS and writes nothing, and so does every
thread of the run of a bunch SETS. -/
def Obligations.SystemRegisterWrites : Prop :=
  (∀ s h a, s.LaneReady h { reads := srcReads a 1, dests := [] } noReads →
    (∀ l : Fin 32, s.cur.exec.getLsbD l.val = true → writable .fmode (srcWord a h.b l)) →
    LaneDone (.sets .fmode a) s h (changeLanes h.b s.cur.exec fun l t => { t with fmode := srcWord a h.b l })
      { reads := srcReads a 1, dests := [] } noReads noExc fun _ => [])
  ∧ (∀ s h a l, s.LaneReady h { reads := srcReads a 1, dests := [] } noReads → (lanesOf s.cur.exec).getLast? = some l →
    LaneDone (.sets .pspill a) s h { h.b with pspill := srcWord a h.b l } { reads := srcReads a 1, dests := [] } noReads noExc
      fun _ => [])
  ∧ (∀ s h a l, s.LaneReady h { reads := srcReads a 1, dests := [] } noReads → (lanesOf s.cur.exec).getLast? = some l →
    (∀ l : Fin 32, s.cur.exec.getLsbD l.val = true → writable .gs (srcWord a h.b l)) →
    ∃ b', exec (.sets .gs a) s = .next (((s.putBunch h.g.gid s.cur.bunch b').modGroup h.g.gid fun g =>
        { g with gs := srcWord a h.b l ||| g.gsNow }).setGs h.g.gid (s.gsBits h (fun _ => srcReads a 1) noExc))
      ∧ h.b.After h.b b' s.cur.exec s.cur.run s.cur.exec (fun _ => s.cur.next)
          (if a.last then [a.reg] else []) [] fun _ => [])
  ∧ (∀ s h a (good : Lanes), s.LaneReady h { reads := srcReads a 1, dests := [] } noReads →
    (∀ l : Fin 32, good.getLsbD l.val = true ↔ s.cur.exec.getLsbD l.val = true ∧ writable .fmode (srcWord a h.b l)) →
    ∃ b', exec (.sets .fmode a) s = .next (((s.putBunch h.g.gid s.cur.bunch b').setGs h.g.gid
        (s.gsBits h (fun _ => srcReads a 1) noExc)).deliver h.g.gid s.cur.bunch s.cur.pc
          ((lanesOf (s.cur.exec &&& ~~~ good)).map fun l => { lane := l, code := 0x08 }))
      ∧ h.b.After (changeLanes h.b good fun l t => { t with fmode := srcWord a h.b l }) b' good (good ||| s.gated) good
          (fun _ => s.cur.next) (if a.last then [a.reg] else []) [] fun _ => [])
  ∧ (∀ s h a, s.LaneReady h { reads := srcReads a 1, dests := [] } noReads →
    (∀ l : Fin 32, s.cur.exec.getLsbD l.val = true → ¬ writable .gs (srcWord a h.b l)) →
    ∃ b', exec (.sets .gs a) s = .next (((s.putBunch h.g.gid s.cur.bunch b').setGs h.g.gid
        (s.gsBits h (fun _ => srcReads a 1) noExc)).deliver h.g.gid s.cur.bunch s.cur.pc
          ((lanesOf s.cur.exec).map fun l => { lane := l, code := 0x08 }))
      ∧ h.b.After h.b b' 0 s.gated 0 (fun _ => s.cur.next) [] [] fun _ => [])
  ∧ (∀ s h a, s.here? = some h → writable .fmode h.b.sregs[a] →
    BunchDone (.setsBunch .fmode a) s h (changeLanes h.b s.cur.run fun _ t => { t with fmode := h.b.sregs[a] }) s.cur.next)
  ∧ (∀ s h a, s.here? = some h → s.cur.run ≠ 0 →
    BunchDone (.setsBunch .pspill a) s h { h.b with pspill := h.b.sregs[a] } s.cur.next)
  ∧ (∀ s h a, s.here? = some h → s.cur.run ≠ (0 : Lanes) → writable .gs h.b.sregs[a] →
    exec (.setsBunch .gs a) s = .next ((s.putBunch h.g.gid s.cur.bunch (h.b.jumpLanes s.cur.run fun _ => s.cur.next)).modGroup
      h.g.gid fun g => { g with gs := h.b.sregs[a] ||| g.gsNow }))
  ∧ (∀ s h r a, s.here? = some h → r = .gs ∨ r = .fmode → ¬ writable r h.b.sregs[a] →
    exec (.setsBunch r a) s = .next (s.bunchFault h Code.badSys 0))

/-- R136, R137: the register and immediate forms of the bunch set, MOV and NOP act once for the run and move all its threads on; BZ
and BNZ send every thread of the run to the target, or to the next instruction; the rules' words, the second three words past its
target, stand for their instructions. -/
def Obligations.ScalarResults : Prop :=
  (∀ p ∈ scalarForms, ∀ s h d a b, s.here? = some h →
    BunchDone (p.1 d a b) s h (scalarWritten h.b d (p.2 h.b.sregs[a] h.b.sregs[b])) s.cur.next)
  ∧ (∀ p ∈ scalarImmediates, ∀ s h d a imm, s.here? = some h →
    BunchDone (p.1 d a imm) s h (scalarWritten h.b d (p.2 h.b.sregs[a] imm)) s.cur.next)
  ∧ (∀ p ∈ scalarPairForms, ∀ s h d a b, s.here? = some h →
    BunchDone (p.1 d a b) s h (pairWritten h.b d (p.2 (scalarPair h.b a) (scalarPair h.b b))) s.cur.next)
  ∧ (∀ s h d a imm, s.here? = some h →
    BunchDone (.addN64BunchImm d a imm) s h
      (pairWritten h.b d (.ofInt 64 ((scalarPair h.b a).toNat + imm.toInt))) s.cur.next)
  ∧ (∀ s h d imm, s.here? = some h → BunchDone (.movN32Bunch d imm) s h (scalarWritten h.b d imm) s.cur.next)
  ∧ (∀ s h, s.here? = some h → BunchDone .nop s h h.b s.cur.next)
  ∧ ∃ n, Sys2Proof.decode [0x9A100801] = .ok ⟨none, .addN32BunchImm 4 4 1, n, 1⟩
  ∧ (∀ s h a imm, s.here? = some h →
    BunchDone (.bz a imm) s h h.b (if h.b.sregs[a] = 0 then targetOf s.cur.word imm.toInt else s.cur.next)
    ∧ BunchDone (.bnz a imm) s h h.b (if h.b.sregs[a] = 0 then s.cur.next else targetOf s.cur.word imm.toInt))
  ∧ ∃ n, Sys2Proof.decode [0x860013FD] = .ok ⟨none, .bz 9 (-3), n, 1⟩

/-- R138: RDLANE reads a member's copy, or 0 where the lane is no thread of the run; a released copy reads 0 and sets
GS.STALE. No register changes but sd, and of va the record of its last access. A spilled source is refilled first: every
living copy comes back from its slot into an entry, and PSPILL counts it (R92, R93, R95). An allocation that finds no free entry,
here that of a partial write, spills the full register whose last access is oldest, of equals the lowest: the values of all the
group's lanes go to their slots, and PSPILL counts it (R83, R90, R93). -/
def Obligations.ReadLaneResults : Prop :=
  (∀ s h d a b, s.here? = some h → s.cur.run.getLsbD (h.b.sregs[b].toNat % 32) = false →
    BunchDone (.rdlaneN32 d a b) s h (scalarWritten h.b d 0) s.cur.next)
  ∧ (∀ s h d a b l (j : Fin 32), s.here? = some h → (lanesOf s.cur.run).head? = some l → j.val = h.b.sregs[b].toNat % 32 →
    s.cur.run.getLsbD j.val = true → h.b.InCore a → h.b.isBad a j = false →
    (h.b.isLive a j = false → staleTrap h.b.threads[l].fmode = false) →
    ∃ v, (∃ n, v = { h.b.regs[a] with access := n })
      ∧ exec (.rdlaneN32 d a b) s = .next ((s.putBunch h.g.gid s.cur.bunch
          ((scalarWritten (h.b.setReg a v) d (h.b.val a j)).jumpLanes s.cur.run fun _ => s.cur.next)).setGs h.g.gid
            (if h.b.isLive a j then 0 else gsStale)))
  ∧ (∀ s h d a b (j : Fin 32) (x : Fin 32 → Xl), s.here? = some h → j.val = h.b.sregs[b].toNat % 32 →
    s.cur.run.getLsbD j.val = true → h.b.flights = [] → h.b.away = 0 → h.b.regs[a].rep = .spilled → h.b.isLive a j = true →
    h.b.full + 1 ≤ Config.vectorFloor + (s.roomFor h.g.core h.g.gid s.cur.bunch).shared → s.NullKeyed → s.poison = [] →
    (∀ l : Fin 32, h.b.isLive a l = true → Straight s h (slotOf h s.cur.bunch l a) .load (x l)) →
    ∃ sl hb n, exec (.rdlaneN32 d a b) s = .next ((s.putBunch h.g.gid s.cur.bunch
      ((scalarWritten { h.b.setReg a ⟨h.b.regs[a].live,
          .full (Vector.ofFn fun l : Fin 32 => if h.b.isLive a l then wordAt s.mem (x l).pa else 0), 0, n⟩ with
          pspill := (h.b.pspill &&& 0xFFFF0000) ||| (h.b.pspill + 1) % 0x10000 } d (wordAt s.mem (x j).pa)).jumpLanes s.cur.run
        fun _ => s.cur.next)).recached sl hb))
  ∧ ∀ s h d imm v vals (x : Fin 32 → Xl), s.here? = some h → s.cur.exec ≠ 0 →
    (∃ l : Fin 32, h.b.threads[l].live = true ∧ s.cur.exec.getLsbD l.val = false) → h.b.flights = [] →
    h.b.regs[d].rep = .released → h.b.regs[d].live = 0 → Config.vectorFloor ≤ h.b.full →
    (s.roomFor h.g.core h.g.gid s.cur.bunch).shared ≤ h.b.full - Config.vectorFloor →
    h.b.regs[v].rep = .full vals → h.b.regs[v].bad = 0 →
    (∀ r : Reg, h.b.regs[r].rep.isFull = true → h.b.regs[v].access < h.b.regs[r].access
      ∨ h.b.regs[v].access = h.b.regs[r].access ∧ v ≤ r) → s.NullKeyed → s.poison = [] →
    (∀ l : Fin 32, h.b.threads[l].present = true → Straight s h (slotOf h s.cur.bunch l v) .store (x l)) →
    ∃ sl hb n, exec (.movN32Imm d imm) s = .next (({ s with
        mem := putAll s.mem (fun l => (x l).pa) (fun l : Fin 32 => littleEndian 4 vals[l].toNat)
          ((List.finRange 32).filter fun l => h.b.threads[l].present) }.putBunch h.g.gid s.cur.bunch
      ({ (h.b.setReg v { h.b.regs[v] with rep := .spilled }).setReg d ⟨s.cur.exec,
            .full (Vector.ofFn fun l : Fin 32 => if s.cur.exec.getLsbD l.val then imm else 0), 0, n⟩ with
          pspill := h.b.pspill + 0x10000 }.jumpLanes (s.cur.exec ||| s.cur.run) fun _ => s.cur.next)).recached sl hb)

/-- R129 to R132: BRA, BRX through a well-formed table whose words translate at once, CALL and CALLX with room on the
thread's stack, and RET from it: each executing lane goes its own way, and a lane gated off falls through. A call with a full
stack and room in the return spill area sends the four oldest entries there, and a return from an empty stack fetches the group
spilled last. With no room the call takes RETOVER, with nothing spilled the return takes RETEMPTY, and an index past the
table takes BRXRANGE, in each executing lane. -/
def Obligations.BranchesAndCalls : Prop :=
  (∀ s h l, s.LaneReady h (opsD []) noReads →
    LaneActs (.bra l) s s h h.b (opsD []) 0 (fun _ => targetOf s.cur.word l.toInt) fun _ => [])
  ∧ (∀ s h a imm n (e : Fin 32 → Word), s.LaneReady h { reads := srcReads a 1, dests := [] } noReads →
    let t := targetOf s.cur.word imm.toInt
    n < 1024 → s.fetchWord h.g.core h.l.ctx t = (s, .ok (.ofNat 32 (2 ^ 14 * n))) →
    (∀ k : Fin 32, s.cur.exec.getLsbD k.val = true → (srcWord a h.b k).toNat ≤ n ∧ (e k).toNat < 2 ^ 24
      ∧ s.fetchWord h.g.core h.l.ctx (targetOf t (2 + (srcWord a h.b k).toNat)) = (s, .ok (e k))) →
    LaneActs (.brx a imm) s s h h.b { reads := srcReads a 1, dests := [] } 0
      (fun k => targetOf t ((e k).setWidth 24).toInt) fun _ => [])
  ∧ (∀ s h l, s.LaneReady h (opsD []) noReads →
    (∀ k : Fin 32, s.cur.exec.getLsbD k.val = true → h.b.threads[k].ret.length < 8) →
    LaneActs (.call l) s s h (changeLanes h.b s.cur.exec fun _ t => { t with ret := t.ret ++ [s.cur.next] }) (opsD []) 0
      (fun _ => targetOf s.cur.word l.toInt) fun _ => [])
  ∧ (∀ s h a, s.LaneReady h { reads := srcReads a 2, dests := [] } noReads →
    (∀ k : Fin 32, s.cur.exec.getLsbD k.val = true → h.b.threads[k].ret.length < 8 ∧ (srcPair a h.b k).toNat % 4 = 0) →
    LaneActs (.callx a) s s h (changeLanes h.b s.cur.exec fun _ t => { t with ret := t.ret ++ [s.cur.next] })
      { reads := srcReads a 2, dests := [] } 0 (fun k => srcPair a h.b k) fun _ => [])
  ∧ (∀ s h (e : Fin 32 → DWord), s.LaneReady h (opsD []) noReads →
    (∀ k : Fin 32, s.cur.exec.getLsbD k.val = true → h.b.threads[k].ret.getLast? = some (e k)) →
    LaneActs .ret s s h (changeLanes h.b s.cur.exec fun _ t => { t with ret := t.ret.dropLast }) (opsD []) 0 e fun _ => [])
  ∧ (∀ s h l k (x : Fin 4 → Xl), s.LaneReady h (opsD []) noReads → s.cur.exec = laneBit k →
    h.b.threads[k].ret.length = 8 → h.b.threads[k].spilled < h.l.hdr.g → s.NullKeyed → s.poison = [] →
    (∀ i : Fin 4, Straight s h (returnPlace h s.cur.bunch k (4 * h.b.threads[k].spilled + i.val)) .store (x i)) →
    ∃ sl hb, LaneActs (.call l) s ({ s with
        mem := putAll s.mem (fun i => (x i).pa) (fun i : Fin 4 => littleEndian 8 (h.b.threads[k].ret.getD i.val 0).toNat)
          (List.finRange 4) }.recached sl hb) h
      (changeLanes h.b s.cur.exec fun _ t => { t with ret := t.ret.drop 4 ++ [s.cur.next], spilled := t.spilled + 1 }) (opsD []) 0
      (fun _ => targetOf s.cur.word l.toInt) fun _ => [])
  ∧ (∀ s h k n (x : Fin 4 → Xl), s.LaneReady h (opsD []) noReads → s.cur.exec = laneBit k →
    h.b.threads[k].ret = [] → h.b.threads[k].spilled = n + 1 → s.NullKeyed → s.poison = [] →
    (∀ i : Fin 4, Straight s h (returnPlace h s.cur.bunch k (4 * n + i.val)) .load (x i)) →
    ∃ sl hb, LaneActs .ret s (s.recached sl hb) h
      (changeLanes h.b s.cur.exec fun _ t =>
        { t with ret := [dwordAt s.mem (x 0).pa, dwordAt s.mem (x 1).pa, dwordAt s.mem (x 2).pa], spilled := n }) (opsD []) 0
      (fun _ => dwordAt s.mem (x 3).pa) fun _ => [])
  ∧ (∀ s h l, s.LaneReady h (opsD []) noReads →
    (∀ k : Fin 32, s.cur.exec.getLsbD k.val = true → h.b.threads[k].ret.length = 8 ∧ h.b.threads[k].spilled = h.l.hdr.g) →
    exec (.call l) s = .next ((s.putBunch h.g.gid s.cur.bunch (h.b.jumpLanes s.gated fun _ => s.cur.next)).deliver h.g.gid
      s.cur.bunch s.cur.pc ((lanesOf s.cur.exec).map fun l => { lane := l, code := 0x05 })))
  ∧ (∀ s h, s.LaneReady h (opsD []) noReads →
    (∀ k : Fin 32, s.cur.exec.getLsbD k.val = true → h.b.threads[k].ret = [] ∧ h.b.threads[k].spilled = 0) →
    exec .ret s = .next ((s.putBunch h.g.gid s.cur.bunch (h.b.jumpLanes s.gated fun _ => s.cur.next)).deliver h.g.gid
      s.cur.bunch s.cur.pc ((lanesOf s.cur.exec).map fun l => { lane := l, code := 0x06 })))
  ∧ ∀ s h a imm n, s.LaneReady h { reads := srcReads a 1, dests := [] } noReads → n < 1024 →
    s.fetchWord h.g.core h.l.ctx (targetOf s.cur.word imm.toInt) = (s, .ok (.ofNat 32 (2 ^ 14 * n))) →
    (∀ k : Fin 32, s.cur.exec.getLsbD k.val = true → n < (srcWord a h.b k).toNat) →
    ∃ b', exec (.brx a imm) s = .next (((s.putBunch h.g.gid s.cur.bunch b').setGs h.g.gid
        (s.gsBits h (fun _ => srcReads a 1) noExc)).deliver h.g.gid s.cur.bunch s.cur.pc
          ((lanesOf s.cur.exec).map fun l => { lane := l, code := 0x04 }))
      ∧ h.b.After h.b b' 0 s.gated 0 (fun _ => s.cur.next) [] [] fun _ => []

/-- R133, R85, R97, R58: EXIT, in a launch without tags, where another thread of the group lives on: every copy of the lanes
is released, their stacks, watches, arms, pending events and port queues are gone, and nothing else changes; with the exit of
its last thread a group that pairs with no other, uses no engine, and whose scratchpad no access is on its way to, is gone,
and its launch counts it. The address kept of the EXIT is that of the first word of its sequence: the model's choice (log 49).
-/
def Obligations.ExitResults : Prop :=
  (∀ s h, s.here? = some h → h.l.tree = [] →
    (∃ b ∈ h.g.bunches.eraseIdx s.cur.bunch, ∃ k : Fin 32, b.threads[k].live = true)
      ∨ (∃ k : Fin 32, h.b.threads[k].live = true ∧ s.cur.exec.getLsbD k.val = false) →
    ∃ b', exec .exit s = .next (s.putBunch h.g.gid s.cur.bunch b')
      ∧ b' = { h.b with regs := b'.regs, threads := b'.threads }
      ∧ (∀ r (l : Fin 32), b'.isLive r l = (h.b.isLive r l && !s.cur.exec.getLsbD l.val))
      ∧ (∀ r (l : Fin 32), s.cur.exec.getLsbD l.val = false → b'.val r l = h.b.val r l ∧ b'.isBad r l = h.b.isBad r l)
      ∧ (∀ l : Fin 32, s.cur.exec.getLsbD l.val = false → b'.threads[l] =
          if s.cur.run.getLsbD l.val then { h.b.threads[l] with pc := s.cur.next, await := .none, heldAt := none } else h.b.threads[l])
      ∧ ∀ l : Fin 32, s.cur.exec.getLsbD l.val = true →
          let t := b'.threads[l]
          t.st = .exited ∧ t.exitPc = s.cur.pc ∧ t.ret = [] ∧ t.spilled = 0 ∧ t.watch = none ∧ t.armedBar = none
          ∧ t.armedTag = none ∧ t.armedPort = none ∧ t.pend = 0 ∧ ∀ p : Fin 6, t.ports[p].entries = [])
  ∧ (∀ s h, s.here? = some h → s.GidsDiffer → h.l.tree = [] → h.g.halted = none → (∀ p : Port, s.pairAt h.g p = none) →
    (∀ b ∈ h.g.bunches, b.mx.cmds = [] ∧ b.cp.cmds = []) → s.csmBusy h.g.gid = false → (∀ g ∈ s.groups, g.left = false) →
    (∀ (i : Nat) (b : Bunch) (l : Fin 32), h.g.bunches[i]? = some b → b.threads[l].live = true →
      i = s.cur.bunch ∧ s.cur.exec.getLsbD l.val = true) →
    exec .exit s = .next ({ s with
      groups := s.groups.filter fun g => g.gid != h.g.gid
      portNet := s.portNet.filter fun m => m.gid != h.g.gid
      subs := s.subs.map fun (u : Sub) => if u.gid = h.g.gid then { u with ending := true } else u }.modLaunch h.l.id
        fun l => { l with ended := l.ended + 1 }))

/-- R314, R315 with R51, R134 and R317: a run of one executing lane takes ILLEGAL, TRAP or BKPT: its frame is written, its
counter goes to the routine, its in-trap bit is set; no register, mask or flag changes, and of memory but the frame what the
shared cache holds of it. -/
def Obligations.TrapEntry : Prop :=
  ∀ s h l x imm, s.here? = some h → (s.groups.map fun g => g.gid).Nodup → s.cur.run = laneBit l → s.cur.exec = laneBit l →
    FrameReady s h l x →
    let wid := identifier h s.cur.bunch l
    ∃ sl hb,
      exec (.trap imm) s = .next ((entered s h l x (frame s.cur.next s.cur.pc 0 0x1D 0 imm wid)).recached sl hb)
      ∧ exec .bkpt s = .next ((entered s h l x (frame s.cur.next s.cur.pc 0 0x1E 0 0 wid)).recached sl hb)
      ∧ ∀ k, exec (.illegal k) s = .next ((entered s h l x (frame s.cur.pc s.cur.pc (s.cur.pc + .ofNat 64 k) 0x01 0 0 wid)).recached sl hb)

/-! # The end of a group, traps and ports -/

namespace Sys2Proof.Claims
open Sys2Proof.Machine

/-- A thread goes back from the trap routine (R316). -/
def resumed (r : DWord) (t : Thread) : Thread :=
  { t with pc := r &&& ~~~ 3#64, await := .none, heldAt := none, inTrap := false }
/-- 32-bit words of bytes, lowest first (R191). -/
def wordsFrom (n : Nat) (bs : List Byte) : List Word := (List.range n).map fun i => .ofNat 32 (valueOf ((bs.drop (4 * i)).take 4))
/-- Its threads no longer wait for an engine (R66). -/
def looksAgain (g : Group) : Group :=
  g.mapThreads fun _ _ t => if t.await = .engine then { t with await := .none } else t

end Sys2Proof.Claims

/-- R313 and R316: SETTRAP names the group's trap registers, which hold from the next cycle on; where a value breaks its layout
nothing is written, and the run takes ALIGN, with the address 0 by the model's choice (log 44), ADDR or BADSYS. (A debug write
that faults in the next cycle clears debug control, R325.) RTT sends each thread of the run back to the RESUME of its frame,
and a run with a thread outside the routine takes BADSYS. -/
def Obligations.TrapRegistersAndReturn : Prop :=
  (∀ s h d a b, s.here? = some h →
    let tra := scalarPair h.b a
    let tfb := scalarPair h.b b
    let ctl := h.b.sregs[d]
    (tra.toNat % 4 = 0 → tfb.toNat % 64 = 0 → tra.toNat < 2 ^ 57 → tfb.toNat < 2 ^ 57 → ctl.toNat / 2 ^ 16 % 2 ^ 15 = 0 →
      exec (.settrap d a b) s = .next ((s.putBunch h.g.gid s.cur.bunch (h.b.jumpLanes s.cur.run fun _ => s.cur.next)).modGroup
        h.g.gid fun g => { g with trapNext := some (tra, tfb, ctl) }))
    ∧ (tra.toNat % 4 ≠ 0 ∨ tfb.toNat % 64 ≠ 0 → exec (.settrap d a b) s = .next (s.bunchFault h 0x07 0))
    ∧ (tra.toNat % 4 = 0 → tfb.toNat % 64 = 0 → 2 ^ 57 ≤ tra.toNat → exec (.settrap d a b) s = .next (s.bunchFault h 0x40 tra))
    ∧ (tra.toNat % 4 = 0 → tfb.toNat % 64 = 0 → tra.toNat < 2 ^ 57 → 2 ^ 57 ≤ tfb.toNat →
        exec (.settrap d a b) s = .next (s.bunchFault h 0x40 tfb))
    ∧ (tra.toNat % 4 = 0 → tfb.toNat % 64 = 0 → tra.toNat < 2 ^ 57 → tfb.toNat < 2 ^ 57 → ctl.toNat / 2 ^ 16 % 2 ^ 15 ≠ 0 →
        exec (.settrap d a b) s = .next (s.bunchFault h 0x08 0)))
  ∧ (∀ s, s.GidsDiffer → ∃ t, exec .issueCycle s = .next t ∧ t.clock = s.clock + 1
    ∧ ∀ g ∈ s.groups, g.left = false → ∀ n, g.trapNext = some n → ∃ u, t.group? g.gid = some u
        ∧ u.tra = n.1 ∧ u.tfb = n.2.1 ∧ (u.dbg = n.2.2 ∨ u.dbg = 0) ∧ u.trapNext = none)
  ∧ (∀ s h (x : Fin 32 → Xl), s.here? = some h → s.Settled → s.NullKeyed →
    (∀ l : Fin 32, s.cur.run.getLsbD l.val = true → h.b.threads[l].inTrap = true
      ∧ s.Mapped h.g.core h.l.ctx (h.g.tfb.toNat + 64 * (32 * s.cur.bunch + l.val)) .load (x l)
      ∧ Pte.coh (x l).pte = .uc ∧ s.keyOf (Pte.key (x l).pte) = 0 ∧ s.NotInL1 ((x l).pa / 512)
      ∧ s.Clean (Pte.key (x l).pte) (x l).pa 8) →
    ∃ sl hb, exec .rtt s = .next ((s.putBunch h.g.gid s.cur.bunch
      (changeLanes h.b s.cur.run fun l => resumed (.ofNat 64 (valueOf (Memory.readN s.mem (x l).pa 8))))).recached sl hb))
  ∧ ∀ s h l, s.here? = some h → s.cur.run.getLsbD l = true → (hl : l < 32) → h.b.threads[l].inTrap = false →
    exec .rtt s = .next (s.bunchFault h 0x08 0)

/-- R318, R298, R309: HALT stops the group with REASON 3; the launch's first halt withdraws the groups not yet placed and
writes a KIND 2 entry. The run's lowest lane is the origin. Stores and commands being none, none is kept; threads of the core
that wait for its engines look again (R66). -/
def Obligations.HaltStopsGroup : Prop :=
  ∀ s h l, s.here? = some h → s.GidsDiffer → (s.launches.map fun l => l.id).Nodup → h.g.halted = none → h.l.origin = none →
    s.Settled → (lanesOf s.cur.run).head? = some l →
    (∀ b ∈ h.g.bunches, b.mx.cmds = [] ∧ b.cp.cmds = []) → (∀ g ∈ s.groups, g.launch = h.l.id → g.gid = h.g.gid) →
    let ring := s.dev.elbase.toNat + 64 * (s.dev.elcount.toNat % Config.errorRing)
    windowOf ring ≠ .device → s.dev.elbase.toNat % 64 = 0 → s.NotInL1 (ring / 512) →
    let o : Origin := ⟨3, 0, 0, s.cur.pc, .ofNat 64 (identifier h s.cur.bunch l), 0, .ofNat 32 h.g.num, h.g.core, 32 * s.cur.bunch⟩
    ∃ t, exec .halt s = .next t
      ∧ t.groups = s.groups.map (fun g =>
          let u := if g.gid = h.g.gid then { g with halted := some ⟨o, s.clock, [], 0, false⟩ } else g
          if g.core = h.g.core then looksAgain u else u)
      ∧ t.launches = s.launches.map (fun l => if l.id = h.l.id then
          { l with origin := some o, withdrawn := true, waiting := [], reserved := [] } else l)
      ∧ t.dev = { s.dev with elcount := s.dev.elcount + 1 }
      ∧ t.openEntries = s.openEntries ++ [⟨s.dev.elcount.toNat, 2, h.l.id, h.g.gid, 0, 0, 0⟩]
      ∧ t.stores = s.stores ∧ t.l1 = s.l1 ∧ t.reqs = s.reqs ∧ t.clock = s.clock

namespace Sys2Proof.Claims
open Sys2Proof.Machine

/-- A pushed entry enters a thread's queue: PRT where the queue was empty and the thread is armed for an entry; an exited
thread's is discarded (R68, R96, R97). -/
def entryArrives (p : Fin 6) (v : Word) (t : Thread) : Thread :=
  if t.present = true ∧ t.st ≠ .exited then
    { t with ports := t.ports.set p.val ⟨t.ports[p].entries ++ [v], t.ports[p].credits⟩
             pend := if t.ports[p].entries = [] ∧ t.armedPort = some (p, .entry) then t.pend ||| 0x08 else t.pend }
  else t
/-- A credit returns to a thread: PRT where it held none and is armed for it. -/
def creditArrives (p : Fin 6) (t : Thread) : Thread :=
  if t.present = true ∧ t.st ≠ .exited then
    { t with ports := t.ports.set p.val ⟨t.ports[p].entries, t.ports[p].credits + 1⟩
             pend := if t.ports[p].credits = 0 ∧ t.armedPort = some (p, .credit) then t.pend ||| 0x08 else t.pend }
  else t
/-- A thread pushes, or finds no credit; pops, or finds no entry; peeks (R141). -/
def pushes (p : Port) (t : Thread) : Thread :=
  let q := t.ports[Port.idx p]
  withPort (armed p .credit t) p ⟨q.entries, q.credits - 1⟩
def pops (p : Port) (t : Thread) : Thread :=
  let q := t.ports[Port.idx p]
  withPort (armed p .entry t) p ⟨q.entries.tail, q.credits⟩
def credited (h : Here) (p : Port) (l : Fin 32) : Bool := decide (0 < h.b.threads[l].ports[Port.idx p].credits)
def filled (h : Here) (p : Port) (l : Fin 32) : Bool := !h.b.threads[l].ports[Port.idx p].entries.isEmpty
def oldest (h : Here) (p : Port) (l : Fin 32) : Word := h.b.threads[l].ports[Port.idx p].entries.headD 0
def within (exec : Lanes) (f : Fin 32 → Bool) : Lanes := laneSet fun l => exec.getLsbD l.val && f l
/-- The lane above through hi, the lane below through lo (R54). -/
def laneFacing (p : Port) (l k : Fin 32) : Prop := (p = .hi ∧ k.val = l.val + 1) ∨ (p = .lo ∧ k.val + 1 = l.val)

end Sys2Proof.Claims

/-- R141, R96: PUSH, POP and PEEK through a core port with a paired group. A thread with a credit sends its value towards
the pair and its mask bit is 1; a queue with an entry gives it, and POP sends a credit back. Every executing lane arms. -/
def Obligations.CorePortResults : Prop :=
  (∀ s h m a p y e, s.LaneReady h { reads := srcReads a 1, dests := [] } noReads → isCorePort p →
    s.pairAt h.g p = some (y, e) →
    let w := within s.cur.exec (credited h p)
    LaneActs (.push m a p) s
      { s with portNet := s.portNet ++ (lanesOf w).map fun l =>
          ⟨y.gid, s.cur.bunch, l, Port.idx (Port.opposite p), some (srcWord a h.b l)⟩ } h
      ((changeLanes h.b s.cur.exec fun _ => pushes p).withMask m s.cur.exec (credited h p))
      { reads := srcReads a 1, dests := [] } s.cur.exec (fun _ => s.cur.next) fun _ => [])
  ∧ (∀ s h d m p y e, s.LaneReady h (opsD [d]) noReads → isCorePort p → s.pairAt h.g p = some (y, e) →
    let w := within s.cur.exec (filled h p)
    LaneActs (.pop d p m) s
      { s with portNet := s.portNet ++ (lanesOf w).map fun l =>
          ⟨y.gid, s.cur.bunch, l, Port.idx (Port.opposite p), none⟩ } h
      ((changeLanes h.b s.cur.exec fun _ => pops p).withMask m s.cur.exec (filled h p))
      (opsD [d]) w (fun _ => s.cur.next) fun l => [oldest h p l])
  ∧ ∀ s h d m p, s.LaneReady h (opsD [d]) noReads →
    LaneActs (.peek d p m) s s h
      ((changeLanes h.b s.cur.exec fun _ => armed p .entry).withMask m s.cur.exec (filled h p))
      (opsD [d]) (within s.cur.exec (filled h p)) (fun _ => s.cur.next) fun l => [oldest h p l]

/-- R54, R141: through a lane port a pushed value enters the queue of the neighbour lane at once, and a pop's credit goes
back to it; a thread without a credit pushes nothing, and one without an entry pops nothing. -/
def Obligations.LanePortResults : Prop :=
  (∀ s h m a p l k, s.LaneReady h { reads := srcReads a 1, dests := [] } noReads → s.cur.exec = laneBit l →
    laneFacing p l k → h.b.threads[k].present = true →
    LaneActs (.push m a p) s s h
      ((if credited h p l then (h.b.modThread l (pushes p)).modThread k (entryArrives (Port.idx (Port.opposite p)) (srcWord a h.b l))
        else h.b.modThread l (armed p .credit)).withMask m s.cur.exec fun _ => credited h p l)
      { reads := srcReads a 1, dests := [] } s.cur.exec (fun _ => s.cur.next) fun _ => [])
  ∧ ∀ s h d m p l k, s.LaneReady h (opsD [d]) noReads → s.cur.exec = laneBit l → laneFacing p l k →
    h.b.threads[k].present = true →
    LaneActs (.pop d p m) s s h
      ((if filled h p l then (h.b.modThread l (pops p)).modThread k (creditArrives (Port.idx (Port.opposite p)))
        else h.b.modThread l (armed p .entry)).withMask m s.cur.exec fun _ => filled h p l)
      (opsD [d]) (within s.cur.exec (filled h p)) (fun _ => s.cur.next) fun l => [oldest h p l]

/-- R96, R68, R97: the oldest entry, or credit, on its way to a group reaches its thread. -/
def Obligations.PortArrivals : Prop :=
  ∀ s (m : PortMsg) before after, s.portNet = before ++ m :: after → m.gid = s.event.a →
    (∀ v, m.entry = some v → (∀ x ∈ before, x.gid = s.event.a → x.entry = none) →
      exec .portEntryArrival s = .next ({ s with portNet := before ++ after }.modThread m.gid m.bunch m.lane (entryArrives m.port v)))
    ∧ (m.entry = none → (∀ x ∈ before, x.gid = s.event.a → x.entry ≠ none) →
      exec .portCreditArrival s = .next ({ s with portNet := before ++ after }.modThread m.gid m.bunch m.lane (creditArrives m.port)))

/-! # Memory: loads, stores, atomics, fences, by R139, R143, R147 and R191 to R204 -/

namespace Sys2Proof.Claims
open Sys2Proof.Machine

/-- An access of n bytes at an address of a space passes the checks of R147 and R192: it is aligned, within the limit of
its space, and a .gl or .lp page is in the TLB and may be used so. A .csm address names the own core (R143). -/
def Reaches (s : State) (h : Here) (bi : Nat) (l : Fin 32) (spc : Space) (ea : Nat) (n align : Nat) (need : Need) (p : Spot) : Prop :=
  ea % align = 0 ∧
  let a : DWord := .ofNat 64 ea
  match spc with
  | .gl => ∃ x, s.Mapped h.g.core h.l.ctx ea need x ∧ p = ⟨.gl, a, x.pa, x.pte, h.g.gid, h.g.core⟩
  | .lp => (threadSlice h bi l ≤ ea ∧ ea + n ≤ threadSlice h bi l + programBytes h)
      ∧ ∃ x, s.Mapped h.g.core h.l.ctx ea need x ∧ p = ⟨.lp, a, x.pa, x.pte, h.g.gid, h.g.core⟩
  | .sp => ea < 2 ^ 20 ∧ ea + n ≤ h.l.hdr.scratch ∧ p = ⟨.sp, a, 0, 0, h.g.gid, h.g.core⟩
  | .csm => ea < 2 ^ 22 ∧ s.csmTarget h.g (ea / 2 ^ 20 % 4) = some h.g ∧ ea % 2 ^ 20 + n ≤ h.l.hdr.scratch
      ∧ p = ⟨.csm, a, 0, 0, h.g.gid, h.g.core⟩
  | .chs => ea < 2 ^ 28 ∧ (∃ w ∈ h.l.windows, w.stack = ea / 2 ^ 25 % 8)
      ∧ ea % 2 ^ 25 + n ≤ h.l.hdr.chsz * 65536 ∧ p = ⟨.chs, a, 0, 0, h.l.id, h.g.core⟩
/-- Bytes of a block in an L1 are poisoned (R195): a copy of a DIR page has its marks at the home point, or in the copy that its
stack keeps of a peer's block (R188, log 41). -/
def copyMarked (s : State) (core : Nat) (b : Block) (off n : Nat) : Bool :=
  if Pte.coh b.pte = .si then poisoned b.poison off n
  else match s.peerCopy core (b.pb * 512 + off) n with
    | some c => poisoned c.poison off n
    | none => poisoned s.poison (b.pb * 512 + off) n
/-- The core has the n bytes at a place, none of them poisoned: in its scratchpad, in a window, or in its L1 (R144, R147,
R151, R195). -/
def Holds (s : State) (h : Here) (p : Spot) (n : Nat) (bs : List Byte) : Prop :=
  match p.sp with
  | .sp => bs = Memory.readN h.g.sp (p.addr.toNat % 2 ^ 20) n ∧ poisoned h.g.spPoison (p.addr.toNat % 2 ^ 20) n = false
  | .csm => bs = Memory.readN h.g.sp (p.addr.toNat % 2 ^ 20) n ∧ poisoned h.g.spPoison (p.addr.toNat % 2 ^ 20) n = false
  | .chs => ∃ w, h.l.windows.find? (fun w => w.stack == p.addr.toNat / 2 ^ 25 % 8) = some w
      ∧ bs = Memory.readN w.bytes (p.addr.toNat % 2 ^ 25) n ∧ poisoned w.poison (p.addr.toNat % 2 ^ 25) n = false
  | _ => Pte.coh p.pte ≠ .uc ∧ ¬ (Pte.coh p.pte = .si ∧ Pte.kind p.pte = .so)
      ∧ ∃ b, s.block? h.g.core (s.asidOf h.l.ctx) p.addr.toNat = some b ∧ b.pb = p.pa / 512 ∧ b.hit (p.pa % 512) n = true
        ∧ bs = Memory.readN b.data (p.pa % 512) n
        ∧ copyMarked s h.g.core b (p.pa % 512) n = false
/-- The core's read-only sectors have them (R154, R196). -/
def HoldsRo (s : State) (h : Here) (p : Spot) (n : Nat) (bs : List Byte) : Prop :=
  Pte.coh p.pte ≠ .uc
  ∧ ∃ b, s.block? h.g.core (s.asidOf h.l.ctx) p.addr.toNat = some b ∧ b.pb = p.pa / 512 ∧ b.hitRo (p.pa % 512) n = true
    ∧ bs = Memory.readN b.data (p.pa % 512) n ∧ poisoned b.poison (p.pa % 512) n = false
/-- Address operand: a pair plus the scaled offset for .gl and .lp, else one register, the sum exact (R10, R38, R191). -/
def addressOf (spc : Space) (a : Src) (off : Nat) (b : Bunch) (l : Fin 32) : Nat :=
  match spc with
  | .gl => (srcPair a b l).toNat + off
  | .lp => (srcPair a b l).toNat + off
  | _ => (srcWord a b l).toNat + off
def loadOps (spc : Space) (a : Src) (d : Reg) (n : Nat) : Operands :=
  { reads := baseReads spc a, dests := if n = 8 then [d, regNext d 1] else [d] }
def loadForms : List ((Reg → Src → Qual → Fin 64 → Instr) × Space × Nat) :=
  [(.ldN32Lp, .lp, 4), (.ldN32Sp, .sp, 4), (.ldN32Csm, .csm, 4), (.ldN32Chs, .chs, 4), (.ldN32Gl, .gl, 4),
   (.ldN64Sp, .sp, 8), (.ldN64Gl, .gl, 8)]
def readOnlyForms : List ((Reg → Src → Fin 64 → Instr) × Nat) := [(.ldroN32Gl, 4), (.ldroN64Gl, 8)]
def storeOps (spc : Space) (a : Src) (d : Reg) (n : Nat) : Operands :=
  { reads := baseReads spc a ++ regReads d (n / 4), dests := [] }
def storeForms : List ((Reg → Src → Qual → Fin 64 → Instr) × Space × Nat) :=
  [(.stN32Lp, .lp, 4), (.stN32Sp, .sp, 4), (.stN32Csm, .csm, 4), (.stN32Chs, .chs, 4), (.stN32Gl, .gl, 4),
   (.stN64Sp, .sp, 8), (.stN64Gl, .gl, 8)]
/-- A store that has retired into its core and is not performed yet (R172). -/
def retired (s : State) (h : Here) (p : Spot) (q : Qual) (n : Nat) (data : DWord) (l : Fin 32) (whole : Lanes) : Store :=
  { core := h.g.core, issue := s.issues, gid := h.g.gid, bunch := s.cur.bunch, lane := l, wholeBunch := whole, pc := s.cur.pc,
    sp := p.sp, q := q, addr := p.addr, size := n, data := data, ctx := h.l.ctx, asid := s.asidOf h.l.ctx, pa := p.pa, pte := p.pte,
    target := p.target, launch := h.l.id }
/-- The data of a store: a register, or a pair with the low word first. -/
def dataOf (n : Nat) (lo hi : Word) : DWord := if n = 8 then hi ++ lo else .ofNat 64 lo.toNat

end Sys2Proof.Claims

/-- R192, R196, R147: loads that the core serves itself. Each executing lane gets the bytes at its address, lowest first; an
L1 hit changes the order of use of the blocks, an acquire at .sy drops the stack's copies of peers' blocks, and nothing else
of the module changes. -/
def Obligations.LoadResults : Prop :=
  (∀ f ∈ loadForms, ∀ s h d a q o (p : Fin 32 → Spot) (bs : Fin 32 → List Byte),
    let ops := loadOps f.2.1 a d f.2.2
    s.LaneReady h ops noReads → s.EnginesIdle h.g.core → s.Settled → s.OneBlock → (wideQ q = true → s.NoSi h.g.core) →
    (∀ l : Fin 32, s.cur.exec.getLsbD l.val = true →
      Reaches s h s.cur.bunch l f.2.1 (addressOf f.2.1 a (f.2.2 * o.val) h.b l) f.2.2 f.2.2 .load (p l)
      ∧ Holds (s.acquired q) h (p l) f.2.2 (bs l)) → (s.cur.exec = 0 → q ≠ some .sy) →
    ∃ c, c.Perm s.l1 ∧ LaneActs (f.1 d a q o) s { s.acquired q with l1 := c } h h.b ops s.cur.exec (fun _ => s.cur.next)
      fun l => wordsFrom (f.2.2 / 4) (bs l))
  ∧ ∀ f ∈ readOnlyForms, ∀ s h d a o (p : Fin 32 → Spot) (bs : Fin 32 → List Byte),
    let ops := loadOps .gl a d f.2
    s.LaneReady h ops noReads → s.EnginesIdle h.g.core → s.OneBlock →
    (∀ l : Fin 32, s.cur.exec.getLsbD l.val = true →
      Reaches s h s.cur.bunch l .gl (addressOf .gl a (f.2 * o.val) h.b l) f.2 f.2 .ldro (p l) ∧ HoldsRo s h (p l) f.2 (bs l)) →
    ∃ c, c.Perm s.l1 ∧ LaneActs (f.1 d a o) s { s with l1 := c } h h.b ops s.cur.exec (fun _ => s.cur.next)
      fun l => wordsFrom (f.2 / 4) (bs l)

/-- R192, R172, R178: a store retires into its core: one store per executing lane, in lane order; the data register is not
released, and no byte of memory has changed yet. -/
def Obligations.StoreResults : Prop :=
  ∀ f ∈ storeForms, ∀ s h d a q o (p : Fin 32 → Spot),
    let ops := storeOps f.2.1 a d f.2.2
    s.LaneReady h ops noReads → s.EnginesIdle h.g.core → s.Settled → (wideQ q = true → s.NoSi h.g.core) →
    (∀ l : Fin 32, s.cur.exec.getLsbD l.val = true →
      Reaches s h s.cur.bunch l f.2.1 (addressOf f.2.1 a (f.2.2 * o.val) h.b l) f.2.2 f.2.2 .store (p l)) →
    LaneActs (f.1 d a q o) s
      { s with stores := (lanesOf s.cur.exec).map fun l =>
          retired s h (p l) q f.2.2 (dataOf f.2.2 (h.b.val d l) (h.b.val (regNext d 1) l)) l 0 } h h.b ops s.cur.exec
      (fun _ => s.cur.next) fun _ => []

namespace Sys2Proof.Claims
open Sys2Proof.Machine

/-- Threads of a core whose watched line meets some sectors of a block get WCH, and watch on (R68, R210). -/
def watchersTold (core asid vb : Nat) (m : BitVec 16) (g : Group) : Group :=
  if g.core = core then g.mapThreads fun _ _ t =>
    match t.watch with
    | some w =>
      if w.asid = asid ∧ ∃ i : Fin 16, m.getLsbD i.val = true ∧ w.base < vb * 512 + 32 * i.val + 32 ∧ vb * 512 + 32 * i.val < w.base + w.len
      then { t with pend := t.pend ||| 0x02 } else t
    | none => t
  else g

end Sys2Proof.Claims

/-- R172, R143, R144, R147, R191: the oldest store inside a core is performed (the model's choice of order, log 73): its bytes,
lowest first, stand in the own scratchpad, in the window, or at the home point of an uncached page, whose slice takes its block;
a .csm store for another core is sent to it. A store to a DIR or SI page whose grain the core's L1 alone holds is written there
and makes its sectors dirty, and the watches of its grain on the core get WCH (R152, R210): of a DIR page the home point, where
the model keeps the one copy that others see (log 41), has the bytes too, and agents lose their lines of the block (log 26); of an
SI page memory is as it was. -/
def Obligations.StorePerformedResults : Prop :=
  ∀ s (o : Store) rest, s.stores = o :: rest → o.core = s.event.a → s.event.b ≠ 1 → (∀ x ∈ rest, x.place ≠ o.place) →
    s.event.ecc = .none → s.poison = [] → (∀ b ∈ s.l1, b.poison = []) → (∀ g ∈ s.groups, g.spPoison = []) →
    (∀ l ∈ s.launches, ∀ w ∈ l.windows, w.poison = []) →
    let bs := littleEndian o.size o.data.toNat
    let t := { s with stores := rest }
    (o.sp = .sp → exec .storePerformed s = .next (t.modGroup o.gid fun g => { g with sp := Memory.writeN g.sp o.addr.toNat bs }))
    ∧ (o.sp = .csm → coreOfPos o.core (o.addr.toNat / 2 ^ 20 % 4) = o.core →
        exec .storePerformed s = .next (t.modGroup o.target fun g => { g with sp := Memory.writeN g.sp (o.addr.toNat % 2 ^ 20) bs }))
    ∧ (o.sp = .csm → coreOfPos o.core (o.addr.toNat / 2 ^ 20 % 4) ≠ o.core → (∀ m ∈ s.csmNet, ∀ x ∈ m.stores, x.issue ≠ o.issue) →
        exec .storePerformed s = .next { t with csmNet := s.csmNet ++
          [⟨coreOfPos o.core (o.addr.toNat / 2 ^ 20 % 4), o.target, [o], 0⟩] })
    ∧ (o.sp = .chs → exec .storePerformed s = .next (t.modLaunch o.launch fun l => { l with windows := l.windows.map fun w =>
        if w.stack = o.addr.toNat / 2 ^ 25 % 8 then { w with bytes := Memory.writeN w.bytes (o.addr.toNat % 2 ^ 25) bs } else w }))
    ∧ (o.sp = .gl ∨ o.sp = .lp → Pte.coh o.pte = .uc → s.linkDown o.pa = false → s.Plain (Pte.key o.pte) o.pa o.size → o.size ≠ 0 →
        o.pa % 512 + o.size ≤ 512 → s.NotInL1 (o.pa / 512) → s.Unlocked (o.pa / 512) →
        (∀ r ∈ s.reqs, r.blk = o.pa / 512 → r.st ≠ .accepted) →
        ∃ sl hb, exec .storePerformed s = .next ({ t with mem := Memory.writeN s.mem o.pa bs }.recached sl hb))
    ∧ ∀ b, o.sp = .gl ∨ o.sp = .lp → Pte.coh o.pte = .dir ∨ (Pte.coh o.pte = .si ∧ Pte.kind o.pte ≠ .so) → s.linkDown o.pa = false →
        s.NullKeyed → s.keyOf (Pte.key o.pte) = 0 → windowOf o.pa ≠ .device → wideQ o.q = false → o.size ≠ 0 →
        o.addr.toNat % 512 = o.pa % 512 → o.pa % 512 + o.size ≤ 512 → s.Unlocked (o.pa / 512) →
        (∀ r ∈ s.reqs, r.blk = o.pa / 512 → r.st ≠ .accepted) → s.OneBlock → s.block? o.core o.asid o.addr.toNat = some b →
        b.pb = o.pa / 512 → b.pte = o.pte → (∀ x ∈ s.l1, x.pb = o.pa / 512 → x = b) →
        let grains := grainMask o.pte (o.pa % 512) o.size
        b.valid &&& ~~~ b.ro &&& grains = grains → sectorsOf (o.pa % 512) o.size &&& grains = sectorsOf (o.pa % 512) o.size →
        let b' := { b with data := Memory.writeN b.data (o.pa % 512) bs, dirty := b.dirty ||| sectorsOf (o.pa % 512) o.size }
        let dir := Pte.coh o.pte = .dir
        ∃ sl hb, exec .storePerformed s = .next ({ t with
            mem := if dir then Memory.writeN s.mem o.pa bs else s.mem
            l1 := b' :: s.l1.filter fun x => !(x.core == o.core && x.asid == o.asid && x.vb == o.addr.toNat / 512)
            agentLines := if dir then s.agentLines.filter fun a => a.blk != o.pa / 512 else s.agentLines
            groups := s.groups.map (watchersTold o.core o.asid (o.addr.toNat / 512) grains) }.recached sl hb)

namespace Sys2Proof.Claims
open Sys2Proof.Machine

/-- R198: the value an atomic leaves, from the old one and its operand. A request names the function by its number. -/
def atomics : List ((AtomOp → Instr) × Nat × (∀ w : Nat, BitVec w → BitVec w → BitVec w)) :=
  [(.atadd, 0, fun w a b => .ofNat w (a.toNat + b.toNat)), (.atand, 1, fun _ a b => a &&& b), (.ator, 2, fun _ a b => a ||| b),
   (.atxor, 3, fun _ a b => a ^^^ b), (.atminI, 4, fun w a b => .ofInt w (min a.toInt b.toInt)),
   (.atminN, 5, fun w a b => .ofNat w (min a.toNat b.toNat)), (.atmaxI, 6, fun w a b => .ofInt w (max a.toInt b.toInt)),
   (.atmaxN, 7, fun w a b => .ofNat w (max a.toNat b.toNat)), (.atxch, 8, fun _ _ b => b),
   (.atfadd, 10, fun w a b => .ofNat w (fp32.finish .rne (addExact .rne (fp32.read a.toNat) (fp32.read b.toNat))).code)]
def atomSpace (x : ASpace) : Space := match x with | .gl => .gl | .sp => .sp | .csm => .csm | .chs => .chs
def atomBytesOf (x : AtomOp) : Nat := if x.w64 then 8 else 4
def atomDest (d : Reg) (ret : Bool) (n : Nat) : List Reg := if ret then (List.range n).map (regNext d) else []
def atomOps (x : AtomOp) (rc : List Read) : Operands :=
  { reads := baseReads (atomSpace x.sp) x.a ++ srcReads x.b (atomBytesOf x / 4) ++ rc, dests := atomDest x.d x.ret (atomBytesOf x / 4) }
def cas128Ops (x : Cas128Op) : Operands :=
  { reads := baseReads (atomSpace x.sp) x.a ++ ownReads x.b 4 ++ ownReads x.c 4, dests := atomDest x.d x.ret 4 }
/-- The new bytes of an atomic of 4 or 8 bytes, from the old ones and the operand's words. -/
def updated (n : Nat) (f : ∀ w : Nat, BitVec w → BitVec w → BitVec w) (old : List Byte) (lo hi : Word) : List Byte :=
  if n = 8 then littleEndian 8 (f 64 (.ofNat 64 (valueOf old)) (hi ++ lo)).toNat
  else littleEndian 4 (f 32 (.ofNat 32 (valueOf old)) lo).toNat
/-- Bytes written in the own scratchpad or a window (R143, R147). -/
def padPut (s : State) (h : Here) (p : Spot) (bs : List Byte) : State :=
  match p.sp with
  | .chs => s.modLaunch h.l.id fun l => l.chsWrite (p.addr.toNat / 2 ^ 25 % 8) (p.addr.toNat % 2 ^ 25) bs
  | _ => s.modGroup h.g.gid fun g => g.spWrite (p.addr.toNat % 2 ^ 20) bs
/-- The words of a register run as bytes. -/
def wordBytesOf (ws : List Word) : List Byte := ws.flatMap fun w => littleEndian 4 w.toNat
def ownWordsOf (a : Own) (n : Nat) (b : Bunch) (l : Fin 32) : List Word := (List.range n).map fun k => b.val (regNext a.reg k) l

end Sys2Proof.Claims

/-- R197 to R201, R143: an atomic of one executing lane on a scratchpad or a window is applied at once; the lane gets the
old value where RET asks for it, and a compare that fails writes nothing. -/
def Obligations.ScratchpadAtomics : Prop :=
  (∀ f ∈ atomics, ∀ s h x l p bs, s.LaneReady h (atomOps x []) noReads → s.cur.exec = laneBit l → s.Settled →
    s.EnginesIdle h.g.core → (wideQ x.q = true → s.NoSi h.g.core) → x.sp ≠ .gl →
    Reaches s h s.cur.bunch l (atomSpace x.sp) (addressOf (atomSpace x.sp) x.a 0 h.b l) (atomBytesOf x) (atomBytesOf x) .atomic p →
    Holds s h p (atomBytesOf x) bs →
    LaneActs (f.1 x) s
      (padPut (s.acquired x.q) h p (updated (atomBytesOf x) f.2.2 bs (srcWord x.b h.b l) (h.b.val (regNext x.b.reg 1) (patLane x.b.pat l)))) h h.b
      (atomOps x []) s.cur.exec (fun _ => s.cur.next) fun _ => wordsFrom (atomBytesOf x / 4) bs)
  ∧ (∀ s h x c l p bs,
    let n := atomBytesOf x
    let ops := atomOps x (ownReads c (n / 4))
    let comparand := dataOf n (h.b.val c.reg l) (h.b.val (regNext c.reg 1) l)
    let operand := dataOf n (srcWord x.b h.b l) (h.b.val (regNext x.b.reg 1) (patLane x.b.pat l))
    s.LaneReady h ops noReads → s.cur.exec = laneBit l → s.Settled → s.EnginesIdle h.g.core →
    (wideQ x.q = true → s.NoSi h.g.core) → x.sp ≠ .gl →
    Reaches s h s.cur.bunch l (atomSpace x.sp) (addressOf (atomSpace x.sp) x.a 0 h.b l) n n .atomic p → Holds s h p n bs →
    LaneActs (.atcas x c) s (if valueOf bs = comparand.toNat then padPut (s.acquired x.q) h p (littleEndian n operand.toNat)
        else s.acquired x.q) h h.b
      ops s.cur.exec (fun _ => s.cur.next) fun _ => wordsFrom (n / 4) bs)
  ∧ ∀ s h x l p bs, s.LaneReady h (cas128Ops x) noReads → s.cur.exec = laneBit l → s.Settled → s.EnginesIdle h.g.core →
    (wideQ x.q = true → s.NoSi h.g.core) → x.sp ≠ .gl →
    Reaches s h s.cur.bunch l (atomSpace x.sp) (addressOf (atomSpace x.sp) x.a 0 h.b l) 16 16 .atomic p → Holds s h p 16 bs →
    LaneActs (.cas128 x) s
      (if wordsFrom 4 bs = ownWordsOf x.c 4 h.b l then padPut (s.acquired x.q) h p (wordBytesOf (ownWordsOf x.b 4 h.b l))
        else s.acquired x.q) h h.b
      (cas128Ops x) s.cur.exec (fun _ => s.cur.next) fun _ => wordsFrom 4 bs

namespace Sys2Proof.Claims
open Sys2Proof.Machine

/-- A request of one lane for a block in memory, as sent (R164, R192, R199). -/
def asked (s : State) (h : Here) (op : ReqOp) (q : Qual) (ret : Bool) (n : Nat) (x : ReqLane) (spc : Space) : Req :=
  { id := s.fresh, pend := s.issues, core := h.g.core, gid := h.g.gid, bunch := s.cur.bunch, op := op, sp := spc, q := q, ret := ret,
    size := n, ctx := h.l.ctx, asid := s.asidOf h.l.ctx, blk := x.pa / 512, pc := s.cur.pc,
    target := h.g.gid, launch := h.l.id, st := .sent, run := s.cur.run, lanes := [x], applied := none }
/-- The instruction of a run that waits for the request of its one executing lane (R66, R192, R199). -/
def waiting (s : State) (h : Here) (op : ReqOp) (vd : Option Reg) (n : Nat) (keep : List Reg) (l : Fin 32) : Pend :=
  { id := s.issues, gid := h.g.gid, bunch := s.cur.bunch, run := s.cur.run, exec := s.cur.exec, pc := s.cur.pc, next := s.cur.next,
    op := op, vd := vd, scalar := false, size := n, keep := keep, waiting := laneBit l, outs := [] }
/-- The run's lane waits for memory: lanes gated off have gone on; no copy has changed. The bunch keeps of the instruction which
copies it is releasing and for which registers it has taken entries (R84, log 35). -/
def Waits (i : Instr) (s t : State) (h : Here) (o : Operands) (l : Fin 32) (r : Req) (vd : Option Reg) : Prop :=
  ∃ b', exec i s = .next ({ t with
        reqs := s.reqs ++ [r], pends := s.pends ++ [waiting s h r.op vd r.size o.named l], fresh := s.fresh + 1 }.laneNext h b'
      (s.gsBits h (fun _ => o.reads) fun _ => 0))
    ∧ b' = { h.b with
             regs := b'.regs
             threads := b'.threads
             flights := ⟨s.issues, laneBit l, o.marked, decide (∀ k : Fin 32, h.b.threads[k].live = true → k = l), o.dests, []⟩
               :: h.b.flights }
    ∧ h.b.RegsAfter b' 0 0 [] [] (fun _ => [])
    ∧ ∀ k : Fin 32, b'.threads[k] = if k = l then { h.b.threads[k] with await := .request }
        else if s.cur.run.getLsbD k.val then { h.b.threads[k] with pc := s.cur.next, await := .none, heldAt := none } else h.b.threads[k]
/-- No instruction of the bunch waits for a request. -/
def NoRequest (s : State) (h : Here) : Prop :=
  (∀ r ∈ s.reqs, r.gid ≠ h.g.gid ∨ r.bunch ≠ s.cur.bunch) ∧ ∀ p ∈ s.pends, p.gid ≠ h.g.gid ∨ p.bunch ≠ s.cur.bunch
/-- No two instructions of one bunch wait under one number. -/
def PendsDiffer (s : State) : Prop := (s.pends.map fun p => (p.id, p.gid, p.bunch)).Nodup
/-- A request is the only one of its number, and the only one that the slice has taken for its block (R164). -/
def OnlyAccepted (s : State) (r : Req) : Prop :=
  (s.reqs.map fun x => x.id).Nodup ∧ ∀ x ∈ s.reqs, x.blk = r.blk → x.st = .accepted → x = r
/-- What the bunch keeps of an instruction in flight, all of whose entries it has (log 35). -/
def Landing (h : Here) (p : Pend) (f : Flight) : Prop :=
  h.b.flights.find? (fun f => f.id == p.id) = some f ∧ f.owes = [] ∧ h.b.away = 0
/-- The bunch without it. -/
def landedWith (h : Here) (p : Pend) : Bunch := { h.b with flights := h.b.flights.filter fun f => f.id != p.id }
/-- The group writes no trace records (R325). -/
def untraced (h : Here) : Prop := h.g.dbg.getLsbD 31 = false
/-- A store of a page whose accesses only same-address order and FENCE.ALL order (R179). -/
def onUoPage (st : Store) : Prop := (st.sp = .gl ∨ st.sp = .lp) ∧ Pte.kind st.pte = .uo
/-- What remains of a compare: the bytes it leaves where it finds the comparand. -/
def swapBytes (n : Nat) (old : List Byte) (b c : List Word) : Option (List Byte) :=
  if wordsFrom (n / 4) old = c then some (wordBytesOf b) else none

end Sys2Proof.Claims

/-- R152, R192, R199, R22: a load of an uncached page, and an atomic on memory, send one request for their block; the lane waits
for its answer. That its releases and writes show to other runs together, with the answer, while their storage counts from the
issue on, is the model's choice (log 35). -/
def Obligations.MemoryIsAsked : Prop :=
  (∀ f ∈ loadForms, ∀ s h d a q o l p,
    let ops := loadOps f.2.1 a d f.2.2
    s.LaneReady h ops noReads → s.cur.exec = laneBit l → s.cur.run.getLsbD l.val = true → s.EnginesIdle h.g.core → s.Settled →
    s.OneBlock → (wideQ q = true → s.NoSi h.g.core) → NoRequest s h → f.2.1 = .gl ∨ f.2.1 = .lp →
    Reaches s h s.cur.bunch l f.2.1 (addressOf f.2.1 a (f.2.2 * o.val) h.b l) f.2.2 f.2.2 .load p → Pte.coh p.pte = .uc →
    Waits (f.1 d a q o) s (s.acquired q) h ops l (asked s h .load q true f.2.2 ⟨l, p.addr, p.pa, p.pte, [], []⟩ f.2.1) (some d))
  ∧ ∀ f ∈ atomics, ∀ s h x l p,
    let ops := atomOps x []
    s.LaneReady h ops noReads → s.cur.exec = laneBit l → s.cur.run.getLsbD l.val = true → s.EnginesIdle h.g.core → s.Settled →
    (wideQ x.q = true → s.NoSi h.g.core) → NoRequest s h → x.sp = .gl → windowOf p.pa = .local_ →
    (∀ b ∈ s.l1, b.core = h.g.core → b.pb ≠ p.pa / 512) →
    Reaches s h s.cur.bunch l .gl (addressOf .gl x.a 0 h.b l) (atomBytesOf x) (atomBytesOf x) .atomic p →
    Waits (f.1 x) s s h ops l (asked s h (.atom f.2.1) x.q x.ret (atomBytesOf x)
      ⟨l, p.addr, p.pa, p.pte, (List.range (atomBytesOf x / 4)).map fun k => h.b.val (regNext x.b.reg k) (patLane x.b.pat l), []⟩ .gl)
      (if x.ret then some x.d else none)

/-- R192, R199, R198, R201, R83, R22: the answer of an uncached load, the last that its run waits for, releases the last-use
copies and writes the bytes at the home point, and an atomic of a lane is applied there and answers with the old ones; the run's
lanes go on, and request and wait are gone. An answer that is not the last only joins those that are there. Two clauses are the
model's choice: that an atomic takes the lines of agents in the whole block of 512 bytes (log 26), and that releases and values
of one instruction show together (log 35). -/
def Obligations.MemoryAnswers : Prop :=
  (∀ s r h (p : Pend) f (bs : Fin 32 → List Byte), s.reqs.find? (fun x => x.id == s.event.a) = some r → r.sp = .gl ∨ r.sp = .lp →
    r.st = .accepted → r.op = .load → s.event.ecc = .none → s.hereOf r.gid r.bunch = some h → (wideQ r.q = true → s.NoSi r.core) →
    (s.pends.find? fun p => p.is r.pend r.gid r.bunch) = some p → PendsDiffer s → p.scalar = false → p.op = .load → untraced h → s.Unlocked r.blk →
    let dests := match p.vd with | some d => (List.range (p.size / 4)).map (regNext d) | none => []
    let m := lanesFrom (r.lanes.map fun x => x.lane)
    s.RoomAt h r.bunch dests → (r.lanes.map fun x => x.lane).Nodup → p.size = r.size → 4 ∣ r.size → 0 < r.size →
    r.applied = none → OnlyAccepted s r → Landing h p f →
    (∀ x ∈ r.lanes, Pte.coh x.pte = .uc ∧ x.pa / 512 = r.blk ∧ s.NotInL1 r.blk ∧ s.linkDown x.pa = false
      ∧ s.Clean (Pte.key x.pte) x.pa r.size
      ∧ bs x.lane = Memory.readN s.mem x.pa r.size) →
    let t := { s with reqs := s.reqs.filter fun x => x.id != r.id }
    (p.waiting = m → p.outs = [] → ∃ b' sl hb, exec .loadReturn s = .next
        (({ t with pends := s.pends.filter fun x => !x.is r.pend r.gid r.bunch }.putBunch r.gid r.bunch b').recached sl hb)
      ∧ h.b.After (landedWith h p) b' m m m (fun _ => p.next) f.marked dests fun l => wordsFrom (r.size / 4) (bs l))
    ∧ (p.waiting &&& ~~~ m ≠ 0 → ∃ outs sl hb, exec .loadReturn s = .next
        ({ t with pends := s.pends.map fun (x : Pend) => if x.is r.pend r.gid r.bunch then
            { x with waiting := x.waiting &&& ~~~ m, outs := x.outs ++ outs } else x }.recached sl hb)
      ∧ ∀ l o, (l, o) ∈ outs ↔ m.getLsbD l.val = true ∧ o = { vals := wordsFrom (r.size / 4) (bs l) }))
  ∧ ∀ s r h x (p : Pend) f (new : Option (List Byte)), s.reqs.find? (fun x => x.id == s.event.a) = some r → r.sp = .gl →
    r.st = .accepted → r.applied = none → OnlyAccepted s r → Landing h p f →
    s.hereOf r.gid r.bunch = some h → (wideQ r.q = true → s.NoSi r.core) → r.lanes = [x] → s.linkDown x.pa = false →
    (s.pends.find? fun p => p.is r.pend r.gid r.bunch) = some p → PendsDiffer s → p.scalar = false → p.op = r.op → untraced h →
    p.waiting = laneBit x.lane → p.outs = [] → p.size = r.size → p.vd.isSome = r.ret → x.pa % 512 + r.size ≤ 512 →
    s.NotInL1 (x.pa / 512) → s.Clean (Pte.key x.pte) x.pa r.size →
    let old := Memory.readN s.mem x.pa r.size
    (∃ f ∈ atomics, r.op = .atom f.2.1 ∧ (r.size = 4 ∨ r.size = 8)
        ∧ new = some (updated r.size f.2.2 old (x.b.getD 0 0) (x.b.getD 1 0)))
      ∨ (r.op = .cas128 ∧ r.size = 16 ∧ new = swapBytes 16 old x.b x.c) →
    let dests := match p.vd with | some d => (List.range (r.size / 4)).map (regNext d) | none => []
    s.RoomAt h r.bunch dests →
    ∃ b' sl hb, exec .atomicApply s = .next (({ s with
          reqs := s.reqs.filter fun x => x.id != r.id, pends := s.pends.filter fun x => !x.is r.pend r.gid r.bunch
          agentLines := s.agentLines.filter fun a => a.blk != x.pa / 512
          mem := new.elim s.mem fun n => Memory.writeN s.mem x.pa n }.putBunch r.gid r.bunch b').recached sl hb)
      ∧ h.b.After (landedWith h p) b' (laneBit x.lane) (laneBit x.lane) (laneBit x.lane) (fun _ => p.next) f.marked dests
          fun _ => wordsFrom (r.size / 4) old

/-- R180, R203, R204, R142, R185, R179: with no store to perform and no sector to drop, a fence of any scope, FENCE.ALL,
FENCE.PORT and ACQ.RO only let the lanes go on (at .sy the stack's copies of peers' blocks go, R188); after FENCE.scope and
FENCE.PORT no earlier store of an executing lane is left inside its core but those of UO pages, after FENCE.ALL none; after
ACQ.RO its core's L1 holds no read-only sector of the context. -/
def Obligations.FenceResults : Prop :=
  (∀ s h, s.LaneReady h (opsD []) noReads → s.Settled → s.NoSi h.g.core → s.cur.exec ≠ 0 →
    (∀ sc, LaneActs (.fence sc) s (s.acquired (some sc)) h h.b (opsD []) 0 (fun _ => s.cur.next) fun _ => [])
    ∧ LaneActs .fenceAll s (s.acquired (some .sy)) h h.b (opsD []) 0 (fun _ => s.cur.next) (fun _ => [])
    ∧ (∀ sc, LaneActs (.fencePort sc) s s h h.b (opsD []) 0 (fun _ => s.cur.next) fun _ => [])
    ∧ ((∀ b ∈ s.l1, b.core = h.g.core → b.ro = 0) →
        LaneActs .acqRo s s h h.b (opsD []) 0 (fun _ => s.cur.next) fun _ => []))
  ∧ (∀ s h (l : Fin 32), s.here? = some h → s.cur.exec.getLsbD l.val = true →
    (∀ sc, ∃ t, exec (.fence sc) s = .next t ∧ ∀ st ∈ t.stores, st.ofThread h.g.gid s.cur.bunch l = true → onUoPage st)
    ∧ (∃ t, exec .fenceAll s = .next t ∧ ∀ st ∈ t.stores, st.ofThread h.g.gid s.cur.bunch l = false)
    ∧ (∀ sc, ∃ t, exec (.fencePort sc) s = .next t ∧ ∀ st ∈ t.stores, st.ofThread h.g.gid s.cur.bunch l = true → onUoPage st)
    ∧ (s.OneBlock → ∃ t, exec .acqRo s = .next t ∧ ∀ b ∈ t.l1, b.core = h.g.core → b.asid = s.asidOf h.l.ctx → b.ro = 0))

namespace Sys2Proof.Claims
open Sys2Proof.Machine

def bunchLoads : List ((Reg → Reg → Qual → Fin 64 → Instr) × Space × Nat) :=
  [(.ldN32GlBunch, .gl, 4), (.ldN64GlBunch, .gl, 8), (.ldN32ChsBunch, .chs, 4), (.ldN32SpBunch, .sp, 4)]
def bunchStores : List ((Reg → Reg → Qual → Fin 64 → Instr) × Space × Nat) :=
  [(.stN32GlBunch, .gl, 4), (.stN64GlBunch, .gl, 8), (.stN32ChsBunch, .chs, 4), (.stN32SpBunch, .sp, 4)]
/-- The address of a bunch access (R139): a pair for .gl, else one register; the sum is exact. -/
def bunchAddress (spc : Space) (b : Bunch) (a : Reg) (off : Nat) : Nat :=
  match spc with
  | .gl => (scalarPair b a).toNat + off
  | _ => b.sregs[a].toNat + off
/-- Registers of one or two words written. -/
def scalarWords (b : Bunch) (d : Reg) : List Word → Bunch
  | [w] => scalarWritten b d w
  | [lo, hi] => scalarWritten (scalarWritten b d lo) (regNext d 1) hi
  | _ => b

end Sys2Proof.Claims

/-- R139: a bunch load or store is one access for the run, checked as its lowest lane's; a load that the core serves writes
scalar registers, a store retires into the core, and every thread of the run moves on. -/
def Obligations.BunchLoadsAndStores : Prop :=
  (∀ f ∈ bunchLoads, ∀ s h d a q o l p bs, s.here? = some h → s.GidsDiffer → (lanesOf s.cur.run).head? = some l →
    s.EnginesIdle h.g.core → s.Settled → s.OneBlock → (wideQ q = true → s.NoSi h.g.core) →
    Reaches s h s.cur.bunch l f.2.1 (bunchAddress f.2.1 h.b a (f.2.2 * o.val)) f.2.2 f.2.2 .load p →
    Holds (s.acquired q) h p f.2.2 bs →
    ∃ c, c.Perm s.l1 ∧ exec (f.1 d a q o) s = .next ({ s.acquired q with l1 := c }.putBunch h.g.gid s.cur.bunch
      ((scalarWords h.b d (wordsFrom (f.2.2 / 4) bs)).jumpLanes s.cur.run fun _ => s.cur.next)))
  ∧ ∀ f ∈ bunchStores, ∀ s h d a q o l p, s.here? = some h → s.GidsDiffer → (lanesOf s.cur.run).head? = some l →
    s.EnginesIdle h.g.core → s.Settled → (wideQ q = true → s.NoSi h.g.core) →
    Reaches s h s.cur.bunch l f.2.1 (bunchAddress f.2.1 h.b a (f.2.2 * o.val)) f.2.2 f.2.2 .store p →
    exec (f.1 d a q o) s = .next ({ s with stores :=
        [retired s h p q f.2.2 (dataOf f.2.2 h.b.sregs[d] h.b.sregs[regNext d 1]) l s.cur.run] }.putBunch h.g.gid s.cur.bunch
      (h.b.jumpLanes s.cur.run fun _ => s.cur.next))

/-- R164, R165, R156, R145: a slice accepts a request for a block that no other concerns, after those it has accepted before; an
atomic locks it, and so does a fill from HBM of sectors that the slice lacks; a request for a locked block is queued; a lock
clears, and what it filled is in the slice; an invalidation takes the DIR copies of a grain away; a walk fills the cluster's TLB;
a remote store reaches its scratchpad, or is discarded where its group has left. Two clauses are the model's choice: that the
invalidation leaves memory as it is, since the home point has a DIR page's stores already (log 41), and that it takes the lines
of agents in the whole block of 512 bytes (log 26). -/
def Obligations.MemorySystemSteps : Prop :=
  (∀ s r, s.reqs.find? (fun x => x.id == s.event.a) = some r → r.st = .sent → r.sp = .gl ∨ r.sp = .lp → s.event.ecc = .none →
    (∀ x ∈ s.reqs, x.id = r.id ∨ (x.blk ≠ r.blk ∧ x.st ≠ .queued)) → (s.reqs.map fun x => x.id).Nodup →
    (∀ m ∈ s.migrations, 512 * r.blk < m.old ∨ m.old + m.size ≤ 512 * r.blk) →
    let accepted := (s.reqs.filter fun x => x.id != r.id) ++ [{ r with st := .accepted }]
    let wants := fun (x : ReqLane) => if Pte.coh x.pte = .uc ∨ (Pte.coh x.pte = .si ∧ Pte.kind x.pte = .so)
      then sectorsOf (x.pa % 512) r.size else grainMask x.pte (x.pa % 512) r.size
    let held := ∀ x ∈ r.lanes, ∀ i < 16, (wants x).getLsbD i = true → s.sliceHolds (16 * (x.pa / 512) + i) = true
    let atomic := (∃ k, r.op = .atom k) ∨ r.op = .cas128
    (s.Unlocked r.blk → held → ¬ atomic → exec .sliceRequest s = .next { s with reqs := accepted })
    ∧ (s.Unlocked r.blk → held → atomic → ∃ key, exec .sliceRequest s = .next { s with
        reqs := accepted, locks := s.locks ++ [⟨r.blk, 0, key, true⟩] })
    ∧ (s.Unlocked r.blk → ¬ atomic →
        (∃ x ∈ r.lanes, windowOf x.pa = .local_ ∧ ∃ i < 16, (wants x).getLsbD i = true ∧ s.sliceHolds (16 * (x.pa / 512) + i) = false) →
        ∃ fill key, fill ≠ 0 ∧ exec .sliceRequest s = .next { s with
          reqs := accepted, locks := s.locks ++ [⟨r.blk, fill, key, false⟩] })
    ∧ ((∃ k ∈ s.locks, k.blk = r.blk) → exec .sliceRequest s = .next { s with
        reqs := (s.reqs.filter fun x => x.id != r.id) ++ [{ r with st := .queued }] }))
  ∧ (∀ s (k : LineLock), s.locks.find? (fun k => k.blk == s.event.a) = some k → (∀ r ∈ s.reqs, r.blk ≠ s.event.a) →
    ∃ t, exec .lineLockClear s = .next t ∧ t.locks = s.locks.filter (fun x => x.blk != s.event.a) ∧ t.reqs = s.reqs
      ∧ t.groups = s.groups ∧ (k.fill = 0 → t.mem = s.mem)
      ∧ (windowOf (512 * s.event.a) = .local_ → ∀ i < 16, k.fill.getLsbD i = true → t.sliceHolds (16 * s.event.a + i) = true))
  ∧ (∀ s, s.OneBlock → s.event.ecc = .none → ∃ l gs, exec .directoryInvalidate s = .next { s with
        l1 := l, groups := gs, agentLines := s.agentLines.filter fun a => a.blk != s.event.a / 512 }
    ∧ (∀ b ∈ l, b.pb = s.event.a / 512 → Pte.coh b.pte = .dir → b.valid &&& ~~~ b.ro &&& grainMask b.pte (s.event.a % 512) 1 = 0)
    ∧ ∀ b ∈ s.l1, b.pb ≠ s.event.a / 512 ∨ Pte.coh b.pte ≠ .dir → b ∈ l)
  ∧ (∀ s lf, s.event.c < 2 ^ 57 → (∃ e ∈ s.ctxCache, e.1 = s.event.b) →
    s.tlbFind (clusterOf s.event.a) (s.asidOf s.event.b) s.event.c = none →
    s.tlb.countP (fun e => e.cluster == clusterOf s.event.a) < Config.tlbEntries →
    s.walkFrom s.event.c 3 (s.ctxOf s.event.b).2 = .ok lf →
    exec .pageWalk s = .next { s with
      tlb := ⟨clusterOf s.event.a, s.asidOf s.event.b, lf.base, lf.size, lf.pte⟩ :: s.tlb })
  ∧ ∀ s (m : CsmAccess) rest (st : Store), s.csmNet = m :: rest → m.gid = s.event.a → m.stores = [st] → s.event.ecc = .none →
    (∀ g ∈ s.groups, g.left = false) →
    (∀ g, s.group? m.gid = some g → g.spPoison = [] →
      exec .csmRemoteArrival s = .next ({ s with csmNet := rest }.modGroup m.gid fun g =>
        { g with sp := Memory.writeN g.sp (st.addr.toNat % 2 ^ 20) (littleEndian st.size st.data.toNat) }))
    ∧ (s.group? m.gid = none → exec .csmRemoteArrival s = .next { s with csmNet := rest })

/-! # Barriers, the tree, SYNC, WATCH and DOZE, by R67 to R79 and R205 to R211 -/

namespace Sys2Proof.Claims
open Sys2Proof.Machine

def phaseOf (p : Bool) : Word := if p then 1 else 0
/-- The completing arrival sets BAR pending in the threads armed on the barrier, in bunches its waiters name (R73). -/
def barrierReleases (b : Fin 48) (waiters : BitVec 64) (u : Bunch) : Bunch :=
  if waiters.getLsbD u.slot then u.mapThreads fun _ t =>
    if t.armedBar = some b then { t with pend := t.pend ||| 0x10 } else t
  else u
def barrierAfter (x : Bar) (n : Nat) : Bar :=
  if x.arrived + n = x.count then { x with arrived := 0, phase := !x.phase, waiters := 0 } else { x with arrived := x.arrived + n }
/-- Number of executing lanes. -/
def arrivals (s : State) : Nat := (lanesOf s.cur.exec).length

end Sys2Proof.Claims

/-- R73, R206: BAR.ARR adds the run's executing threads and gives each the phase arrived in; the arrival that completes the
count flips the phase and wakes the armed threads. BAR.TST compares phases and arms the threads that find no flip; BAR.CNT
sets the count from the lowest executing lane. -/
def Obligations.BarrierResults : Prop :=
  (∀ s h d b x, s.LaneReady h (opsD [d]) noReads → s.GidsDiffer → s.Settled → s.cur.exec ≠ (0 : Lanes) → h.g.halted = none → untraced h →
    h.g.bars[b.val]? = some x → x.arrived + arrivals s ≤ x.count →
    let full := x.arrived + arrivals s = x.count
    LaneActs (.barArr d b) s
      (s.modGroup h.g.gid fun g => { g with
        bunches := if full then g.bunches.map (barrierReleases b x.waiters) else g.bunches
        bars := g.bars.set b.val (barrierAfter x (arrivals s)) }) h
      (if full then barrierReleases b x.waiters h.b else h.b) (opsD [d]) s.cur.exec (fun _ => s.cur.next) fun _ => [phaseOf x.phase])
  ∧ (∀ s h m a b x, s.LaneReady h { reads := srcReads a 1, dests := [] } noReads → h.g.bars[b.val]? = some x →
    let flipped := fun l => x.phase != (srcWord a h.b l).getLsbD 0
    let waiting := within s.cur.exec fun l => !flipped l
    LaneActs (.barTst m a b) s
      (s.modGroup h.g.gid fun g => if waiting = 0 then g else { g with
        bars := g.bars.modify b.val fun y => { y with waiters := y.waiters ||| (1#64 <<< h.b.slot) } }) h
      ((changeLanes h.b waiting fun _ t => { t with armedBar := some b }).withMask m s.cur.exec flipped)
      { reads := srcReads a 1, dests := [] } s.cur.exec (fun _ => s.cur.next) fun _ => [])
  ∧ ∀ s h a b x l, s.LaneReady h { reads := srcReads a 1, dests := [] } noReads → h.g.bars[b.val]? = some x →
    (lanesOf s.cur.exec).head? = some l → x.arrived = 0 → 1 ≤ (srcWord a h.b l).toNat → (srcWord a h.b l).toNat ≤ h.l.hdr.t →
    LaneActs (.barCnt a b) s
      (s.modGroup h.g.gid fun g => { g with bars := g.bars.modify b.val fun y => { y with count := (srcWord a h.b l).toNat } }) h h.b
      { reads := srcReads a 1, dests := [] } s.cur.exec (fun _ => s.cur.next) fun _ => []

namespace Sys2Proof.Claims
open Sys2Proof.Machine

def launchesDiffer (s : State) : Prop := (s.launches.map fun l => l.id).Nodup
/-- A tag that the launch configures, at its core (R76). -/
def TagHere (h : Here) (t : Fin 8) (x : TreeCore) : Prop := h.l.hdr.span t.val ≠ 0 ∧ h.l.treeAt h.g.core t = some x
def arrivedOn (t : Fin 8) (y : Thread) : Thread := { y with treeArr := y.treeArr ||| (1#8 <<< t.val) }
/-- R77: the fixed times of a release. -/
def treeTime (span : Nat) : Nat := if span = 1 then 12 else if span = 2 then 36 else 110
/-- Every other core of the instance has sent for the phase, or has no thread left (R76). -/
def LastToSend (h : Here) (t : Fin 8) : Prop :=
  ∀ y ∈ h.l.tree, y.tag = t → instanceOf (h.l.hdr.span t.val) y.core = instanceOf (h.l.hdr.span t.val) h.g.core →
    y.core = h.g.core ∨ y.sent = true ∨ y.local_ = 0
/-- A release of a tag reaches a thread, in a bunch that the core's waiter mask names or not (R76, R77). -/
def treeReleased (t : Fin 8) (waits : Bool) (y : Thread) : Thread :=
  { y with treeArr := y.treeArr &&& ~~~ (1#8 <<< t.val)
           pend := if y.armedTag = some t ∧ waits = true then y.pend ||| 0x20 else y.pend }
/-- The waiter mask of a tag at a core names a bunch's slot. -/
def tagWaits (l : Launch) (core : Nat) (t : Fin 8) (b : Bunch) : Bool := (l.treeAt core t).any fun x => x.waiters.getLsbD b.slot

end Sys2Proof.Claims

/-- R76, R77, R207: TREE.ARR counts the executing threads at the core; the arrival that fills the count sends, and the last
send of an instance makes its release due 12, 36 or 110 cycles later. TREE.TST compares phases and arms. The release flips
the phase at every core of the instance and fires TRE. -/
def Obligations.TreeResults : Prop :=
  (∀ s h d t x, s.LaneReady h (opsD [d]) noReads → s.Settled → s.NoSi h.g.core → launchesDiffer s → s.cur.exec ≠ (0 : Lanes) →
    h.g.halted = none → untraced h → TagHere h t x → x.sent = false →
    let b := changeLanes h.b s.cur.exec fun _ => arrivedOn t
    let span := h.l.hdr.span t.val
    (x.arrived + arrivals s < x.local_ →
      LaneActs (.treeArr d t) s
        (s.modLaunch h.l.id fun l => l.setTree { x with arrived := x.arrived + arrivals s }) h b (opsD [d]) s.cur.exec
        (fun _ => s.cur.next) fun _ => [phaseOf x.phase])
    ∧ (x.arrived + arrivals s = x.local_ → LastToSend h t → (∀ y ∈ s.treeDue, y.launch ≠ h.l.id) →
      LaneActs (.treeArr d t) s
        { s.modLaunch h.l.id (fun l => l.setTree { x with arrived := 0, sent := true }) with
          treeDue := s.treeDue ++ [⟨h.l.id, t, instanceOf span h.g.core, s.clock + treeTime span⟩] } h b (opsD [d]) s.cur.exec
        (fun _ => s.cur.next) fun _ => [phaseOf x.phase]))
  ∧ (∀ s h m a t x, s.LaneReady h { reads := srcReads a 1, dests := [] } noReads → s.NoSi h.g.core → launchesDiffer s →
    TagHere h t x → (∀ l : Fin 32, s.cur.exec.getLsbD l.val = true → h.b.threads[l].armedTag ≠ some t) →
    let released := fun l => x.phase != (srcWord a h.b l).getLsbD 0
    let waiting := within s.cur.exec fun l => !released l
    LaneActs (.treeTst m a t) s
      (s.modLaunch h.l.id fun l => if waiting = 0 then l else l.setTree { x with waiters := x.waiters ||| (1#64 <<< h.b.slot) }) h
      ((changeLanes h.b waiting fun _ y => { y with armedTag := some t }).withMask m s.cur.exec released)
      { reads := srcReads a 1, dests := [] } s.cur.exec (fun _ => s.cur.next) fun _ => [])
  ∧ ∀ s (d : TreeDue) rest l, s.treeDue = d :: rest → d ∉ rest → d.launch = s.event.a → d.tag.val = s.event.b → d.inst = s.event.c →
    d.due ≤ s.clock → s.launch? d.launch = some l → s.saved = [] → (∀ g ∈ s.groups, g.launch = l.id → g.dbg.getLsbD 31 = false) →
    exec .treeRelease s = .next ({ s with
        treeDue := rest
        groups := s.groups.map fun (g : Group) => if g.launch = l.id ∧ instanceOf (l.hdr.span d.tag.val) g.core = d.inst then
          { g with bunches := g.bunches.map fun (b : Bunch) => b.mapThreads fun _ => treeReleased d.tag (tagWaits l g.core d.tag b) } else g }.modLaunch
      l.id fun l => { l with tree := l.tree.map fun (y : TreeCore) =>
        if y.tag = d.tag ∧ instanceOf (l.hdr.span d.tag.val) y.core = d.inst then { y with phase := !y.phase, arrived := 0, sent := false, waiters := 0 } else y })

/-- R78, R79, R208: SYNC succeeds where every living member of the mask is in the issued run; where the values differ, or one
leaves out its own lane, every executing lane takes SYNCMASK. -/
def Obligations.SyncResults : Prop :=
  (∀ s h m a (mask : Word) (ok : Bool), s.LaneReady h { reads := srcReads a 1, dests := [] } noReads → s.Settled →
    (∀ l : Fin 32, s.cur.exec.getLsbD l.val = true → srcWord a h.b l = mask ∧ mask.getLsbD l.val = true) →
    (ok = true ↔ ∀ k : Fin 32, mask.getLsbD k.val = true → h.b.threads[k].present = true → h.b.threads[k].st ≠ .exited →
      s.cur.exec.getLsbD k.val = true) →
    LaneActs (.sync m a) s s h (h.b.withMask m s.cur.exec fun _ => ok) { reads := srcReads a 1, dests := [] } s.cur.exec
      (fun _ => s.cur.next) fun _ => [])
  ∧ ∀ s h m a l k, s.LaneReady h { reads := srcReads a 1, dests := [] } noReads → s.cur.run = s.cur.exec →
    s.cur.exec.getLsbD (Fin.val l) = true → s.cur.exec.getLsbD (Fin.val k) = true →
    srcWord a h.b l ≠ srcWord a h.b k ∨ (srcWord a h.b l).getLsbD l.val = false →
    ∃ b', b' = { h.b with regs := b'.regs } ∧ h.b.RegsAfter b' 0 0 [] [] (fun _ => [])
      ∧ exec (.sync m a) s = .next ((s.laneNext h b' (s.gsBits h (fun _ => srcReads a 1) noExc)).deliver h.g.gid s.cur.bunch
          s.cur.pc ((lanesOf s.cur.exec).map fun l => { lane := l, code := 0x0E }))

/-- R209, R67, R69, R211: WATCH of a grain that the L1 holds watches it, one of a UC page watches nothing and leaves EVC
pending. DOZE gives a thread with pending events their bits and clears them; another thread dozes until its deadline, and the
entry for its reason code is taken at the issue (R84; the model's record of it is log 35). -/
def Obligations.WatchAndDozeResults : Prop :=
  (∀ s h a o (p : Fin 32 → Spot), s.LaneReady h { reads := srcReads a 2, dests := [] } noReads →
    (∀ l : Fin 32, s.cur.exec.getLsbD l.val = true → Reaches s h s.cur.bunch l .gl (addressOf .gl a (4 * o.val) h.b l) 4 4 .load (p l)) →
    ((∀ l : Fin 32, s.cur.exec.getLsbD l.val = true → Pte.coh (p l).pte ≠ .uc
        ∧ ∃ b, s.block? h.g.core (s.asidOf h.l.ctx) (p l).addr.toNat = some b ∧ b.pb = (p l).pa / 512 ∧ b.hit ((p l).pa % 512) 4 = true) →
      LaneActs (.watch a o) s s h
        (changeLanes h.b s.cur.exec fun l t => { t with
          watch := some ⟨(p l).addr.toNat / Pte.grain (p l).pte * Pte.grain (p l).pte, s.asidOf h.l.ctx, Pte.grain (p l).pte⟩ })
        { reads := srcReads a 2, dests := [] } s.cur.exec (fun _ => s.cur.next) fun _ => [])
    ∧ ((∀ l : Fin 32, s.cur.exec.getLsbD l.val = true → Pte.coh (p l).pte = .uc) →
      LaneActs (.watch a o) s s h
        (changeLanes h.b s.cur.exec fun _ t => { t with watch := none, pend := t.pend ||| 0x04 })
        { reads := srcReads a 2, dests := [] } s.cur.exec (fun _ => s.cur.next) fun _ => []))
  ∧ ∀ s h d imm, s.LaneReady h (opsD [d]) noReads →
    let asleep := within s.cur.exec fun l => h.b.threads[l].pend == 0
    LaneActs (.doze d imm) s s h
      { changeLanes h.b s.cur.exec fun _ t =>
          if t.pend = 0 then { t with st := .dozing (s.clock + imm.toNat) d s.cur.pc s.issues } else { t with pend := 0 } with
        flights := if asleep = 0 then h.b.flights else
          ⟨s.issues, asleep, [], decide (∀ k : Fin 32, h.b.threads[k].live = true → asleep.getLsbD k.val = true), [d], []⟩
            :: h.b.flights }
      (opsD [d]) (within s.cur.exec fun l => h.b.threads[l].pend != 0) (fun _ => s.cur.next)
      fun l => [.ofNat 32 h.b.threads[l].pend.toNat]

namespace Sys2Proof.Claims
open Sys2Proof.Machine

/-- Threads of a bunch leave their doze: each gets its reason in the register it named, has no event pending, and is no longer
in flight. -/
def Wakes (i : Instr) (s : State) (h : Here) (m : Lanes) (d : Reg) (k : Nat) (reason : Fin 32 → BitVec 8) : Prop :=
  ∃ b', exec i s = .next (s.putBunch h.g.gid s.event.b b')
    ∧ b' = { h.b with
             regs := b'.regs
             threads := b'.threads
             flights := (h.b.flights.map fun f => if f.id = k then { f with lanes := f.lanes &&& ~~~ m } else f).filter
               fun f => f.id != k || f.lanes != 0 }
    ∧ (∀ l : Fin 32, b'.threads[l] = if m.getLsbD l.val then { h.b.threads[l] with st := .running, pend := 0 } else h.b.threads[l])
    ∧ h.b.RegsAfter b' m m [] [d] fun l => [.ofNat 32 (reason l).toNat]

end Sys2Proof.Claims

/-- R67, R69, R70: dozes of a bunch, of one issued run, end when their cycles have passed, and when an armed event has fired:
each thread's reason has the bits of its pending events, and EXP where its cycles have passed by then. -/
def Obligations.DozesEnd : Prop :=
  ∀ s h m d pc k (n : Fin 32 → Nat), s.hereOf s.event.a s.event.b = some h → s.GidsDiffer → h.g.halted = none → m ≠ (0 : Lanes) →
    s.RoomAt h s.event.b [d] → (∀ f ∈ h.b.flights, f.id = k → f.owes = []) → h.b.away = 0 →
    (∀ l : Fin 32, m.getLsbD l.val = true → h.b.threads[l].st = .dozing (n l) d pc k) →
    let reason := fun l : Fin 32 => if n l ≤ s.clock then h.b.threads[l].pend ||| 0x01 else h.b.threads[l].pend
    ((∀ l : Fin 32, m.getLsbD l.val = true ↔ ∃ n r a i, h.b.threads[l].st = .dozing n r a i ∧ n ≤ s.clock) →
      Wakes .dozeExpiry s h m d k reason)
    ∧ ((∀ l : Fin 32, m.getLsbD l.val = true ↔ (∃ n r a i, h.b.threads[l].st = .dozing n r a i) ∧ h.b.threads[l].pend ≠ 0) →
      Wakes .wakeEvent s h m d k reason)

/-! # Announcements and helping, by R217 to R231 -/

namespace Sys2Proof.Claims
open Sys2Proof.Machine

def put32 (m : List Host.Cell) (a : Nat) (w : Word) : List Host.Cell := Memory.writeN m a (littleEndian 4 w.toNat)
def put64 (m : List Host.Cell) (a : Nat) (x : DWord) : List Host.Cell := Memory.writeN m a (littleEndian 8 x.toNat)
/-- A structure of helping at an aligned address of a DIR page that the TLB maps, under the null key (R231), with no copy of its
block in an L1 and no request before it. -/
def HelpPlace (s : State) (h : Here) (a : DWord) (align : Nat) (need : Need) (x : Xl) : Prop :=
  a.toNat % align = 0 ∧ s.Mapped h.g.core h.l.ctx a.toNat need x ∧ Pte.coh x.pte = .dir ∧ windowOf x.pa = .local_ ∧ x.pa < 2 ^ 43
  ∧ s.keyOf (Pte.key x.pte) = 0 ∧ x.pa % align = 0
  ∧ s.NotInL1 (x.pa / 512) ∧ s.Unlocked (x.pa / 512) ∧ ∀ r ∈ s.reqs, r.blk = x.pa / 512 → r.st ≠ .accepted
def Apart (a n b m : Nat) : Prop := a + n ≤ b ∨ b + m ≤ a
/-- No store and no engine command, nothing poisoned, nothing enciphered and no ECC finding stands in the way of indivisible
updates. -/
def HelpQuiet (s : State) (core : Nat) : Prop :=
  s.Settled ∧ s.NoSi core ∧ s.poison = [] ∧ s.EnginesIdle core ∧ s.NullKeyed ∧ s.findingNext = none
/-- A run's helping leaves bytes of memory behind, and of the shared cache and the directory what it will. -/
def HelpActs (i : Instr) (s : State) (mem : List Host.Cell) (h : Here) (x : Bunch) (o : Operands) (w : Lanes) (vals : Fin 32 → List Word) : Prop :=
  ∃ sl hb al, LaneActs i s ({ s with mem := mem, agentLines := al }.recached sl hb) h x o w (fun _ => s.cur.next) vals
/-- The operations and their step counts (R220, R226). -/
def announcements : List ((Reg → Mask → Src → Src → Instr) × Nat × Nat) :=
  [(.annPush, 0, 2), (.annPop, 1, 2), (.annEnq, 2, 2), (.annDeq, 3, 2), (.annAddf, 4, 1), (.annSwapeq, 5, 1)]
def pairOps (d : Reg) (a b : Src) : Operands := { reads := srcReads a 2 ++ srcReads b 2, dests := [d] }
/-- A record's first sixteen bytes after the first transaction (R227): state 1, ticket 2^32 - 1, operation, count. -/
def announced (m : List Host.Cell) (q op n : Nat) : List Host.Cell :=
  put32 (put32 (put32 (put32 m q 1) (q + 4) 0xFFFFFFFF) (q + 8) (.ofNat 32 op)) (q + 12) (.ofNat 32 n)

end Sys2Proof.Claims

/-- R226, R227: an ANN of one executing lane writes the record's head and takes the anchor's next ticket, putting the record
in the ticket's slot; with eight tickets pending the record reads empty again, its mask bit is 0 and vd is not written. -/
def Obligations.Announcing : Prop :=
  ∀ f ∈ announcements, ∀ s h d m a b l x y, s.LaneReady h (pairOps d a b) noReads → s.cur.exec = laneBit l →
    HelpQuiet s h.g.core → HelpPlace s h (srcPair a h.b l) 128 .atomic x → HelpPlace s h (srcPair b h.b l) 64 .atomic y →
    Apart x.pa 128 y.pa 64 →
    let ticket := wordAt s.mem x.pa
    let pending := (ticket - wordAt s.mem (x.pa + 4)).toNat
    let head := announced s.mem y.pa f.2.1 f.2.2
    (pending < 8 → HelpActs (f.1 d m a b) s
      (put32 (put64 (put32 head x.pa (ticket + 1)) (x.pa + 16 + 8 * (ticket.toNat % 8)) (srcPair b h.b l)) (y.pa + 4) ticket)
      h (h.b.withMask m s.cur.exec fun _ => true) (pairOps d a b) s.cur.exec fun _ => [ticket])
    ∧ (8 ≤ pending → HelpActs (f.1 d m a b) s (put32 head y.pa 0)
      h (h.b.withMask m s.cur.exec fun _ => false) (pairOps d a b) 0 fun _ => [])

/-- R229, R230, R220: HELP on an anchor with nothing pending reports status 0 and changes nothing; on a pending add-and-fetch
whose tagged word bears an earlier tag it performs the one step, completes the record with the sum, and serves the ticket.
ANNQ reads a record's state word. -/
def Obligations.HelpingResults : Prop :=
  (∀ s h d a (x : Fin 32 → Xl), s.LaneReady h { reads := srcReads a 2, dests := [d] } noReads → HelpQuiet s h.g.core →
    (∀ l : Fin 32, s.cur.exec.getLsbD l.val = true → HelpPlace s h (srcPair a h.b l) 128 .atomic (x l)
      ∧ wordAt s.mem (x l).pa = wordAt s.mem ((x l).pa + 4)) →
    LaneActs (.help d a) s s h h.b { reads := srcReads a 2, dests := [d] } s.cur.exec (fun _ => s.cur.next)
      fun l => [.ofNat 32 ((wordAt s.mem (x l).pa).toNat * 2 ^ 8)])
  ∧ (∀ s h d a l x y z, s.LaneReady h { reads := srcReads a 2, dests := [d] } noReads → s.cur.exec = laneBit l → HelpQuiet s h.g.core →
    HelpPlace s h (srcPair a h.b l) 128 .atomic x →
    let t := wordAt s.mem (x.pa + 4)
    let q := dwordAt s.mem (x.pa + 16 + 8 * (t.toNat % 8))
    wordAt s.mem x.pa ≠ t → HelpPlace s h q 64 .atomic y → wordAt s.mem y.pa = 1 → wordAt s.mem (y.pa + 4) = t →
    wordAt s.mem (y.pa + 8) = 4 → wordAt s.mem (y.pa + 12) = 1 → HelpPlace s h (dwordAt s.mem (y.pa + 16)) 16 .atomic z →
    Apart x.pa 128 y.pa 64 → Apart x.pa 128 z.pa 16 → Apart y.pa 64 z.pa 16 →
    (wordAt s.mem (z.pa + 12) = t ∧ wordAt s.mem (z.pa + 8) = 0) ∨ 2 ^ 31 ≤ (wordAt s.mem (z.pa + 12) - t).toNat →
    let sum := dwordAt s.mem z.pa + dwordAt s.mem (y.pa + 24)
    let m1 := put32 (put32 (put64 s.mem z.pa sum) (z.pa + 8) 1) (z.pa + 12) t
    let m2 := put64 (put32 m1 y.pa 0x102) (y.pa + 40) sum
    HelpActs (.help d a) s (put64 (put32 m2 (x.pa + 4) (t + 1)) (x.pa + 8) (dwordAt s.mem (x.pa + 8) + 1)) h h.b
      { reads := srcReads a 2, dests := [d] } s.cur.exec fun _ => [.ofNat 32 (t.toNat * 2 ^ 8 + 0x11)])
  ∧ ∀ s h d a (x : Fin 32 → Xl), s.LaneReady h { reads := srcReads a 2, dests := [d] } noReads → HelpQuiet s h.g.core →
    (∀ l : Fin 32, s.cur.exec.getLsbD l.val = true → HelpPlace s h (srcPair a h.b l) 64 .load (x l)) →
    LaneActs (.annq d a) s s h h.b { reads := srcReads a 2, dests := [d] } s.cur.exec (fun _ => s.cur.next)
      fun l => [wordAt s.mem (x l).pa]

/-! # Engines and pickers, by R232 to R269 -/

namespace Sys2Proof.Claims
open Sys2Proof.Machine

/-- A tile descriptor in a scalar pair (R232). -/
def TileIn (b : Bunch) (r : Reg) (t : Tile) : Prop :=
  let lo := b.sregs[r].toNat
  let hi := b.sregs[regNext r 1].toNat
  lo < 2 ^ 20 ∧ hi < 2 ^ 28 ∧ lo % 16 = 0 ∧ hi % 16 = 0 ∧ hi % 2 ^ 16 ≠ 0 ∧ t = ⟨lo, hi % 2 ^ 16, hi / 2 ^ 16 % 2 ^ 12⟩
/-- An entry of the tensor table that the run reads through an uncached page under the null key, and that no command of the
core's engines is to touch (R187, R248, R249). -/
def EntryIn (s : State) (h : Here) (tt : Nat) (e : TEntry) : Prop :=
  tt < h.l.hdr.ttcount ∧ ∃ x, s.Mapped h.g.core h.l.ctx (h.l.hdr.ttbase + 16 * tt) .load x ∧ Pte.coh x.pte = .uc
    ∧ s.NotInL1 (x.pa / 512) ∧ s.NullKeyed ∧ s.keyOf (Pte.key x.pte) = 0 ∧ s.Clean (Pte.key x.pte) x.pa 16
    ∧ (∀ n, s.engineHolds h.g.core n [⟨.gl (s.asidOf h.l.ctx), h.l.hdr.ttbase + 16 * tt, 16⟩] = false)
    ∧ let w := fun k => (wordAt s.mem (x.pa + 4 * k)).toNat
      w 0 < 8 ∧ w 0 % 4 ≠ 3 ∧ w 1 < 2 ^ 20 ∧ w 2 < 2 ^ 16 ∧ w 3 < 2 ^ 20 ∧ w 3 % 4 = 0
      ∧ (w 0 < 4 → w 1 = 0 ∧ w 2 = 0 ∧ w 3 = 0)
      ∧ e = ⟨(match w 0 % 4 with | 0 => .fin | 1 => .nan | _ => .iee), decide (4 ≤ w 0), w 1, w 2, w 3⟩
/-- Formats, bits of an element, whether the tensor entries are read, synchronous or not (R255, R257). -/
def matrixForms : List ((MmaOp → Instr) × MmaFmt × Nat × Bool × Bool) :=
  [(.mmaF16, .f16, 16, false, true), (.mmaF16Async, .f16, 16, false, false), (.mmaBf16, .bf16, 16, false, true),
   (.mmaBf16Async, .bf16, 16, false, false), (.mmaE4m3, .e4m3, 8, true, true), (.mmaE4m3Async, .e4m3, 8, true, false),
   (.mmaE5m2, .e5m2, 8, true, true), (.mmaE5m2Async, .e5m2, 8, true, false), (.mmaI8, .i8, 8, true, true),
   (.mmaI8Async, .i8, 8, true, false), (.mmaI4, .i4, 4, true, true), (.mmaI4Async, .i4, 4, true, false),
   (.mmaQ4, .q4, 4, true, true), (.mmaQ4Async, .q4, 4, true, false)]
/-- The first byte after a B tile, and after the elements of an A row that a step reads (R256). -/
def endB (bits len depth : Nat) (t : Bool) (b : Tile) : Nat :=
  if t then b.base + (16 * len - 1) * b.pitch + (depth * bits + 7) / 8 else b.base + (depth - 1) * b.pitch + 2 * len * bits
def endA (bits k0 depth row : Nat) (a : Tile) : Nat := a.base + row * a.pitch + (k0 + depth) * bits / 8
/-- A run appends a command: nothing else of the module changes but the number the model gives the command, and what the shared
cache holds; the lanes go on, or wait for it. -/
def Appends (i : Instr) (s : State) (h : Here) (o : Operands) (c : Cmd) (aw : Await) : Prop :=
  ∃ b' sl hb, exec i s = .next (({ s with fresh := s.fresh + 1 }.laneNext h b' (s.gsBits h (fun _ => o.reads) fun _ => 0)).recached sl hb)
    ∧ b' = { h.b with regs := b'.regs, threads := b'.threads, mx := { h.b.mx with cmds := h.b.mx.cmds ++ [c] } }
    ∧ h.b.RegsAfter b' s.cur.exec 0 o.marked [] (fun _ => [])
    ∧ ∀ l : Fin 32, b'.threads[l] =
        if s.cur.exec.getLsbD l.val then { h.b.threads[l] with pc := s.cur.next, await := aw, heldAt := none }
        else if s.cur.run.getLsbD l.val then { h.b.threads[l] with pc := s.cur.next, await := .none, heldAt := none } else h.b.threads[l]
/-- What a command of the matrix chain holds besides its operation (R233, R251, R257). -/
def CommandIs (s : State) (h : Here) (op : CmdOp) (sync : Bool) (c : Cmd) : Prop :=
  c.id = s.fresh ∧ c.op = op ∧ c.lanes = s.cur.exec ∧ c.pc = s.cur.pc ∧ c.batch = h.b.mx.commits ∧ c.sync = sync ∧ c.done = false
  ∧ ∀ l : Fin 32, s.cur.exec.getLsbD l.val = true → c.rm[l] = modeOf h l
def matrixCore (h : Here) : Prop := isVector h.g.core = false ∧ h.b.mx.cmds.length < Config.chainPlaces
/-- The scale data of a line lie within the scratchpad (R246, R263). -/
def scaleFits (h : Here) (e : TEntry) (j l : Nat) : Prop :=
  e.sbase + (l * e.spitch + j) + 1 ≤ h.l.hdr.scratch ∧ e.ssbase + 4 * ((l * e.spitch + j) / 256) + 4 ≤ h.l.hdr.scratch

end Sys2Proof.Claims

/-- R233, R255 to R257, R259 to R262: an MMA form, SCACC and ACCADD, their operands within the limits and the chain not
full, append one command with the executing lanes' row indexes or addresses and rounding modes. The lanes of a synchronous
MMA wait for it, their counters past it already, by the model's choice (log 52); the others go on. -/
def Obligations.MatrixAppends : Prop :=
  (∀ f ∈ matrixForms, ∀ s h x ta tb ra rb, s.LaneReady h { reads := srcReads x.vi 1, dests := [] } noReads → s.cur.exec ≠ (0 : Lanes) →
    s.Settled → s.GidsDiffer → matrixCore h → (∀ c ∈ h.b.mx.cmds, c.id < s.fresh) →
    let len := x.lenM1.val + 1
    let depth := 8 * (x.dep.val + 1)
    let k0 := 8 * x.ka.val
    x.f.val + len ≤ h.l.hdr.accum → TileIn h.b x.sa ta → TileIn h.b x.sb tb → endB f.2.2.1 len depth x.t tb ≤ h.l.hdr.scratch →
    (if f.2.2.2.1 then (∃ e, EntryIn s h ta.tt e ∧ ra = e.read) ∧ ∃ e, EntryIn s h tb.tt e ∧ rb = e.read else ra = .iee ∧ rb = .iee) →
    (∀ l : Fin 32, s.cur.exec.getLsbD l.val = true → endA f.2.2.1 k0 depth (srcWord x.vi h.b l).toNat ta ≤ h.l.hdr.scratch) →
    ∃ c, CommandIs s h (.mma f.2.1 x.f.val len ta tb ra rb k0 depth x.t) f.2.2.2.2 c
      ∧ (∀ l : Fin 32, s.cur.exec.getLsbD l.val = true → c.idx[l] = srcWord x.vi h.b l)
      ∧ Appends (f.1 x) s h { reads := srcReads x.vi 1, dests := [] } c (if f.2.2.2.2 then .command s.fresh else .none))
  ∧ (∀ s h x e,
    let o : Operands := { reads := (match x.vi with | some v => srcReads v 1 | none => []), dests := [] }
    s.LaneReady h o noReads → s.cur.exec ≠ (0 : Lanes) → s.Settled → matrixCore h →
    let len := x.lenM1.val + 1
    x.f.val + len ≤ h.l.hdr.accum → x.sf.val + len ≤ h.l.hdr.accum → h.b.sregs[x.sd].toNat < 2 ^ 20 →
    h.b.sregs[regNext x.sd 1].toNat < 2 ^ 28 → EntryIn s h (h.b.sregs[regNext x.sd 1].toNat / 2 ^ 16 % 2 ^ 12) e → e.blk = true →
    (match x.vi with
      | none => ∀ k < 16 * len, scaleFits h e x.j.val k
      | some v => ∀ l : Fin 32, s.cur.exec.getLsbD l.val = true → scaleFits h e x.j.val (srcWord v h.b l).toNat) →
    ∃ c, CommandIs s h (.scacc x.f.val len x.sf.val e x.j.val x.vi.isSome x.clr) false c
      ∧ (∀ v, x.vi = some v → ∀ l : Fin 32, s.cur.exec.getLsbD l.val = true → c.idx[l] = srcWord v h.b l)
      ∧ Appends (.scacc x) s h o c .none)
  ∧ ∀ s h x (p : Fin 32 → Spot) (pieces : Fin 32 → List (Nat × Pte)),
    let spc := atomSpace x.sp
    let len := x.lenM1.val + 1
    let o : Operands := { reads := baseReads spc x.a, dests := [] }
    s.LaneReady h o noReads → s.cur.exec ≠ (0 : Lanes) → matrixCore h → x.f.val + len ≤ h.l.hdr.accum →
    (∀ l : Fin 32, s.cur.exec.getLsbD l.val = true →
      Reaches s h s.cur.bunch l spc (addressOf spc x.a (64 * x.o.val) h.b l) (64 * len) 64 .atomic (p l)
      ∧ (spc = .gl → (pieces l).length = len ∧ ∀ (j : Nat) (y : Nat × Pte), (pieces l)[j]? = some y →
          s.Mapped h.g.core h.l.ctx ((p l).addr.toNat + 64 * j) .atomic ⟨y.1, y.2⟩ ∧ windowOf y.1 = .local_)
      ∧ (spc ≠ .gl → pieces l = [])) →
    ∃ c, CommandIs s h (.accadd x.f.val len x.sp) false c
      ∧ (∀ l : Fin 32, s.cur.exec.getLsbD l.val = true → c.addr[l] = (p l).addr.toNat ∧ c.pa[l] = pieces l
          ∧ (spc ≠ .gl → c.target[l] = (p l).target))
      ∧ Appends (.accadd x) s h o c .none

namespace Sys2Proof.Claims
open Sys2Proof.Machine

def accSpaceOps (x : AccOp) : Operands := { reads := baseReads (atomSpace x.sp) x.a, dests := [] }
/-- The store of a pair of columns, at its place in the 64 bytes. -/
def accStore (s : State) (h : Here) (q : Qual) (p : Spot) (r : AccRow) (l : Fin 32) (c : Fin 8) : Store :=
  retired s h { p with addr := p.addr + .ofNat 64 (8 * c.val), pa := p.pa + 8 * c.val } q 8
    (r.cols[2 * c.val + 1] ++ r.cols[2 * c.val]) l 0
def setAcc (k : Fin 8) (f : Nat → Word) (t : Thread) : Thread :=
  { t with acc := t.acc.set k.val ⟨Vector.ofFn fun c : Fin 16 => f c.val, 0⟩ }

end Sys2Proof.Claims

/-- R238, R261, R258: ACC.ST retires the sixteen columns of an accumulator as eight stores of a column pair, a split that is the
model's choice (log 50); ACC.LD takes sixteen words that the core serves, and ACC.CLR zeros, and both clear the accumulator's
poison. -/
def Obligations.AccumulatorForms : Prop :=
  (∀ s h x (p : Fin 32 → Spot), s.LaneReady h (accSpaceOps x) noReads → s.EnginesIdle h.g.core → s.Settled →
    (wideQ x.q = true → s.NoSi h.g.core) → x.acc.val < h.l.hdr.accum →
    (∀ l : Fin 32, s.cur.exec.getLsbD l.val = true → h.b.threads[l].acc[x.acc].poison = 0
      ∧ Reaches s h s.cur.bunch l (atomSpace x.sp) (addressOf (atomSpace x.sp) x.a (64 * x.o.val) h.b l) 64 64 .store (p l)) →
    LaneActs (.accSt x) s
      { s with stores := (lanesOf s.cur.exec).flatMap fun l =>
                 (List.finRange 8).map (accStore s h x.q (p l) h.b.threads[l].acc[x.acc] l) } h h.b
      (accSpaceOps x) s.cur.exec (fun _ => s.cur.next) fun _ => [])
  ∧ (∀ s h x (p : Fin 32 → Spot) (bs : Fin 32 → List Byte), s.LaneReady h (accSpaceOps x) noReads → s.EnginesIdle h.g.core →
    s.Settled → s.OneBlock → (wideQ x.q = true → s.NoSi h.g.core) → x.acc.val < h.l.hdr.accum →
    (∀ l : Fin 32, s.cur.exec.getLsbD l.val = true →
      Reaches s h s.cur.bunch l (atomSpace x.sp) (addressOf (atomSpace x.sp) x.a (64 * x.o.val) h.b l) 64 64 .load (p l)
      ∧ Holds (s.acquired x.q) h (p l) 64 (bs l)) → (s.cur.exec = 0 → x.q ≠ some .sy) →
    ∃ c, c.Perm s.l1 ∧ LaneActs (.accLd x) s { s.acquired x.q with l1 := c } h
      (changeLanes h.b s.cur.exec fun l => setAcc x.acc fun c => (wordsFrom 16 (bs l)).getD c 0)
      (accSpaceOps x) s.cur.exec (fun _ => s.cur.next) fun _ => [])
  ∧ ∀ s h k, s.LaneReady h (opsD []) noReads → s.EnginesIdle h.g.core → k.val < h.l.hdr.accum →
    LaneActs (.accClr k) s s h (changeLanes h.b s.cur.exec fun _ => setAcc k fun _ => 0) (opsD []) s.cur.exec
      (fun _ => s.cur.next) fun _ => []

namespace Sys2Proof.Claims
open Sys2Proof.Machine

def chainOf (b : Bunch) (e : Eng) : Chain := match e with | .mx => b.mx | .cp => b.cp
def withChain (b : Bunch) (e : Eng) (c : Chain) : Bunch := match e with | .mx => { b with mx := c } | .cp => { b with cp := c }
/-- A batch has completed: every living thread of the bunch has ENG pending (R68, R235). -/
def engineFires (b : Bunch) : Bunch :=
  b.mapThreads fun _ t => if t.present = true ∧ t.st ≠ .exited then { t with pend := t.pend ||| 0x40 } else t
/-- No thread of a core waits for its engines. -/
def NoneWaits (s : State) (core : Nat) : Prop :=
  ∀ g ∈ s.groups, g.core = core → ∀ b ∈ g.bunches, ∀ l : Fin 32, b.threads[l].await ≠ .engine
/-- A copy's card (R264): eight scalar words. -/
def CardAt (b : Bunch) (a : Reg) (ss ds : ASpace) (k : Card) : Prop :=
  let w := fun i => b.sregs[regNext a i]
  k = ⟨(w 1 ++ w 0 : DWord).toNat, (w 3 ++ w 2 : DWord).toNat, (w 4).toNat, (w 5).toNat, (w 6).toNat, (w 7).toNat⟩
  ∧ 0 < k.len ∧ k.len < 2 ^ 24 ∧ k.len % 4 = 0 ∧ 0 < k.rows ∧ k.rows < 2 ^ 16 ∧ k.sp % 4 = 0 ∧ k.dp % 4 = 0
  ∧ (1 < k.rows → k.len ≤ k.dp) ∧ (ss ≠ .gl → w 1 = 0) ∧ (ds ≠ .gl → w 3 = 0)
/-- A subscription's card (R267). -/
def SubAt (b : Bunch) (a : Reg) (ta pa rows w p n : Nat) : Prop :=
  let x := fun i => b.sregs[regNext a i]
  ta = (x 1 ++ x 0 : DWord).toNat ∧ pa = (x 3 ++ x 2 : DWord).toNat ∧ rows = (x 4).toNat ∧ w = (x 5).toNat ∧ p = (x 6).toNat
  ∧ n = (x 7).toNat ∧ ta % 16 = 0 ∧ pa % 16 = 0 ∧ 0 < rows ∧ rows ≤ 1024 ∧ 0 < w ∧ w < 2 ^ 20 ∧ w % 16 = 0 ∧ p % 16 = 0 ∧ w ≤ p ∧ 0 < n

end Sys2Proof.Claims

/-- R264, R265, R235, R267 to R269: COPY of a checked card appends its job; COMMIT closes the open batch, which completes at
once where nothing of it is left; BWAIT lets the run go on where the sequence number has reached n and faults for a batch
not yet closed; SUBS takes a free handle (of several the lowest, which is the model's choice, log 39), or gives 2^32 - 1;
UNSUB ends the subscription a handle names. -/
def Obligations.EngineInstructions : Prop :=
  (∀ s h a ss ds k job, s.here? = some h → CardAt h.b a ss ds k → s.copyJob h k ss ds = (s, .ok job) →
    h.b.cp.cmds.length < Config.chainPlaces →
    job.ss = ss ∧ job.ds = ds ∧ job.sa = k.sa ∧ job.da = k.da ∧ job.len = k.len ∧ job.rows = k.rows ∧ job.spitch = k.sp ∧ job.dpitch = k.dp
    ∧ ∃ c, c.id = s.fresh ∧ c.op = .copy job ∧ c.lanes = s.cur.run ∧ c.batch = h.b.cp.commits ∧ c.pc = s.cur.pc ∧ c.done = false
      ∧ exec (.copy a ss ds) s = .next ({ s with fresh := s.fresh + 1 }.putBunch h.g.gid s.cur.bunch
          (({ h.b with cp := { h.b.cp with cmds := h.b.cp.cmds ++ [c] } } : Bunch).jumpLanes s.cur.run fun _ => s.cur.next)))
  ∧ (∀ s h e, s.here? = some h → NoneWaits s h.g.core →
    let c := chainOf h.b e
    ((∃ x ∈ c.cmds, x.batch = c.seq) → exec (.commit e) s = .next (s.putBunch h.g.gid s.cur.bunch
        ((withChain h.b e { c with commits := c.commits + 1 }).jumpLanes s.cur.run fun _ => s.cur.next)))
    ∧ (c.cmds = [] → c.seq = c.commits → c.cut = none → exec (.commit e) s = .next (s.putBunch h.g.gid s.cur.bunch
        ((engineFires (withChain h.b e { c with commits := c.commits + 1, seq := c.seq + 1 })).jumpLanes s.cur.run
          fun _ => s.cur.next))))
  ∧ (∀ s h e (imm : Word), s.here? = some h →
    let c := chainOf h.b e
    let ahead := (imm - .ofNat 32 c.commits).toNat
    (ahead = 0 ∨ 2 ^ 31 ≤ ahead → ((.ofNat 32 c.seq : Word) - imm).toNat < 2 ^ 31 → BunchDone (.bwait e imm) s h h.b s.cur.next)
    ∧ (1 ≤ ahead → ahead < 2 ^ 31 → exec (.bwait e imm) s = .next (s.bunchFault h 0x17 0)))
  ∧ (∀ s h d a (nslot : Fin 64) (base : BitVec 20) ta pa rows w p n, s.here? = some h → s.GidsDiffer → s.Settled → s.NoSi h.g.core →
    SubAt h.b a ta pa rows w p n →
    base.toNat + 256 + (nslot.val + 1) * ((rows * w + 63) / 64 * 64) ≤ h.l.hdr.scratch →
    ((∀ u ∈ s.subs, u.gid ≠ h.g.gid ∨ u.bunch ≠ s.cur.bunch) →
      exec (.subs d a nslot base) s = .next ({ s with
          fresh := s.fresh + 1
          subs := s.subs ++ [(⟨s.fresh, h.g.gid, s.cur.bunch, 0, base.toNat, nslot.val + 1, ta, pa, rows, w, p, n, 0, false, []⟩ : Sub)] }.putBunch
        h.g.gid s.cur.bunch ((scalarWritten h.b d 0).jumpLanes s.cur.run fun _ => s.cur.next)))
    ∧ ((∀ k < 4, ∃ u ∈ s.subs, u.gid = h.g.gid ∧ u.bunch = s.cur.bunch ∧ u.handle = k) →
      BunchDone (.subs d a nslot base) s h (scalarWritten h.b d 0xFFFFFFFF) s.cur.next))
  ∧ ∀ s h a, s.here? = some h →
    exec (.unsub a) s = .next ({ s with subs := s.subs.map fun (u : Sub) =>
        if u.gid = h.g.gid ∧ u.bunch = s.cur.bunch ∧ u.handle = h.b.sregs[a].toNat then { u with ending := true } else u }.putBunch
      h.g.gid s.cur.bunch (h.b.jumpLanes s.cur.run fun _ => s.cur.next))

namespace Sys2Proof.Claims
open Sys2Proof.Machine

/-- The one command of a bunch of a running group, on a chain: its engine may start it, or has performed it. -/
def OneCommand (s : State) (x : CmdAt) (b : Bunch) : Prop :=
  s.groups = [x.g] ∧ x.g.bunches[x.bi]? = some b ∧ (∀ (i : Nat) (y : Bunch), x.g.bunches[i]? = some y → i ≠ x.bi → y.mx.cmds = [] ∧ y.cp.cmds = [])
  ∧ (match x.e with | .mx => b.mx.cmds = [x.c] ∧ b.cp.cmds = [] | .cp => b.cp.cmds = [x.c] ∧ b.mx.cmds = [])
  ∧ x.c.id = s.event.a ∧ x.g.halted = none
/-- The command is performed, and a matrix engine has served the bunch's slot (R252). -/
def performed (b : Bunch) (x : CmdAt) : Bunch := withChain b x.e { chainOf b x.e with cmds := [{ x.c with done := true }] }
def turnTaken (s : State) (x : CmdAt) (b : Bunch) : State :=
  { s with mxTurn := (x.g.core, b.slot) :: s.mxTurn.filter fun t => t.1 != x.g.core }
/-- Threads changed in their accumulators alone: element c of accumulator k of a lane has a new value, its poison as before. -/
def AccsAre (b b' : Bunch) (val : Fin 32 → Fin 8 → Fin 16 → Word) : Prop :=
  b' = { b with threads := b'.threads } ∧ ∀ l : Fin 32, b'.threads[l] = { b.threads[l] with acc := b'.threads[l].acc }
    ∧ ∀ k : Fin 8, b'.threads[l].acc[k].poison = b.threads[l].acc[k].poison ∧ ∀ c : Fin 16, b'.threads[l].acc[k].cols[c] = val l k c
/-- The eight products of a group, and all groups of a step (R234, R240). -/
def matrixValue (g : Group) (fmt : MmaFmt) (ra rb : Reading) (a b : Tile) (row k0 depth : Nat) (t : Bool) (c : Nat) (rm : RM) (old : Word) : Word :=
  .ofNat 32 ((List.range (depth / 8)).foldl (fun x i =>
    groupStep rm x ((List.range 8).map fun j =>
      mulExact (g.elem fmt ra a row (k0 + (8 * i + j)))
        (if t then g.elem fmt rb b c (8 * i + j) else g.elem fmt rb b (8 * i + j) c))) old.toNat)
def inSpan (f len : Nat) (k : Fin 8) : Prop := f ≤ k.val ∧ k.val < f + len

end Sys2Proof.Claims

/-- R234, R252, R260, R262, R265, R235: an engine performs the one command of its bunch. A matrix step and a SCACC change the
elements of their span in their lanes; an ACCADD of a scratchpad adds an accumulator's columns to sixteen words; a copy within
the scratchpad brings each source byte to its destination. A performed command retires: its batch completes, its lanes go on. -/
def Obligations.EngineSteps : Prop :=
  (∀ s x b fmt f len ta tb ra rb k0 depth t, OneCommand s x b → x.e = .mx → x.c.done = false → s.Settled → s.NoSi x.g.core →
    x.c.op = .mma fmt f len ta tb ra rb k0 depth t → f + len ≤ 8 → x.g.spPoison = [] →
    ∃ b', exec .mmaExecute s = .next ((turnTaken s x b).putBunch x.g.gid x.bi b')
      ∧ AccsAre (performed b x) b' fun l k c => if x.c.lanes.getLsbD l.val = true ∧ f ≤ k.val ∧ k.val < f + len then
          matrixValue x.g fmt ra rb ta tb x.c.idx[l].toNat k0 depth t (16 * (k.val - f) + c.val) x.c.rm[l] b.threads[l].acc[k].cols[c]
        else b.threads[l].acc[k].cols[c])
  ∧ (∀ s x b f len sf e j rows clr, OneCommand s x b → x.e = .mx → x.c.done = false → s.Settled → s.NoSi x.g.core →
    x.c.op = .scacc f len sf e j rows clr → f + len ≤ 8 → sf + len ≤ 8 → f + len ≤ sf ∨ sf + len ≤ f → x.g.spPoison = [] →
    (∀ l : Fin 32, ∀ k : Fin 8, b.threads[l].acc[k].poison = 0) →
    ∃ b', exec .scaccExecute s = .next ((turnTaken s x b).putBunch x.g.gid x.bi b')
      ∧ AccsAre (performed b x) b' fun l k c =>
          let old := b.threads[l].acc[k].cols[c]
          let n := 16 * (k.val - f) + c.val
          let line := if rows then x.c.idx[l].toNat else n
          let scale := fp32.finish x.c.rm[l] (mulExact ((ue5m3 e.read).read (Memory.read x.g.sp (e.sbase + (line * e.spitch + j))).toNat)
            (fp32.read (valueOf (Memory.readN x.g.sp (e.ssbase + 4 * ((line * e.spitch + j) / 256)) 4))))
          if x.c.lanes.getLsbD l.val = true ∧ f ≤ k.val ∧ k.val < f + len then
            .ofNat 32 (fused fp32 x.c.rm[l] old.toNat (b.threads[l].acc[(Fin.ofNat 8 (sf + (k.val - f)))].cols[c]).toNat scale.code).code
          else if x.c.lanes.getLsbD l.val = true ∧ clr = true ∧ sf ≤ k.val ∧ k.val < sf + len then 0
          else old)
  ∧ (∀ s x b f l, OneCommand s x b → x.e = .mx → x.c.done = false → s.Settled → s.NoSi x.g.core → x.c.op = .accadd f 1 .sp → f < 8 →
    x.c.lanes = laneBit l → x.g.spPoison = [] → b.threads[l].acc[(Fin.ofNat 8 f)].poison = 0 → x.c.addr[l] < 2 ^ 20 →
    exec .accaddExecute s = .next (((turnTaken s x b).modGroup x.g.gid fun g => { g with
        sp := Memory.writeN g.sp x.c.addr[l] (wordBytesOf ((List.finRange 16).map fun c =>
          .ofNat 32 (fp32.finish .rne (addExact .rne (fp32.read (valueOf (Memory.readN x.g.sp (x.c.addr[l] + 4 * c.val) 4)))
            (fp32.read (b.threads[l].acc[(Fin.ofNat 8 f)].cols[c]).toNat))).code)) }).putBunch x.g.gid x.bi (performed b x)))
  ∧ (∀ s x b (job : CopyJob), OneCommand s x b → x.e = .cp → x.c.done = false → s.Settled → s.NoSi x.g.core → x.c.op = .copy job →
    job.ss = .sp → job.ds = .sp → job.sgid = x.g.gid → job.dgid = x.g.gid → x.g.spPoison = [] → Memory.wf x.g.sp = true → job.len % 4 = 0 →
    job.sa % 4 = 0 → job.da % 4 = 0 → job.spitch % 4 = 0 → job.dpitch % 4 = 0 →
    (∀ r < job.rows, job.sa + r * job.spitch + job.len ≤ 2 ^ 20 ∧ job.da + r * job.dpitch + job.len ≤ 2 ^ 20) →
    (1 < job.rows → job.len ≤ job.dpitch) →
    (∀ r < job.rows, ∀ q < job.rows, Apart (job.sa + r * job.spitch) job.len (job.da + q * job.dpitch) job.len) →
    ∃ m, exec .copyJobExecute s = .next ((s.modGroup x.g.gid fun g => { g with sp := m }).putBunch x.g.gid x.bi (performed b x))
      ∧ (∀ r < job.rows, ∀ i < job.len, Memory.read m (job.da + r * job.dpitch + i) = Memory.read x.g.sp (job.sa + r * job.spitch + i))
      ∧ ∀ a, (∀ r < job.rows, a < job.da + r * job.dpitch ∨ job.da + r * job.dpitch + job.len ≤ a) → Memory.read m a = Memory.read x.g.sp a)
  ∧ ∀ s x b, OneCommand s x b → x.c.done = true → x.g.left = false → NoneWaits s x.g.core →
    let c := chainOf b x.e
    x.c.batch = c.seq → c.seq + 1 = c.commits → c.cut = none →
    exec .engineCommandRetire s = .next (s.putBunch x.g.gid x.bi
      ((engineFires (withChain b x.e { c with cmds := [], seq := c.seq + 1 })).mapThreads fun _ t =>
        if t.await = .command x.c.id then { t with await := .none } else t))

namespace Sys2Proof.Claims
open Sys2Proof.Machine

/-- The one subscription of the module, of a running group. -/
def OneSub (s : State) (u : Sub) (g : Group) : Prop :=
  s.subs = [u] ∧ u.id = s.event.a ∧ u.ending = false ∧ s.group? u.gid = some g ∧ g.left = false ∧ g.halted = none
/-- The state word of a slot of a ring: its status in bits [31:30], its tile below (R267). -/
def slotState (st k : Nat) : Word := .ofNat 32 (st * 2 ^ 30 + k % 2 ^ 30)
def stateAt (g : Group) (u : Sub) (k : Nat) : Nat := (wordAt g.sp (u.rbase + 4 * (k % u.nslot))).toNat / 2 ^ 30

end Sys2Proof.Claims

/-- R268, R269: a picker fills the FREE slot due next with its tile (here one row of sixteen bytes) and marks it FULL; a slot
handed back as DONE, of a card without a pull-back address, becomes FREE, and the last tile's ends the subscription; an
ended subscription that the pickers acknowledge is gone. -/
def Obligations.PickerSteps : Prop :=
  (∀ s u g x, OneSub s u g → u.full = [] → u.trows = 1 → u.w = 16 → u.next < u.n → stateAt g u u.next = 0 → g.spPoison = [] →
    s.Mapped g.core (s.ctxOfGroup g) (u.taddr + u.next * u.pitch) .load x → windowOf x.pa = .local_ → s.Clean (Pte.key x.pte) x.pa 16 →
    s.poison = [] →
    ∃ sl hb, exec .pickerFill s = .next ({ s.modGroup u.gid (fun g => { g with
        sp := put32 (Memory.writeN g.sp (u.rbase + 256 + u.next % u.nslot * 64) (Memory.readN s.mem x.pa 16))
          (u.rbase + 4 * (u.next % u.nslot)) (slotState 1 u.next)
        spPoison := poisonAfter (poisonAfter g.spPoison (u.rbase + 256 + u.next % u.nslot * 64) 16) (u.rbase + 4 * (u.next % u.nslot)) 4 })
      with subs := [{ u with next := u.next + 1, full := [u.next] }] }.recached sl hb))
  ∧ (∀ s u g k rest, OneSub s u g → u.full = k :: rest → k ∉ rest → u.paddr = 0 → stateAt g u k = 2 → g.spPoison = [] →
    exec .pickerPullback s = .next { s.modGroup u.gid (fun g => { g with
        sp := put32 g.sp (u.rbase + 4 * (k % u.nslot)) (slotState 0 k)
        spPoison := poisonAfter g.spPoison (u.rbase + 4 * (k % u.nslot)) 4 }) with
      subs := [{ u with full := rest, ending := decide (k + 1 = u.n) }] })
  ∧ ∀ s, exec .pickerAcknowledge s = .next { s with subs := s.subs.filter fun (u : Sub) => decide (u.id ≠ s.event.a ∨ u.ending = false) }

/-! # The easels, by R276 to R289 and R292 -/

namespace Sys2Proof.Claims
open Sys2Proof.Machine

/-- No L1 holds a block, no word of memory is marked, and nothing lies enciphered. -/
def Bare (s : State) : Prop := s.l1 = [] ∧ s.poison = [] ∧ s.NullKeyed
/-- The same module as another but for what the shared cache, HBM behind it and the directory hold. -/
def Beside (t u : State) : Prop := ∃ sl hb al, u = { t.recached sl hb with agentLines := al }
/-- A step makes a state of the module, but for what the shared cache and the directory hold after its writes. -/
def Does (i : Instr) (s t : State) : Prop := ∃ u, exec i s = .next u ∧ Beside t u
/-- No byte of some lies in the device window. -/
def NoDevice (a n : Nat) : Prop := ∀ k < n, windowOf (a + k) ≠ .device
/-- The context's table entry has been read (R281). -/
def InUse (s : State) (ctx : Nat) : Prop := ∃ e ∈ s.ctxCache, e.1 = ctx
def halves (x : DWord) : List Word := [x.setWidth 32, (x >>> 32).setWidth 32]
/-- The words of journal entry n of an easel (R279). -/
def journalWords (n : DWord) (st q op : Nat) (index : Word) (status cyc : Nat) : List Word :=
  halves (n + 1) ++ [.ofNat 32 (st * 2 ^ 28 + q * 256 + op), index, .ofNat 32 status, 0] ++ halves (.ofNat 64 cyc)
def journalPlace (s : State) (e : Fin 8) : Nat := s.dev.jbase[e].toNat + 32 * (s.dev.jcount[e].toNat % 65536)
def journaled (s : State) (e : Fin 8) (st q op : Nat) (index : Word) (status : Nat) : State :=
  { s with
    mem := Memory.writeN s.mem (journalPlace s e) (wordBytesOf (journalWords s.dev.jcount[e] st q op index status s.ecyc[e]))
    dev := { s.dev with jcount := s.dev.jcount.set e.val (s.dev.jcount[e] + 1) } }
/-- Entry q of the queue table (R276). -/
def queuePlace (s : State) (q : Nat) : Nat := s.dev.qtbase.toNat + 32 * q
def counted (s : State) (a : Nat) : State := { s with mem := put32 s.mem a (wordAt s.mem a + 1) }
/-- The end of a command (R279): the journal entry, then DONE. -/
def posted (s : State) (e : Fin 8) (c : Command) (status : Nat) : State :=
  counted (journaled s e (if status = 0 then 2 else 3) c.queue c.op c.index status) (queuePlace s c.queue + 24)
def ended (s : State) (e : Fin 8) (c : Command) (status : Nat) : State :=
  { posted s e c status with commands := s.commands.filter fun x => x.id != c.id }
/-- An easel's journal and a queue's entry lie in memory, of which no L1 holds a line. -/
def Tables (s : State) (e : Fin 8) (q : Nat) : Prop :=
  Bare s ∧ q < 16384 ∧ NoDevice (journalPlace s e) 32 ∧ NoDevice (queuePlace s q) 32
/-- The event's command, of an OP, served by an easel. -/
def CommandOf (s : State) (e : Fin 8) (c : Command) (op : Nat) : Prop :=
  s.commands.find? (fun x => x.id == s.event.a) = some c ∧ c.op = op ∧ c.easel = e.val ∧ Tables s e c.queue ∧ InUse s c.ctx
/-- It has not started, and of its queue no earlier entry has still to start (R278). -/
def Startable (s : State) (c : Command) : Prop :=
  c.started = false ∧ ∀ x ∈ s.commands, x.queue = c.queue → x.started = false → c.id ≤ x.id
def startedWith (s : State) (c : Command) (f : Command → Command) : State :=
  { s with commands := s.commands.map fun (x : Command) => if x.id = c.id then f { x with started := true } else x }
def started (s : State) (c : Command) : State := startedWith s c id
/-- A launch enters the palette, where a cycle ranks it: that of its command's acceptance, or of a firing (R284). -/
def inPalette (s : State) (c : Command) (cycle : Nat) (src : Source) (h : Header) (starts : List (DWord × List Word)) : State :=
  { s with
    fresh := s.fresh + 1
    launches := s.launches ++ [({
      id := s.fresh, ctx := c.ctx, queue := c.queue, index := c.index, prio := c.prio, easel := c.easel, order := cycle,
      source := src, hdr := h, starts := starts, windows := [], tree := [], next := 0, ended := 0, withdrawn := false,
      origin := none, released := false, reserved := [], waiting := [], finished := false } : Launch)] }
/-- An entry of the queue table keeps the layout of R276. -/
def LaidOut (s : State) (q : Nat) : Prop :=
  let w := (wordAt s.mem (queuePlace s q + 8)).toNat
  w / 2 ^ 28 = 0 ∧ w / 2 ^ 12 % 16 = 0 ∧ w / 2 ^ 7 % 2 = 0 ∧ 4 ≤ w % 16 ∧ w % 16 ≤ 14 ∧ wordAt s.mem (queuePlace s q + 12) = 0
  ∧ wordAt s.mem (queuePlace s q + 28) = 0
/-- What a LAUNCH captures at acceptance: its header, or the status that its reading, or its check against an empty module, fails
it with (R282, R283). -/
def captured (s : State) (ctx op : Nat) (a : DWord) : Option (Nat ⊕ Header) :=
  if op = 1 then
    some (match s.readHeader ctx a false with | .ok h => (if h.placeable = true then .inr h else .inl 3) | .error st => .inl st)
  else none
/-- An enabled entry of the queue table in the layout of R276. -/
def QueueEntry (s : State) (q : Nat) (e : Fin 8) (ctx prio log2 : Nat) : Prop :=
  let b := queuePlace s q
  wordAt s.mem (b + 8) = .ofNat 32 (ctx * 65536 + 2048 + e.val * 256 + prio * 16 + log2) ∧ wordAt s.mem (b + 12) = 0
  ∧ wordAt s.mem (b + 28) = 0 ∧ ctx < 4096 ∧ prio < 8 ∧ 4 ≤ log2 ∧ log2 ≤ 14
/-- Operands within the limits of R278 and R292; those a command does not have are 0. -/
def WellOperated (op : Nat) (a b c d : DWord) : Prop :=
  let page := a.toNat % 32768 = 0
  let n := b.toNat
  (op = 1 ∧ n % 8 = 0 ∧ d = 0) ∨ (op = 2 ∧ 1 ≤ n ∧ n ≤ 65536 ∧ c.toNat % 8 = 0) ∨ (op = 3 ∧ b = 0 ∧ c = 0 ∧ d = 0)
  ∨ (op = 4 ∧ page ∧ 1 ≤ n ∧ n ≤ 2 ^ 20 ∧ c = 0 ∧ d = 0) ∨ (op = 5 ∧ page ∧ c = 0 ∧ d = 0)
  ∨ (op = 6 ∧ page ∧ (n ≤ 63 ∨ n = 0xFFFF) ∧ c = 0 ∧ d = 0) ∨ (op = 7 ∧ 1 ≤ a.toNat ∧ a.toNat ≤ 8191 ∧ c = 0 ∧ d = 0)
  ∨ (op = 8 ∧ a = 0 ∧ b = 0 ∧ c = 0 ∧ d = 0)
def clearBit (p : DWord) (k : Nat) : DWord := .ofNat 64 (if p.getLsbD k then p.toNat - 2 ^ k else p.toNat)

end Sys2Proof.Claims

/-- R276 to R279, R282, R283: an easel that examines a queue leaves a disabled or an unpublished one alone, logs a malformed entry,
enabled or not, once until it reads it well-formed, and accepts a published entry: the journal's ACCEPTED entry, then CONS, and
the command is there, of a LAUNCH with its header captured; one of an unknown OP ends at once with BADOP. A LAUNCH whose header
cannot be read, breaks a limit or does not fit an empty module ends at once too, by the model's reading (log 65). A poll examines
the queues, and the next is due within 65 536 cycles. -/
def Obligations.QueuesExamined : Prop :=
  (∀ s q, s.event.a = q → q < 16384 → s.hbm = [] → NoDevice (queuePlace s q) 32 → LaidOut s q →
    (wordAt s.mem (queuePlace s q + 8)).getLsbD 11 = false →
    exec .doorbell s = .next { s with malformed := s.malformed.filter fun x => x != q })
  ∧ (∀ s q, s.event.a = q → q < 16384 → s.hbm = [] → NoDevice (queuePlace s q) 32 → ¬ LaidOut s q →
    (q ∈ s.malformed → exec .doorbell s = .next s)
    ∧ (q ∉ s.malformed → ∃ t, exec .doorbell s = .next t ∧ t.malformed = s.malformed ++ [q] ∧ t.dev.elcount = s.dev.elcount + 1
        ∧ t.commands = s.commands ∧ t.dev.jcount = s.dev.jcount))
  ∧ (∀ s q e ctx prio log2 bs op (a b c d : DWord), s.event.a = q → Tables s e q → QueueEntry s q e ctx prio log2 →
    s.malformed = [] → s.ringFaulted = [] → InUse s ctx →
    let i := wordAt s.mem (queuePlace s q + 20)
    let ring := (dwordAt s.mem (queuePlace s q)).toNat
    s.readStruct ctx (ring + 64 * (i.toNat % 2 ^ log2)) 64 = .ok bs →
    ((.ofNat 32 (valueOf (bs.take 4)) : Word) ≠ i + 1 → exec .doorbell s = .next s)
    ∧ (op < 256 → bs = wordBytesOf ([i + 1, .ofNat 32 op] ++ halves a ++ halves b ++ halves c ++ halves d ++ List.replicate 6 0) →
      let k : Command := ⟨s.fresh, s.clock, q, i, e.val, prio, ctx, op, a, b, c, d, false, captured s ctx op a, none, 0⟩
      let j := journaled { s with fresh := s.fresh + 1 } e 1 q op i 0
      let t : State := { j with mem := put32 j.mem (queuePlace s q + 20) (i + 1), commands := s.commands ++ [k] }
      ∀ u, (WellOperated op a b c d ∧ (op = 1 → ∃ h, captured s ctx op a = some (.inr h)) ∧ u = t)
          ∨ (∃ st, op = 1 ∧ b = 0 ∧ d = 0 ∧ captured s ctx op a = some (.inl st) ∧ (∀ x ∈ s.commands, x.id ≠ s.fresh)
            ∧ NoDevice (journalPlace t e) 32 ∧ u = ended t e k st)
          ∨ ((op = 0 ∨ 8 < op) ∧ (∀ x ∈ s.commands, x.id ≠ s.fresh) ∧ NoDevice (journalPlace t e) 32 ∧ u = ended t e k 1) →
      ∀ bs', (∀ u', Beside u u' → u'.hbm = [] → u'.readStruct ctx (ring + 64 * ((i + 1).toNat % 2 ^ log2)) 64 = .ok bs') →
        wordAt u.mem (queuePlace s q + 20) = i + 1 → (.ofNat 32 (valueOf (bs'.take 4)) : Word) ≠ i + 2 →
        Does .doorbell s u))
  ∧ ∀ s (e : Fin 8), s.event.a = e.val → ∃ t, exec .queuePollExpiry s = .next t
    ∧ t.nextPoll = s.nextPoll.set e.val (s.ecyc[e] + 65536)
    ∧ ((∀ x ∈ s.mem, x.1 < s.dev.qtbase.toNat ∨ s.dev.qtbase.toNat + 32 * 16384 ≤ x.1) →
        t = { s with nextPoll := s.nextPoll.set e.val (s.ecyc[e] + 65536) })

/-- R278, R280, R282, R285, R286, R189, R160, R281, R289, R292: each command starts, where no earlier entry of its queue has still
to: a LAUNCH enters the palette with the header it captured; a GRAPH's one node does; a BASKET opens, or closes the open one, and
fails with BADHDR where its descriptor breaks a limit; a SETTLE takes the SI blocks of its pages back; a TLBINV takes translations
away; a MIGRATE marks the page's entry invalid or is refused; a KEYLOAD unwraps its key; a WAIT ends once no earlier command of
its queue is left. Three clauses are the model's choice: a LAUNCH that has captured no header fails where it does come to its turn
(at acceptance already, log 65), a KEYLOAD reads 72 bytes (log 13), and pages count in units of 32 KiB (log 75). -/
def Obligations.CommandsStart : Prop :=
  (∀ s e c, CommandOf s e c 1 → Startable s c → c.b = 0 →
    (∀ st, c.hdr = some (.inl st) → Does .launch s (ended s e c st))
    ∧ ∀ h, c.hdr = some (.inr h) → exec .launch s = .next (inPalette (started s c) c c.cycle (.entry c.id) h []))
  ∧ (∀ s e c, CommandOf s e c 2 → Startable s c →
    (c.a.toNat % 128 ≠ 0 → c.c = 0 → Does .graph s (ended s e c 2))
    ∧ ∀ hd h, c.a.toNat % 128 = 0 → c.b = 1 → s.readStruct c.ctx c.a.toNat 128 = .ok (wordBytesOf (halves hd ++ List.replicate 30 0)) →
      (∀ g ∈ s.graphs, g.cmd ≠ c.id) → s.readHeader c.ctx hd false = .ok h → h.placeable = true →
      exec .graph s = .next (inPalette { started s c with
        graphs := s.graphs ++ [(⟨c.id, [⟨hd, false, 0, .running s.fresh⟩], []⟩ : Graph)] } c c.cycle (.node c.id 0) h []))
  ∧ (∀ s e c, CommandOf s e c 3 → Startable s c →
    (c.a.toNat % 64 ≠ 0 → Does .basket s (ended s e c 2))
    ∧ ∀ hd ring log2 n (d reserve cons : Nat) h, c.a.toNat % 64 = 0 → log2 < 32 → n < 64 → d < 2 ^ 20 →
      reserve < 2 ^ 32 → cons < 2 ^ 32 → s.readStruct c.ctx c.a.toNat 64 = .ok (wordBytesOf
        (halves hd ++ halves ring ++ [.ofNat 32 (log2 * 256 + n), .ofNat 32 d, .ofNat 32 reserve, .ofNat 32 cons] ++ List.replicate 8 0)) →
      let kept := ring.toNat % 64 = 0 ∧ 4 ≤ log2 ∧ log2 ≤ 12 ∧ n ≤ 32 ∧ 1 ≤ d
      (¬ kept → Does .basket s (ended s e c 2))
      ∧ (kept → n = 0 → (∀ b ∈ s.baskets, b.desc ≠ c.a) → Does .basket s (ended s e c 0))
      ∧ (kept → 1 ≤ n → (∀ b ∈ s.baskets, b.desc ≠ c.a) → s.readHeader c.ctx hd true = .ok h → { h with t := 32 * n, exts := [32, n] }.placeable = true →
        exec .basket s = .next { started s c with baskets := s.baskets ++ [(⟨c.id, c.a, h, ring, log2, n, d, cons, [], 0⟩ : Basket)] }))
  ∧ (∀ s e c, CommandOf s e c 4 → Startable s c → s.stores = [] → 1 ≤ c.b.toNat →
    let inside := fun (b : Block) => b.asid = s.asidOf c.ctx ∧ c.a.toNat ≤ b.vb * 512 ∧ b.vb * 512 < c.a.toNat + 32768 * c.b.toNat
      ∧ Pte.coh b.pte = .si
    exec .settle s = .next (startedWith s c fun x => { x with count := 0 })
    ∧ ∀ b, inside b → windowOf (b.pb * 512) ≠ .device → s.linkDown (b.pb * 512) = false → Memory.wf s.mem = true →
      ∃ t, exec .settle { s with l1 := [b] } = .next t ∧ t.l1 = [] ∧ t.commands = (startedWith s c fun x => { x with count := 0 }).commands
      ∧ (∀ i : Fin 16, ∀ k < 32, Memory.read t.mem (b.pb * 512 + 32 * i.val + k) =
          if b.dirty.getLsbD i.val then Memory.read b.data (32 * i.val + k) else Memory.read s.mem (b.pb * 512 + 32 * i.val + k))
      ∧ ∀ a, a < b.pb * 512 ∨ b.pb * 512 + 512 ≤ a → Memory.read t.mem a = Memory.read s.mem a)
  ∧ (∀ s e c, CommandOf s e c 5 → Startable s c → s.moves = [] → s.stores = [] → NoDevice (s.dev.ctxbase.toNat + 16 * c.ctx) 8 →
    let entry := dwordAt s.mem (s.dev.ctxbase.toNat + 16 * c.ctx)
    exec .tlbinv s = .next { started s c with
      tlb := s.tlb.filter fun x => decide (x.asid ≠ s.asidOf c.ctx
        ∨ (c.b ≠ 0 ∧ (c.a.toNat + 32768 * c.b.toNat ≤ x.base ∨ x.base + x.size ≤ c.a.toNat)))
      ctxCache := if c.b = 0 then (s.ctxCache.filter fun x => x.1 != c.ctx)
          ++ [(c.ctx, entry.toNat / 2 ^ 52, entry.toNat / 2 ^ 15 % 2 ^ 37 * 2 ^ 15)] else s.ctxCache })
  ∧ (∀ s e c, CommandOf s e c 6 → Startable s c →
    ((63 < c.b.toNat ∧ c.b.toNat ≠ 0xFFFF) ∨ (c.b ≠ 0 ∧ c.b ≠ 0xFFFF ∧ c.b = s.dev.modnum) → Does .migrate s (ended s e c 1))
    ∧ ∀ lf a w, c.a.toNat < 2 ^ 57 → ((c.b.toNat ≤ 63 ∧ (c.b = 0 ∨ c.b ≠ s.dev.modnum) ∧ w = c.b.toNat) ∨ (c.b = 0xFFFF ∧ w = 0x80)) →
      s.walkFrom c.a.toNat 3 (s.ctxOf c.ctx).2 = .ok lf → s.leavesOf (Pte.pa lf.pte, lf.size) = [(a, Pte.pa lf.pte, lf.size)] →
      s.stores = [] →
      s.linkDown (w * 2 ^ 44) = false → s.linkDown (Pte.pa lf.pte) = false → a % 8 = 0 → windowOf a ≠ .device →
      ((Pte.settled lf.pte = true ∧ s.moves = []) ∨ s.moves = [(Pte.pa lf.pte, lf.size, 3)] →
        Does .migrate s (ended { s with
          mem := put64 s.mem a (dwordAt s.mem a ||| (1 <<< 13 : DWord)), moves := [(Pte.pa lf.pte, lf.size, 4)] } e c 7))
      ∧ (Pte.settled lf.pte = false → s.moves = [] → ∃ dest, dest / 2 ^ 44 = w ∧ dest % lf.size = 0
        ∧ Does .migrate s { started s c with
            mem := put64 s.mem a (clearBit (dwordAt s.mem a) 0)
            tlb := s.tlb.filter fun x => decide (Pte.pa x.pte + x.size ≤ Pte.pa lf.pte ∨ Pte.pa lf.pte + lf.size ≤ Pte.pa x.pte)
            fresh := s.fresh + 1, migrations := s.migrations ++ [(⟨c.id, Pte.pa lf.pte, dest, lf.size, [a], []⟩ : Migration)] }))
  ∧ (∀ s e c bs, CommandOf s e c 7 → Startable s c → s.stores = [] → s.readStruct c.ctx c.b.toNat 72 = .ok bs →
    match Config.unwrapKey bs with
    | none => Does .keyload s (ended s e c 8)
    | some k => exec .keyload s = .next (startedWith s c fun x => { x with key := some k }))
  ∧ ∀ s e c, CommandOf s e c 8 →
    ((∀ x ∈ s.commands, x.queue = c.queue → c.id ≤ x.id) → Does .wait s (ended s e c 0))
    ∧ ((∃ x ∈ s.commands, x.queue = c.queue ∧ x.id < c.id) → exec .wait s = .next s)

namespace Sys2Proof.Claims
open Sys2Proof.Machine

/-- The launch the event names, every group of which has exited (R278), and nothing of it is on its way. -/
def LaunchDone (s : State) (l : Launch) (lid : Nat) : Prop :=
  s.launches.find? (fun x => x.id == lid) = some l ∧ l.next = l.hdr.ngroup ∧ l.ended = l.hdr.ngroup ∧ l.origin = none
  ∧ (∀ g ∈ s.groups, g.launch ≠ l.id) ∧ s.Settled
def without (s : State) (l : Launch) : State := { s with launches := s.launches.filter fun x => x.id != l.id }
/-- No engine holds a command. -/
def NoCommands (s : State) : Prop := ∀ g ∈ s.groups, ∀ b ∈ g.bunches, b.mx.cmds = [] ∧ b.cp.cmds = []

end Sys2Proof.Claims

/-- R278, R279, R285, R189, R160, R266, R289, R292, R309: each command ends: a LAUNCH whose groups have exited writes its
completion word after the journal, and fails with HALTED once its groups are dumped; a GRAPH ends with its last node; SETTLE
reports its count and ends (where the report stands is the model's choice, log 29); TLBINV and KEYLOAD end; a MIGRATE's page is
at its new home, which the entries name. -/
def Obligations.CommandsEnd : Prop :=
  (∀ s e c l, CommandOf { s with event := { s.event with a := c.id } } e c 1 → LaunchDone s l s.event.a → l.source = .entry c.id →
    (c.b = 0 → Does .launchComplete s (ended (without s l) e c 0))
    ∧ ∀ x, c.b ≠ 0 → c.b.toNat % 8 = 0 → (posted (without s l) e c 0).easelXlate c.ctx c.b.toNat .store = .ok x → windowOf x.pa ≠ .device →
      s.keyOf (Pte.key x.pte) = 0 →
      Does .launchComplete s { ended (without s l) e c 0 with mem := put64 (ended (without s l) e c 0).mem x.pa c.c })
  ∧ (∀ s e c l, CommandOf { s with event := { s.event with a := c.id } } e c 1 → s.launches.find? (fun x => x.id == s.event.a) = some l →
    l.source = .entry c.id → c.b = 0 → (∃ o, l.origin = some o) → l.finished = false → s.haltMsgs = [] → s.saved = [] → s.Settled →
    (∃ g ∈ s.groups, g.launch = l.id) →
    (∀ g ∈ s.groups, g.launch = l.id → ∃ h, g.halted = some h ∧ h.dumped = true) →
    Does .launchComplete s (ended { s with
      launches := s.launches.map fun x => if x.id = l.id then { x with finished := true, windows := [] } else x } e c 6))
  ∧ (∀ s e c l n, CommandOf s e c 2 → c.c = 0 → s.event.b = 0 → s.graphs.find? (fun g => g.cmd == c.id) = some ⟨c.id, [n], []⟩ →
    n.cond = false → n.st = .running l.id → LaunchDone s l l.id →
    Does .graphNodeComplete s (ended { without s l with graphs := s.graphs.filter fun g => g.cmd != c.id } e c 0))
  ∧ (∀ s e c, CommandOf s e c 4 → c.started = true →
    Does .settleComplete s (ended { s with reports := s.reports ++ [(c.queue, c.index, c.count)] } e c 0))
  ∧ (∀ s e c, CommandOf s e c 5 → c.started = true → NoCommands s → s.saved = [] → (∀ r ∈ s.reqs, r.sp ≠ .gl ∧ r.sp ≠ .lp) →
    Does .tlbinvComplete s { ended { s with
      tlb := s.tlb.filter fun x => decide (x.asid ≠ s.asidOf c.ctx
        ∨ (c.b ≠ 0 ∧ (c.a.toNat + 32768 * c.b.toNat ≤ x.base ∨ x.base + x.size ≤ c.a.toNat))) } e c 0 with respPoll := s.ecyc })
  ∧ (∀ s e c k, CommandOf s e c 7 → c.started = true → c.key = some k → (∀ r ∈ s.reqs, ∀ x ∈ r.lanes, Pte.key x.pte ≠ c.a.toNat) →
    (∀ x ∈ s.locks, x.key ≠ c.a.toNat) → (∀ b ∈ s.slices, b.key ≠ c.a.toNat) →
    Does .keyloadComplete s (ended { s with keys := (c.a.toNat, k) :: s.keys.filter fun x => x.1 != c.a.toNat } e c 0))
  ∧ ∀ s e c m a p n, CommandOf s e c 6 → s.migrations = [m] → m.cmd = c.id → m.leaves = [a] → m.queued = [] → NoCommands s →
    s.saved = [] → s.tlb = [] → s.reqs = [] → s.pends = [] → s.locks = [] → s.stores = [] → s.moves = [(m.old, m.size, n)] → NoDevice a 8 →
    a % 8 = 0 → dwordAt s.mem a = p → Pte.pa p = m.old → s.keyOf (Pte.key p) = 0 → m.size ≠ 0 → m.old % 512 = 0 → m.size % 512 = 0 →
    m.dest % 32768 = 0 → m.dest < 2 ^ 52 → Memory.wf s.mem = true →
    Apart m.dest m.size m.old m.size → Apart m.dest m.size a 8 → Apart m.dest m.size (journalPlace s e) 32 →
    Apart m.dest m.size (queuePlace s c.queue + 24) 4 → Apart a 8 (journalPlace s e) 32 → Apart a 8 (queuePlace s c.queue + 24) 4 →
    ∃ t, exec .migrateCopyComplete s = .next t ∧ t.migrations = [] ∧ t.moves = [(m.dest, m.size, n + 1)]
      ∧ t.commands = s.commands.filter (fun x => x.id != c.id) ∧ t.dev = (posted s e c 0).dev
      ∧ (∀ i < m.size, Memory.read t.mem (m.dest + i) = Memory.read s.mem (m.old + i))
      ∧ Pte.pa (dwordAt t.mem a) = m.dest ∧ (dwordAt t.mem a).getLsbD 0 = true
      ∧ (∀ k : Nat, 0 < k → k < 15 ∨ 52 ≤ k → (dwordAt t.mem a).getLsbD k = p.getLsbD k)
      ∧ ∀ x, (x < m.dest ∨ m.dest + m.size ≤ x) → (x < a ∨ a + 8 ≤ x) → Memory.read t.mem x = Memory.read (posted s e c 0).mem x

namespace Sys2Proof.Claims
open Sys2Proof.Machine

/-- A bunch as placement leaves it (R81, R82): threads of the group at a counter, argument words in s0 to s7. -/
def FreshBunch (b : Bunch) (pc : DWord) (args : List Word) (n : Nat) : Prop :=
  (∀ r : Reg, b.regs[r].live = 0 ∧ b.regs[r].rep = .released) ∧ (∀ m : Mask, b.masks[m] = 0)
  ∧ (∀ r : Reg, b.sregs[r] = if r.val < 8 then args.getD r.val 0 else 0) ∧ b.pspill = 0
  ∧ b.mx.cmds = [] ∧ b.cp.cmds = [] ∧ b.mx.seq = 0 ∧ b.cp.seq = 0 ∧ b.flights = [] ∧ b.away = 0
  ∧ ∀ l : Fin 32, b.threads[l].present = decide (l.val < n) ∧ b.threads[l].pc = pc ∧ b.threads[l].st = .running
    ∧ b.threads[l].fmode = 0x400 ∧ b.threads[l].pend = 0 ∧ b.threads[l].ret = [] ∧ b.threads[l].inTrap = false
/-- A group of a launch as placement leaves it (R58, R81, R147, R149). -/
def Placed (g : Group) (l : Launch) (num : Nat) : Prop :=
  g.launch = l.id ∧ g.num = num ∧ g.rank = 0 ∧ g.size = l.hdr.t ∧ g.halted = none ∧ g.left = false ∧ g.gs = 0 ∧ g.tra = 0 ∧ g.tfb = 0
  ∧ g.dbg = 0 ∧ g.sp = [] ∧ g.bars = List.replicate l.hdr.nbar ⟨l.hdr.t, 0, false, 0⟩ ∧ g.chunks.length = (l.hdr.scratch + 16383) / 16384
  ∧ l.hdr.fitsEmpty g.core 1 = true ∧ g.bunches.length = (l.hdr.t + 31) / 32
  ∧ ∀ i b, g.bunches[i]? = some b → FreshBunch b l.hdr.code l.hdr.args (l.hdr.t - 32 * i)
/-- The launch of one group alone in the module, placed group by group, nothing of it placed yet. -/
def AloneInPalette (s : State) (l : Launch) : Prop :=
  s.launches = [l] ∧ s.groups = [] ∧ s.saved = [] ∧ s.l1 = [] ∧ l.source = .external ∧ l.next = 0 ∧ l.hdr.ngroup = 1 ∧ l.withdrawn = false
  ∧ l.reserved = [] ∧ l.windows = [] ∧ l.tree = [] ∧ l.starts = [] ∧ l.hdr.isWhole = false ∧ l.hdr.chsz ≤ 512
  ∧ ∃ core < 1152, l.hdr.fitsEmpty core 1 = true
/-- The words of a basket's record (R286). -/
def recordWords (seq : Word) (pc : DWord) (args : List Word) : List Word := [seq, 0] ++ halves pc ++ args ++ [0, 0, 0, 0]
/-- The header of a firing with n records (R287). -/
def firingHeader (b : Basket) (n : Nat) : Header := { b.hdr with t := 32 * n, exts := [32, n] }
def putBasket (s : State) (b : Basket) : State := { s with baskets := [b] }
/-- The one basket, open, the event's command its own. -/
def OneBasket (s : State) (e : Fin 8) (c : Command) (b : Basket) : Prop :=
  s.baskets = [b] ∧ b.cmd = c.id ∧ s.commands.find? (fun x => x.id == s.event.a) = some c ∧ c.easel = e.val ∧ InUse s c.ctx

end Sys2Proof.Claims

/-- R284, R283, R81, R91, R150: each easel cycle the palette is dispatched. Where no item may be placed, nothing happens but that
reservations of what is no longer there end; the one group of a launch alone in the module comes to a core that takes it
(which one is the firmware's choice, log 17; that its return stacks are empty is the model's, log 11). A placement that waits
on chosen cores ends its wait with its group resident there; while its context is disabled, or the cores do not take it, it
waits on. -/
def Obligations.PaletteAndPlacement : Prop :=
  (∀ s, (∀ l ∈ s.launches, l.hdr.ngroup ≤ l.next ∨ l.withdrawn = true ∨ l.waiting ≠ [] ∨ s.ctxEnabled l.ctx = false
      ∨ ∃ v ∈ s.saved, v.ctx = l.ctx) →
    exec .paletteDispatch s = .next { s with
      launches := s.launches.map fun (l : Launch) => { l with reserved := [] }, palCyc := s.ecyc[0] + 1 })
  ∧ (∀ s l, AloneInPalette s l → l.waiting = [] → s.ctxEnabled l.ctx = true → ∃ t g, exec .paletteDispatch s = .next t
    ∧ t.groups = [g] ∧ Placed g l 0 ∧ g.core < 1152 ∧ t.palCyc = s.ecyc[0] + 1 ∧ t.mem = s.mem
    ∧ ∃ l', t.launches = [l'] ∧ l'.id = l.id ∧ l'.next = 1 ∧ l'.ended = l.ended)
  ∧ (∀ s l core, AloneInPalette s l → l.waiting = [(0, core)] → s.event.a = l.id → s.ctxEnabled l.ctx = true →
    l.hdr.fitsEmpty core 1 = true → ∃ t g, exec .placementResume s = .next t ∧ t.groups = [g] ∧ Placed g l 0 ∧ g.core = core
      ∧ t.mem = s.mem ∧ ∃ l', t.launches = [l'] ∧ l'.next = 1 ∧ l'.waiting = [])
  ∧ ∀ s l, s.launches.find? (fun x => x.id == s.event.a) = some l →
    (l.waiting = [] ∨ s.ctxEnabled l.ctx = false ∨ ∃ p ∈ l.waiting, s.fits l p.2 ((l.waiting.countP fun x => x.2 == p.2)) = false) →
    exec .placementResume s = .next s

/-- R286, R287: a basket leaves an unpublished record alone, counts a published one, and fires at C records: a launch of one group
enters the palette, and the countdown starts again; the count of a first record starts it. A record with a counter that is not
aligned is taken and dropped, and the error log names it. The countdown's expiry fires with all records counted, and not before.
-/
def Obligations.BasketCounts : Prop :=
  (∀ s e c b seq pc args, OneBasket s e c b → args.length = 8 → b.recs.length < b.c →
    s.readStruct c.ctx (b.ring.toNat + 64 * (b.seen % 2 ^ b.log2)) 64 = .ok (wordBytesOf (recordWords seq pc args)) →
    (seq ≠ .ofNat 32 (b.seen + 1) → exec .basketCount s = .next s)
    ∧ (seq = .ofNat 32 (b.seen + 1) → pc.toNat % 4 = 0 →
      let recs := b.recs ++ [(b.seen, pc, args)]
      (b.recs.length + 1 < b.c → exec .basketCount s = .next (putBasket s { b with
        seen := b.seen + 1, recs := recs, started := if b.recs = [] then s.ecyc[e] else b.started }))
      ∧ (b.recs.length + 1 = b.c → exec .basketCount s = .next (putBasket
          (inPalette s c s.clock (.firing c.id ((b.seen + 1) % 2 ^ 32) b.desc) (firingHeader b b.c) (recs.map fun r => r.2))
          { b with seen := b.seen + 1, recs := [], started := s.ecyc[e] })))
    ∧ (seq = .ofNat 32 (b.seen + 1) → pc.toNat % 4 ≠ 0 → b.recs ≠ [] → ∃ t, exec .basketCount s = .next t
      ∧ t.baskets = [{ b with seen := b.seen + 1 }] ∧ t.dev.elcount = s.dev.elcount + 1 ∧ t.launches = s.launches))
  ∧ ∀ s e c b, OneBasket s e c b → b.recs ≠ [] → b.recs.length ≤ b.c →
    (s.ecyc[e] < b.started + b.d → exec .basketCountdownExpiry s = .next s)
    ∧ (b.started + b.d ≤ s.ecyc[e] → exec .basketCountdownExpiry s = .next (putBasket
        (inPalette s c s.clock (.firing c.id (b.seen % 2 ^ 32) b.desc) (firingHeader b b.recs.length) (b.recs.map fun r => r.2))
        { b with recs := [], started := s.ecyc[e] }))

/-! # Links, other agents and the firmware, by R274, R275, R288, R290, R293 to R295 -/

namespace Sys2Proof.Claims
open Sys2Proof.Machine

/-- What an access of another agent answers with, and the bytes it leaves at its place (R170, R198, R288). -/
def Serves (s : State) (x : BusAccess) (reply : List Byte) (new : Option (List Byte)) : Prop :=
  match x with
  | .read pa n => reply = Memory.readN s.mem pa n ∧ new = none
  | .own pa => reply = Memory.readN s.mem (pa / 512 * 512) 512 ∧ new = none
  | .write _ bs => reply = [] ∧ new = some bs
  | .atom code pa n b c => (n = 4 ∨ n = 8) ∧ reply = Memory.readN s.mem pa n
    ∧ ((∃ f ∈ atomics, code = f.2.1 ∧ new = some (updated n f.2.2 reply (b.setWidth 32) ((b >>> 32).setWidth 32)))
      ∨ (code = 9 ∧ new = if valueOf reply = c.toNat % 256 ^ n then some (littleEndian n b.toNat) else none))
  | .cas16 pa old bs => bs.length = 16 ∧ reply = Memory.readN s.mem pa 16 ∧ new = if reply = old ∧ pa % 16 = 0 then some bs else none
  | .ack _ => reply = s.busReply ∧ new = none
def busPlace (x : BusAccess) : Nat :=
  match x with | .read pa _ => pa | .own pa => pa / 512 * 512 | .write pa _ => pa | .atom _ pa _ _ _ => pa | .cas16 pa _ _ => pa | .ack pa => pa
def busBytes (x : BusAccess) : Nat :=
  match x with | .read _ n => n | .own _ => 512 | .write _ bs => bs.length | .atom _ _ n _ _ => n | .cas16 _ _ _ => 16 | .ack _ => 0
def incarnationOf (s : State) (a : Agent) : Nat := ((s.incarnations.find? fun x => x.1 == a).map fun x => x.2).getD 0
/-- A message of a dead agent, or of another incarnation than the agent's (R290); the number has 16 bits. -/
def Outdated (s : State) (a : Agent) (inc : Nat) : Prop := a ∈ s.dead ∨ inc % 65536 ≠ incarnationOf s a
/-- No slice has taken a request that has still to be applied, and no block is locked (R164). -/
def NothingTaken (s : State) : Prop := s.locks = [] ∧ ∀ r ∈ s.reqs, r.st ≠ .accepted
/-- Place of entry n of the error log (R320). -/
def entryPlace (s : State) (n : DWord) : Nat := s.dev.elbase.toNat + 64 * (n.toNat % 16384)
/-- A step writes n entries of the error log and counts them; where the ring is aligned to its entries, it changes memory in
these alone. -/
def LogsMany (n : Nat) (s t : State) : Prop :=
  t.dev = { s.dev with elcount := s.dev.elcount + .ofNat 64 n }
  ∧ (s.dev.elbase.toNat % 64 = 0 → ∀ a,
      (∀ k < n, a < entryPlace s (s.dev.elcount + .ofNat 64 k) ∨ entryPlace s (s.dev.elcount + .ofNat 64 k) + 64 ≤ a) →
      Memory.read t.mem a = Memory.read s.mem a)
def Logs (s t : State) : Prop := LogsMany 1 s t
def deviceWindow : Nat := 0xFF * 2 ^ 44
/-- Device registers by offset (R275). -/
def deviceRegisters (d : DevRegs) : List (Nat × DWord) :=
  [(0, d.qtbase), (8, d.ctxbase), (0x100, d.elbase), (0x108, d.elcount), (0x110, d.rpcap), (0x118, d.modnum)]
  ++ (List.finRange 8).flatMap fun e => [(0x10 + 16 * e.val, d.jbase[e]), (0x18 + 16 * e.val, d.jcount[e])]

end Sys2Proof.Claims

/-- R288, R274, R290, R170, R275, R200: links to an agent go down, all of them or one, and come up again; an atomic whose completion
is lost leaves its lane parked with LINKTO, its registers and counter as they were, and a KIND 4 entry names LINKTO and the
target's physical address; an outside agent's access is served at its home, the directory noting the lines it takes, and one of a
dead agent or of another incarnation is only logged; the host reads device registers and rings doorbells, and its other writes
there are ignored; a dead agent's incarnation rises, and the lines it owned are poisoned and logged; it rejoins. Clauses that
are the model's choice: how the card names a link or an agent's incarnation (log 7), what the device registers answer and take
(log 12), which lines of agents the directory notes and gives up (log 26), that the physical address stands in an entry of KIND 4
before the lanes' entry of KIND 1 (log 68), and the reply's place (log 70). -/
def Obligations.LinksAndAgents : Prop :=
  (∀ s, s.event.agent = .host →
    exec .linkDown s = .next { s with hostDown := true } ∧ exec .linkUp s = .next { s with hostDown := false })
  ∧ (∀ s n, s.event.agent = .peer n →
    (∃ ls, exec .linkDown s = .next { s with links := ls }
      ∧ (∀ i : Fin 24, ls[i].1 = s.links[i].1 ∧ (ls[i].2 = true ↔
          s.links[i].2 = true ∧ ¬ (s.links[i].1 = n ∧ (s.event.b = 1 → i.val = s.event.a))))
      ∧ (s.event.b ≠ 1 → ∀ pa, windowOf pa = .peer n → { s with links := ls }.linkDown pa = true))
    ∧ ∃ ls, exec .linkUp s = .next { s with links := ls }
      ∧ ∀ i : Fin 24, ls[i].1 = s.links[i].1 ∧ (ls[i].2 = true ↔ s.links[i].2 = true ∨ (s.links[i].1 = n ∧ i.val = s.event.a)))
  ∧ (∀ s r h x (p : Pend) f, s.reqs.find? (fun y => y.id == s.event.a) = some r → s.event.b = 0 → s.event.c = 0 → r.sp = .gl →
    (∃ k, r.op = .atom k) ∨ r.op = .cas128 → r.st = .accepted → r.applied = none → r.lanes = [x] → s.NotInL1 (x.pa / 512) →
    (∃ n, windowOf x.pa = .peer n) ∨ windowOf x.pa = .hostCoherent ∨ windowOf x.pa = .hostPcie →
    s.hereOf r.gid r.bunch = some h → h.g.halted = none → (wideQ r.q = true → s.NoSi r.core) →
    (s.pends.find? fun p => p.is r.pend r.gid r.bunch) = some p → PendsDiffer s → p.scalar = false → p.op = r.op → untraced h →
    p.waiting = laneBit x.lane → p.outs = [] → OnlyAccepted s r → Landing h p f →
    ∃ t b', exec .linkTimeout s = .next t ∧ LogsMany 2 s t
      ∧ (let place := entryPlace s s.dev.elcount
        Memory.wf s.mem = true → s.dev.elbase.toNat % 64 = 0 → NoDevice place 64 →
        (wordAt t.mem (place + 8)).toNat / 2 ^ 28 = 4 ∧ (wordAt t.mem (place + 8)).toNat % 256 = 0x48
        ∧ dwordAt t.mem (place + 16) = .ofNat 64 x.pa) ∧ t.reqs = s.reqs.filter (fun y => y.id != r.id) ∧ t.stores = s.stores
      ∧ t.pends = s.pends.filter (fun y => !y.is r.pend r.gid r.bunch)
      ∧ t.bunch? r.gid r.bunch = some b' ∧ b'.threads[x.lane].st = .parked 0x48 x.addr ∧ b'.threads[x.lane].pc = h.b.threads[x.lane].pc
      ∧ b'.masks = h.b.masks ∧ (∀ q k, b'.isLive q k = h.b.isLive q k ∧ b'.val q k = h.b.val q k ∧ b'.isBad q k = h.b.isBad q k)
      ∧ t.openEntries = s.openEntries
          ++ [⟨(s.dev.elcount + 1).toNat, 1, h.g.launch, r.gid, r.bunch, laneBit x.lane, 0x48⟩])
  ∧ (∀ s reply new, Bare s → NothingTaken s → s.migrations = [] → ¬ Outdated s s.event.agent s.event.b →
    NoDevice (busPlace s.event.access) (busBytes s.event.access) → windowOf (busPlace s.event.access) ≠ .device →
    Serves s s.event.access reply new →
    let u : State := { s with busReply := reply, mem := new.elim s.mem (Memory.writeN s.mem (busPlace s.event.access)) }
    Does .hostInboundAccess s u
    ∧ (windowOf (busPlace s.event.access) = .local_ → Does .inboundPeerAccess s u)
    ∧ (windowOf (busPlace s.event.access) ≠ .local_ → exec .inboundPeerAccess s = .next s))
  ∧ (∀ s pa, Bare s → NothingTaken s → s.migrations = [] → ¬ Outdated s s.event.agent s.event.b →
    (∀ n, s.event.access = .read pa n → ∃ t, exec .hostInboundAccess s = .next t ∧ ⟨s.event.agent, pa / 512, false⟩ ∈ t.agentLines)
    ∧ (s.event.access = .own pa → ∃ t, exec .hostInboundAccess s = .next t ∧ ⟨s.event.agent, pa / 512, true⟩ ∈ t.agentLines
        ∧ ∀ y ∈ t.agentLines, y.blk = pa / 512 → y.agent = s.event.agent)
    ∧ (s.event.access = .ack pa → ∃ t, exec .hostInboundAccess s = .next t ∧ ∀ y, y ∈ t.agentLines ↔
        y ∈ s.agentLines ∧ ¬ (y.agent = s.event.agent ∧ y.blk = pa / 512)))
  ∧ (∀ s, Outdated s s.event.agent s.event.b →
    (∃ t, exec .hostInboundAccess s = .next t ∧ Logs s t ∧ t.busReply = s.busReply)
    ∧ ∃ t, exec .inboundPeerAccess s = .next t ∧ Logs s t ∧ t.busReply = s.busReply)
  ∧ (∀ s, Bare s → NothingTaken s → s.migrations = [] → ¬ Outdated s s.event.agent s.event.b →
    (∀ r ∈ deviceRegisters s.dev, s.event.access = .read (deviceWindow + r.1) 8 →
      Does .hostInboundAccess s { s with busReply := littleEndian 8 r.2.toNat })
    ∧ (∀ q bs, q < 16384 → s.event.access = .write (deviceWindow + 0x100000 + 8 * q) bs → bs ≠ [] → bs.length ≤ 8 →
      Does .hostInboundAccess s { s with agenda := s.agenda ++ [({ row := .doorbell, a := q } : Event)], busReply := [] })
    ∧ ∀ o bs, o + bs.length ≤ 0x100000 → s.event.access = .write (deviceWindow + o) bs →
      Does .hostInboundAccess s { s with busReply := [] })
  ∧ (∀ s, s.fw.trusted = none → exec .declareAgentDead s = .next s)
  ∧ (∀ s, s.fw.trusted ≠ none → let mine := fun (y : AgentLine) => y.agent == s.event.agent && y.owned
    ∃ t, exec .declareAgentDead s = .next t ∧ incarnationOf t s.event.agent = (incarnationOf s s.event.agent + 1) % 65536
      ∧ (∀ a, a ≠ s.event.agent → incarnationOf t a = incarnationOf s a) ∧ (∀ a, a ∈ t.dead ↔ a = s.event.agent ∨ a ∈ s.dead)
      ∧ (∀ y ∈ t.agentLines, y ∈ s.agentLines ∧ y.agent ≠ s.event.agent) ∧ LogsMany (s.agentLines.countP mine) s t
      ∧ ∀ y ∈ s.agentLines, mine y = true →
          (512 * y.blk + 512 ≤ s.dev.elbase.toNat ∨ s.dev.elbase.toNat + 64 * 16384 ≤ 512 * y.blk) → ∀ k < 64, 64 * y.blk + k ∈ t.poison)
  ∧ ∀ s, ∃ d, exec .agentRejoin s = .next { s with dead := d } ∧ ∀ a, a ∈ d ↔ a ≠ s.event.agent ∧ a ∈ s.dead

namespace Sys2Proof.Claims
open Sys2Proof.Machine

/-- A launch of one group alone in the module, running, no command of its engines and no store unperformed. -/
def LoneGroup (s : State) (l : Launch) (g : Group) : Prop :=
  s.launches = [l] ∧ s.groups = [g] ∧ g.launch = l.id ∧ g.left = false ∧ s.subs = [] ∧ s.csmNet = []
  ∧ ∀ b ∈ g.bunches, b.mx.cmds = [] ∧ b.cp.cmds = []
/-- The log's ring is aligned to its entries, and no L1 holds the place of the next. -/
def RingFree (s : State) : Prop := s.dev.elbase.toNat % 64 = 0 ∧ s.NotInL1 (entryPlace s s.dev.elcount / 512)
/-- The launch's first halt, by its group with an origin: no store was pending. -/
def HaltedFirst (s t : State) (l : Launch) (g : Group) (o : Origin) : Prop :=
  t.groups = [looksAgain { g with halted := some ⟨o, s.clock, [], 0, false⟩ }]
  ∧ t.launches = [{ l with origin := some o, withdrawn := true, waiting := [], reserved := [] }]
  ∧ Logs s t ∧ t.openEntries = s.openEntries ++ [⟨s.dev.elcount.toNat, 2, l.id, g.gid, 0, 0, 0⟩]
/-- Registers the trusted firmware writes, by offset (R275, R293). -/
def firmwareWrites : List (Nat × (DevRegs → DWord → DevRegs)) :=
  [(0, fun d v => { d with qtbase := v }), (8, fun d v => { d with ctxbase := v }), (0x100, fun d v => { d with elbase := v }),
   (0x110, fun d v => { d with rpcap := v }), (0x118, fun d v => { d with modnum := v })]
  ++ (List.finRange 8).map fun e => (0x10 + 16 * e.val, fun d v => { d with jbase := d.jbase.set e.val v })

end Sys2Proof.Claims

/-- R294, R127, R275, R293, R295: an image runs only where its signatures and version verify; a failed one is logged, and the
previous one stays, or the module is held in reset where there is none; out of reset every core's count is 0 and no group is
resident, unless an image that held it is still missing; only the trusted firmware writes a register; the clock follows the
untrusted firmware; a junction at its limit halts a resident launch. Clauses that are the model's choice: that the untrusted image
comes after a trusted one and that each firmware acts once its image is in force (log 8), and that a reset leaves memory, poison,
device registers and firmware as they are and drops the keys (log 62). -/
def Obligations.FirmwareSteps : Prop :=
  (∀ s, let i := s.event.img
    let verifies := Config.signaturesVerify i.id = true ∧ s.fw.fused ≤ i.version ∧ (i.trusted = true ∨ s.fw.trusted ≠ none)
    ∃ t, exec .firmwareImageVerify s = .next t
      ∧ (verifies → t = if i.trusted = true then { s with fw := { s.fw with trusted := some (i.id, i.version) } }
          else { s with fw := { s.fw with untrusted := some (i.id, i.version) } })
      ∧ (¬ verifies → Logs s t ∧ t.fw.trusted = s.fw.trusted ∧ t.fw.untrusted = s.fw.untrusted
          ∧ (t.fw.held = true ↔ s.fw.held = true ∨ (if i.trusted = true then s.fw.trusted = none else s.fw.untrusted = none))))
  ∧ (∀ s, (s.fw.held = true ∧ (s.fw.trusted = none ∨ s.fw.untrusted = none) → exec .moduleReset s = .next s)
    ∧ (s.fw.held = false ∨ (s.fw.trusted ≠ none ∧ s.fw.untrusted ≠ none) → ∃ t, exec .moduleReset s = .next t ∧ t.clock = 0 ∧ (∀ e : Fin 8, t.ecyc[e] = 0)
      ∧ t.groups = [] ∧ t.launches = [] ∧ t.l1 = [] ∧ t.tlb = [] ∧ t.reqs = [] ∧ t.stores = [] ∧ t.commands = [] ∧ t.keys = []
      ∧ t.mem = s.mem ∧ t.poison = s.poison ∧ t.dev = s.dev ∧ t.fw = { s.fw with held := false }))
  ∧ (∀ s, s.event.b ≠ 1 ∨ s.fw.trusted = none → exec .registerWrite s = .next s)
  ∧ (∀ s, s.event.b = 1 → s.fw.trusted ≠ none → ∀ w ∈ firmwareWrites, s.event.a = w.1 → exec .registerWrite s = .next { s with dev := w.2 s.dev s.event.pc })
  ∧ (∀ s, s.fw.untrusted = none → exec .clockThrottle s = .next s)
  ∧ (∀ s, s.fw.untrusted ≠ none → exec .clockThrottle s = .next { s with fw := { s.fw with clockLevel := s.event.a } })
  ∧ (∀ s, s.groups = [] → exec .thermalHalt s = .next s)
  ∧ ∀ s l g, LoneGroup s l g → g.halted = none → l.origin = none → s.stores = [] → RingFree s →
    ∃ t, exec .thermalHalt s = .next t ∧ HaltedFirst s t l g ⟨4, 0, 0, 0, 0, 0, .ofNat 32 g.num, g.core, 0⟩

/-! # Halts, dumps and the host's answers, by R296 to R309, R319 to R324 -/

namespace Sys2Proof.Claims
open Sys2Proof.Machine

/-- No register, accumulator or scratchpad word of a group is marked, and no register is spilled. -/
def Unmarked (g : Group) : Prop :=
  g.spPoison = [] ∧ ∀ b ∈ g.bunches, (∀ r : Reg, b.regs[r].bad = 0 ∧ b.regs[r].rep ≠ .spilled)
    ∧ ∀ l : Fin 32, ∀ k : Fin 8, b.threads[l].acc[k].poison = 0
/-- No thread of a group watches a line. -/
def Unwatched (g : Group) : Prop := ∀ b ∈ g.bunches, ∀ k : Fin 32, b.threads[k].watch = none
/-- The first words of a dump's header (R302), complete and without a secondary fault. -/
def headerWords (g : Group) (h : Header) (o : Origin) (x : Halted) : List Word :=
  [.ofNat 32 (x.origin.reason * 256 + 2), .ofNat 32 o.code] ++ halves o.addr ++ halves o.pc ++ halves o.wid
  ++ [o.lanes, .ofNat 32 ((if isVector g.core then 2 ^ 31 else 0) + coreStack g.core * 65536 + coreRow g.core * 256 + coreCol g.core)]
  ++ halves (.ofNat 64 x.hcyc) ++ [0, o.group, 0, 0, g.gs, .ofNat 32 (x.pending.length * 65536 + x.ndisc % 65536),
    .ofNat 32 (h.nbar * 2 ^ 20 + h.accum * 65536 + (h.t - 1)), .ofNat 32 h.scratch, .ofNat 32 g.num]
def pages (n : Nat) : Nat := (n + 32767) / 32768 * 32768
/-- Bytes of a dump, and the place of its scratchpad section (R296). -/
def dumpBytes (h : Header) : Nat :=
  pages (256 + 272 * ((h.t + 31) / 32)) + pages ((320 + 64 * h.accum) * h.t) + pages h.scratch + pages (16 * h.nbar) + pages 8192
def scratchSection (h : Header) : Nat := pages (256 + 272 * ((h.t + 31) / 32)) + pages ((320 + 64 * h.accum) * h.t)
/-- A thread is parked on a fault code. -/
def parkedOn (t : Thread) (code : Nat) : Bool := match t.st with | .parked c _ => c == code | _ => false
/-- The one open entry of the error log, the event's. -/
def OneEntry (s : State) (x : OpenEntry) : Prop := s.openEntries = [x] ∧ x.n = s.event.a

end Sys2Proof.Claims

/-- R298, R308, R301, R302, R296, R309, R319, R321: a halt arrives at a core and stops the launch's group, its stores inside
the core left pending; a drained group is dumped: the header, complete, and the scratchpad's bytes; an easel reads the host's
answers; answer 1 lets the parked lanes go on, answer 2 halts the group, answer 3 to a halt's entry releases its groups. That the
steps an answer leads to join the end of the agenda is the model's choice (logs 57, 1). -/
def Obligations.HaltsAndAnswers : Prop :=
  (∀ s l g o, LoneGroup s l g → g.halted = none → l.origin = some o → s.haltMsgs = [(g.core, l.id)] → s.event.a = g.core → s.event.b = l.id →
    (∀ st ∈ s.stores, st.gid = g.gid ∧ st.wholeBunch = 0 ∧ ∃ th, s.thread? g.gid st.bunch st.lane = some th ∧ th.live = true) →
    exec .haltArrival s = .next { s with
      haltMsgs := [], stores := [], groups := [looksAgain { g with halted := some ⟨{ o with reason := 2 }, s.clock, s.stores, 0, false⟩ }] })
  ∧ (∀ s, (s.event.a, s.event.b) ∉ s.haltMsgs → exec .haltArrival s = .next s)
  ∧ (∀ s l g x o pa pte, LoneGroup s l g → s.event.a = g.gid → g.halted = some x → x.dumped = false → x.origin.reason ≠ 2 → o = x.origin →
    l.origin = some o → l.source = .external → l.released = false → s.reqs = [] → s.pends = [] → s.haltMsgs = [] → s.migrations = [] → s.stores = [] → Bare s →
    Unmarked g → Unwatched g → Memory.wf s.mem = true → s.keyOf (Pte.key pte) = 0 →
    g.size = l.hdr.t → g.bunches.length = (l.hdr.t + 31) / 32 → g.bars.length = l.hdr.nbar → x.pending.length ≤ 256 →
    let base := l.hdr.lpb + l.hdr.ngroup * l.hdr.t * l.hdr.lps + g.num * dumpBytes l.hdr
    (∀ k < dumpBytes l.hdr, s.Mapped g.core l.ctx (base + k) .store ⟨pa + k, pte⟩ ∧ windowOf (pa + k) ≠ .device) →
    ∃ t g', exec .groupDump s = .next t ∧ t.groups = [g'] ∧ g' = { g with halted := some { x with dumped := true } }
      ∧ (∀ k w, (headerWords g l.hdr o x)[k]? = some w → wordAt t.mem (pa + 4 * k) = w)
      ∧ (∀ i < l.hdr.scratch, Memory.read t.mem (pa + scratchSection l.hdr + i) = Memory.read g.sp i)
      ∧ ∀ a, a < pa ∨ pa + dumpBytes l.hdr ≤ a → Memory.read t.mem a = Memory.read s.mem a)
  ∧ (∀ s (e : Fin 8), s.event.a = e.val →
    (s.openEntries = [] → exec .errorLogPoll s = .next { s with respPoll := s.respPoll.set e.val (s.ecyc[e] + 65536) })
    ∧ ∀ x l g v, s.openEntries = [x] → s.hbm = [] → x.kind = 1 → s.launches.find? (fun y => y.id == x.launch) = some l → l.easel = e.val →
      s.group? x.gid = some g → x.n + 1 < 2 ^ 64 → windowOf (s.dev.elbase.toNat + 64 * (x.n % 16384)) ≠ .device →
      windowOf (s.dev.elbase.toNat + 64 * (x.n % 16384) + 12) ≠ .device →
      dwordAt s.mem (s.dev.elbase.toNat + 64 * (x.n % 16384)) = .ofNat 64 (x.n + 1) →
      wordAt s.mem (s.dev.elbase.toNat + 64 * (x.n % 16384) + 12) = v →
      exec .errorLogPoll s = .next { s with
        agenda := s.agenda ++ (if v = 0 then [] else if v = 1 then [{ row := .respReplay, a := x.n }] else [{ row := .respHalt, a := x.n }])
        respPoll := s.respPoll.set e.val (s.ecyc[e] + 65536) })
  ∧ (∀ s x g, OneEntry s x → x.kind = 1 → s.GidsDiffer → s.group? x.gid = some g → g.halted = none →
    exec .respReplay s = .next ({ s with openEntries := [] }.modBunch x.gid x.bunch fun b => changeLanes b x.lanes fun _ t =>
      if parkedOn t x.code then { t with st := .running } else t))
  ∧ (∀ s x l g th lane a, OneEntry s x → x.kind = 1 → LoneGroup s l g → x.gid = g.gid → g.halted = none → l.origin = none → s.stores = [] → RingFree s →
    x.lanes = laneBit lane → s.thread? x.gid x.bunch lane = some th → th.st = .parked x.code a →
    ∃ t, exec .respHalt s = .next t ∧ HaltedFirst { s with openEntries := [] } t l g
      ⟨1, x.code, a, th.pc, .ofNat 64 (identifier ⟨g, Bunch.placed 0 0 [] 0 0, l⟩ x.bunch lane), x.lanes, .ofNat 32 g.num, g.core, 32 * x.bunch⟩)
  ∧ ∀ s x l g h, OneEntry s x → x.kind = 2 → LoneGroup s l g → x.launch = l.id → g.halted = some h → s.saved = [] → s.portNet = [] → s.stores = [] →
    s.reqs = [] → l.finished = true →
    (h.dumped = true → exec .respRelease s = .next { s with openEntries := [], groups := [], launches := [] })
    ∧ (h.dumped = false → exec .respRelease s = .next { s with openEntries := [], launches := [{ l with released := true }] })

namespace Sys2Proof.Claims
open Sys2Proof.Machine

/-- A group as it is saved (R323): what fetch and nomination keep of its threads is dropped, registers stand unspilled. -/
def SavedAs (g k : Group) : Prop :=
  k = { g with bunches := k.bunches } ∧ k.bunches.length = g.bunches.length
  ∧ ∀ (i : Nat) (b : Bunch), g.bunches[i]? = some b → ∃ c : Bunch, k.bunches[i]? = some c ∧ c = { b with threads := c.threads }
    ∧ ∀ l : Fin 32, c.threads[l] = { b.threads[l] with latch := 0, age := 0, urgent := none, fetched := none, await := (match b.threads[l].await with | .command id => .command id | _ => Await.none) }
/-- Bunch state that a restore brings back as it was saved (R324). -/
def BackAs (b c : Bunch) : Prop :=
  c.sregs = b.sregs ∧ c.masks = b.masks ∧ c.pspill = b.pspill ∧ c.mx = b.mx ∧ c.cp = b.cp
  ∧ (∀ (r : Reg) (l : Fin 32), c.isLive r l = b.isLive r l ∧ (b.isLive r l = true → c.val r l = b.val r l ∧ c.isBad r l = b.isBad r l))
  ∧ ∀ l : Fin 32, c.threads[l].present = b.threads[l].present ∧ c.threads[l].pc = b.threads[l].pc ∧ c.threads[l].st = b.threads[l].st
    ∧ c.threads[l].fmode = b.threads[l].fmode ∧ c.threads[l].ret = b.threads[l].ret ∧ c.threads[l].acc = b.threads[l].acc
    ∧ (∀ k : Nat, k ≠ 7 → c.threads[l].pend.getLsbD k = b.threads[l].pend.getLsbD k)
    ∧ c.threads[l].pend.getLsbD 7 = (b.threads[l].pend != 0 || (match b.threads[l].st with | .dozing _ _ _ _ => true | _ => false))

end Sys2Proof.Claims

/-- R322, R323, R324, R69: saving a context with nothing on its way takes its groups off their cores and keeps them; with none
there, or no untrusted firmware in force, it changes nothing. A restore of a saved group of one bunch to an empty core, its own or
another in the same place of a cluster, brings its registers, masks, counters and states back; a thread that dozed or held a
pending event finds RST. That a group for which the card names no core comes back to its own is the model's choice (log 31). -/
def Obligations.SavingAndRestoring : Prop :=
  (∀ s, (∀ l ∈ s.launches, l.ctx ≠ s.event.a) ∨ s.fw.untrusted = none → exec .contextSave s = .next s)
  ∧ (∀ s l g, LoneGroup s l g → l.ctx = s.event.a → Unmarked g → s.reqs = [] → s.stores = [] → s.portNet = [] → s.locks = [] → s.saved = [] →
    s.l1 = [] → s.pends = [] → s.dbgRecs = [] → s.fw.untrusted ≠ none →
    ∃ k, exec .contextSave s = .next { s with
      groups := [], saved := [⟨s.event.a, [k]⟩], launches := [{ l with waiting := [], reserved := [] }] } ∧ SavedAs g k)
  ∧ (∀ s, s.saved = [] ∨ s.fw.untrusted = none → exec .contextRestore s = .next s)
  ∧ ∀ s l k b core, s.launches = [l] → k.launch = l.id → s.event.list = [(k.gid, core)] ∨ (s.event.list = [] ∧ core = k.core) → core < 1152 →
    clusterPos core = clusterPos k.core → l.hdr.permits core = true → s.migrations = [] → l.reserved = [] → l.origin = none → l.tree = [] → l.windows = [] → l.hdr.chsz = 0 → s.groups = [] → s.l1 = [] →
    s.saved = [⟨s.event.a, [k]⟩] → k.bunches = [b] → k.size ≤ 32 → k.left = false → l.hdr.accum = 0 → k.bars.length ≤ 48 →
    k.chunks.length ≤ 32 → l.waiting = [] → s.fw.untrusted ≠ none → b.flights = [] → (∀ r : Reg, b.regs[r].rep ≠ .spilled) →
    (∀ i : Fin 32, b.threads[i].watch = none) →
    ∃ t g c, exec .contextRestore s = .next t ∧ t.saved = [] ∧ t.groups = [g] ∧ g.bunches = [c] ∧ BackAs b c ∧ g.gid = k.gid ∧ g.core = core
      ∧ g.num = k.num ∧ g.rank = k.rank ∧ g.gs = k.gs ∧ g.tra = k.tra ∧ g.tfb = k.tfb ∧ g.sp = k.sp ∧ t.mem = s.mem

/-! # Issue, fetch and debug, by R61 to R64, R325 to R328 -/

namespace Sys2Proof.Claims
open Sys2Proof.Machine

/-- An eligible thread (R61) at its counter. -/
def Eligible (t : Thread) : Prop := t.present = true ∧ t.st = .running ∧ t.await = .none ∧ t.fetched = some t.pc
def eligible (t : Thread) : Bool := t.present && t.st == .running && t.await == .none && t.fetched == some t.pc
/-- The one bunch of the one group, which runs and neither traces nor has a record to write. -/
def LoneBunch (s : State) (g : Group) (b : Bunch) : Prop :=
  s.groups = [g] ∧ g.bunches = [b] ∧ g.left = false ∧ g.halted = none ∧ g.trapNext = none ∧ g.dbg.getLsbD 31 = false ∧ s.dbgRecs = []
  ∧ s.pends = [] ∧ b.mx.cmds = [] ∧ b.cp.cmds = []
/-- A stall sample's words (R326, R328). -/
def sampleWords (s : State) (g : Group) (m : Lanes) (cause bi : Nat) (off aux : Word) : List Word :=
  halves (.ofNat 64 s.clock) ++ [m, .ofNat 32 (8 + 256 * cause), .ofNat 32 (32 * bi), 0xFFFFFFFF,
    .ofNat 32 ((if isVector g.core then 2 ^ 31 else 0) + coreStack g.core * 65536 + coreRow g.core * 256 + coreCol g.core), .ofNat 32 g.num]
  ++ List.replicate 8 0 ++ (List.finRange 32).map (fun l => if m.getLsbD l.val then off else 0xFFFFFFFF)
  ++ (List.finRange 32).map (fun l => if m.getLsbD l.val then aux else 0xFFFFFFFF)
  ++ List.replicate 48 0

end Sys2Proof.Claims

/-- R4, R5, R61, R62, R63, R325, R328: a cycle counts on every clock, and issues the run of a bunch with the lowest counter,
where none is urgent; the counts of the eligible threads rise, and that of a run that has issued starts again; a run of age 64 becomes urgent at the cycle; a sequence is fetched for
the threads that stand at it; a due stall sample records the next thread's run and state; a late debug record is dropped and
counted. -/
def Obligations.IssueSteps : Prop :=
  (∀ s, ∃ t, exec .issueCycle s = .next t ∧ t.clock = s.clock + 1 ∧ (∀ e : Fin 8, t.ecyc[e] = s.ecyc[e] + 1)
    ∧ (s.groups = [] → s.dbgRecs = [] → t.issued = [] ∧ t.mem = s.mem))
  ∧ (∀ s g b (pc : DWord), LoneBunch s g b → (∃ l : Fin 32, Eligible b.threads[l] ∧ b.threads[l].pc = pc) →
    (∀ l : Fin 32, Eligible b.threads[l] → pc.toNat ≤ b.threads[l].pc.toNat ∧ b.threads[l].urgent = none) →
    let m := laneSet fun l => eligible b.threads[l] && b.threads[l].pc == pc
    ∃ t b', exec .issueCycle s = .next t ∧ t.issued = [⟨g.gid, 0, m, pc⟩] ∧ t.groups = [{ g with gsNow := 0, bunches := [b'] }]
      ∧ t.mem = s.mem ∧ b' = { b with threads := b'.threads }
      ∧ ∀ l : Fin 32, b'.threads[l] = { b.threads[l] with
            age := b'.threads[l].age, urgent := b'.threads[l].urgent, runTag := b'.threads[l].runTag }
        ∧ (Eligible b.threads[l] → b.threads[l].age + 1 ≤ b'.threads[l].age ∧ b'.threads[l].urgent = none)
        ∧ (¬ Eligible b.threads[l] → b'.threads[l] = b.threads[l]))
  ∧ (∀ (s : State) (i : Instr) (h : Here) (l : Fin 32), s.here? = some h → s.cur.run.getLsbD l.val = true → h.b.threads[l].await ≠ .engine →
    h.g.halted = none → (s.afterIssue i).thread? s.cur.gid s.cur.bunch l = some { h.b.threads[l] with age := 0, urgent := none })
  ∧ (∀ s, exec .runUrgent s = .next (s.modBunch s.event.a s.event.b fun b => changeLanes b 0xFFFFFFFF fun _ t =>
      if 64 ≤ t.age ∧ t.urgent = none then { t with urgent := some s.clock } else t))
  ∧ (∀ s h x, s.hereOf s.event.a s.event.b = some h → s.GidsDiffer → h.g.left = false → h.g.halted = none →
    s.Mapped h.g.core h.l.ctx s.event.pc.toNat .fetch x → windowOf x.pa ≠ .device → s.Clean (Pte.key x.pte) x.pa 4 →
    (∃ d, Sys2Proof.decode [(wordAt s.mem x.pa).toNat] = .ok d) ∨ (∃ n, Sys2Proof.decode [(wordAt s.mem x.pa).toNat] = .illegal n) →
    exec .instructionFetch s = .next (s.modBunch s.event.a s.event.b fun b => changeLanes b 0xFFFFFFFF fun l t =>
      if h.b.threads[l].present = true ∧ h.b.threads[l].st = .running ∧ h.b.threads[l].await = .none ∧ h.b.threads[l].pc = s.event.pc then
        { t with fetched := some s.event.pc } else t))
  ∧ (∀ s l g b th cause aux, s.launches = [l] → s.groups = [g] → g.launch = l.id → g.gid = s.event.a → g.left = false → g.halted = none →
    0 < g.dbg.toNat % 65536 → g.sampleDue ≤ s.clock → g.size = 1 → g.bunches = [b] → b.threads[(0 : Fin 32)] = th → th.present = true →
    (∀ k : Fin 32, k ≠ 0 → b.threads[k].present = false) →
    ((th.st = .running ∧ ∃ k p, th.await = .operand k ∧ s.pends.find? (fun x => x.id == k) = some p ∧ cause = 1
        ∧ aux = (p.pc - l.hdr.code).setWidth 32)
      ∨ (aux = 0xFFFFFFFF ∧ (∀ k, th.await ≠ .operand k)
        ∧ (((∃ n d a i, th.st = .dozing n d a i) ∧ cause = 5) ∨ ((∃ c a, th.st = .parked c a) ∧ cause = 6)
          ∨ (th.st = .running ∧ th.await = .request ∧ (∀ p ∈ s.pends, p.waiting ≠ 0) ∧ cause = 2)
          ∨ (th.st = .running ∧ (∃ k, th.await = .command k) ∧ cause = 3)
          ∨ (th.st = .running ∧ th.await = .none ∧ s.issued = [] ∧ th.fetched = some th.pc ∧ cause = 7)))) →
    exec .stallSample s = .next { s with
      groups := [{ g with sampleDue := g.sampleDue + 256 * (g.dbg.toNat % 65536), sampleNext := 0 }]
      dbgRecs := s.dbgRecs ++ [(⟨g.gid, g.core, l.ctx, l.hdr.lpb + l.hdr.ngroup * l.hdr.t * l.hdr.lps + l.hdr.ngroup * dumpBytes l.hdr + g.num * 131072,
        s.clock, sampleWords s g 1 cause 0 ((th.pc - l.hdr.code).setWidth 32) aux⟩ : DebugRec)] })
  ∧ (∀ s, (∀ r ∈ s.dbgRecs, s.clock ≤ r.cyc + 256) → exec .debugRecordDrop s = .next s)
  ∧ ∀ s r x, s.dbgRecs = [r] → r.cyc + 256 < s.clock → Bare s → s.Mapped r.core r.ctx (r.area + 8) .store x → r.area % 32 = 0 →
    s.easelXlate r.ctx (r.area + 8) .load = .ok x → windowOf x.pa ≠ .device → s.migrations = [] → s.keyOf (Pte.key x.pte) = 0 →
    Memory.wf s.mem = true →
    ∃ t, exec .debugRecordDrop s = .next t ∧ t.dbgRecs = [] ∧ t.mem = put64 s.mem x.pa (dwordAt s.mem x.pa + 1)

/-! # Faults of a lane form, by R86, R93, R109, R311, R315, R319 -/

namespace Sys2Proof.Claims
open Sys2Proof.Machine

/-- The bunch keeps what its registers hold: only the places of their last access are new. -/
def SameCopies (b b' : Bunch) : Prop :=
  b' = { b with regs := b'.regs } ∧ ∀ q k, b'.isLive q k = b.isLive q k ∧ b'.val q k = b.val q k ∧ b'.isBad q k = b.isBad q k
/-- One lane of the bunch executes. -/
def OneLane (s : State) (h : Here) (l : Fin 32) : Prop := s.here? = some h ∧ s.GidsDiffer ∧ s.cur.run = laneBit l ∧ s.cur.exec = laneBit l
/-- Where the routine of the group takes a lane's fault, raised with flags of GS and with exceptions. -/
def TakesTrap (i : Instr) (s : State) (h : Here) (l : Fin 32) (x : Xl) (code : Nat) (exc : Exc) (flags : Word) : Prop :=
  ∃ b' sl hb, exec i s = .next ((entered (s.laneNext h b' flags) h l x
      (frame s.cur.pc s.cur.pc 0 code exc 0 (identifier h s.cur.bunch l))).recached sl hb)
    ∧ SameCopies h.b b'

end Sys2Proof.Claims

/-- R86, R109, R93, R319: a lane that reads a released copy raises GS.STALE, and traps where its FMODE says so; one whose result
raises an enabled exception traps with it; one that reads a poisoned copy is parked on POISON for the host: each without any
other effect, its counter at the instruction. That POISON's address is that of the copy's spill slot is the model's choice
(log 44). -/
def Obligations.LaneTraps : Prop :=
  (∀ p ∈ binary32, ∀ s h l x d a b, OneLane s h l → s.InCore h (opsRRR d a b 1 1 1) → FrameReady s h l x →
    h.b.threads[l].fmode.getLsbD 8 = true → h.b.isLive a.reg (patLane a.pat l) = false ∨ h.b.isLive b.reg (patLane b.pat l) = false →
    TakesTrap (p.1 d a b) s h l x 0x02 0 0x20)
  ∧ (∀ p ∈ float32, ∀ s h l x d a b, OneLane s h l → s.LaneReady h (opsRRR d a b 1 1 1) noReads → FrameReady s h l x →
    h.b.isLive a.reg (patLane a.pat l) = true → h.b.isLive b.reg (patLane b.pat l) = true →
    let r := p.2 (modeOf h l) (srcWord a h.b l) (srcWord b h.b l)
    h.b.threads[l].fmode.extractLsb' 2 5 &&& r.exc ≠ 0 → TakesTrap (p.1 d a b) s h l x 0x03 r.exc (r.exc.setWidth 32))
  ∧ ∀ p ∈ binary32, ∀ s h l d a b, OneLane s h l → s.InCore h (opsRRR d a b 1 1 1) → h.g.halted = none → a.pat = .self →
    h.b.isLive b.reg (patLane b.pat l) = true → h.b.isBad a.reg l = true →
    ∃ t b', exec (p.1 d a b) s = .next t ∧ Logs s t ∧ t.bunch? h.g.gid s.cur.bunch = some b'
      ∧ b'.threads[l].st = .parked 0x45 (.ofNat 64 (threadSlice h s.cur.bunch l + h.l.hdr.lps - 256 + 4 * a.reg.val))
      ∧ b'.threads[l].pc = h.b.threads[l].pc ∧ b'.masks = h.b.masks
      ∧ (∀ q k, b'.isLive q k = h.b.isLive q k ∧ b'.val q k = h.b.val q k ∧ b'.isBad q k = h.b.isBad q k)
      ∧ t.openEntries = s.openEntries ++ [⟨s.dev.elcount.toNat, 1, h.g.launch, h.g.gid, s.cur.bunch, laneBit l, 0x45⟩]

/-! # Encodings, by R31 to R52, and the step -/

namespace Sys2Proof.Claims
open Sys2Proof.Machine

/-- Words written out from the encoding tables, and what they stand for. -/
def someWords : List (List Nat × Instr) :=
  [([0x251C0C00], .absF32 7 ⟨6, false, .self⟩), ([0x0C0C0A07], .mulloN32 3 ⟨5, false, .self⟩ ⟨7, false, .self⟩),
   ([0x7000000D], .bra 13), ([0x74000005], .trap 5), ([0xAE000000], .rtt), ([0xAF000000], .halt), ([0x73000000], .exit),
   ([0x04081400], .gets 2 .cyc), ([0x05340600], .sets .fmode ⟨3, false, .self⟩), ([0x63300003], .barArr 12 3),
   ([0xA8003000, 0x00000001], .copy 24 .gl .sp), ([0xAC000E00], .unsub 7),
   ([0x6120040C, 0x00010C00], .cas128 { d := 8, ret := true, a := ⟨2, false, .self⟩, b := ⟨12, false⟩, c := ⟨16, false⟩, q := some .dv, sp := .gl })]
/-- The word of a GUARD (R43). -/
def guardWord (m : Mask) (inv : Bool) : Nat := 0x03000000 + m.val * 2 ^ 18 + inv.toNat * 2 ^ 17
/-- What is left of the record of a run when its instruction executes: its lanes, those the gate lets execute, its counter. -/
def gated (b : Bunch) (m : Lanes) (g : Option (Mask × Bool)) : Lanes :=
  match g with | none => m | some (r, inv) => laneSet fun l => m.getLsbD l.val && (b.masks[r].getLsbD l.val != inv)
/-- The words of a sequence stand at a counter, and none of its beginnings is a sequence. -/
def SequenceAt (s : State) (core ctx : Nat) (pc : DWord) (ws : List Nat) : Prop :=
  (∀ k w, ws[k]? = some w → ∃ x, s.Mapped core ctx (pc + .ofNat 64 (4 * k)).toNat .fetch x ∧ windowOf x.pa ≠ .device ∧ s.Clean (Pte.key x.pte) x.pa 4
    ∧ (wordAt s.mem x.pa).toNat = w)
  ∧ ∀ k < ws.length, Sys2Proof.decode (ws.take k) = .short
/-- No stall sample is due, and the module is not held in reset. -/
def Undisturbed (s : State) : Prop :=
  s.fw.held = false ∧ ∀ g ∈ s.groups, g.left = true ∨ g.halted ≠ none ∨ g.dbg.toNat % 65536 = 0 ∨ s.clock < g.sampleDue
/-- Every number the model gives a record is below the next one, and no two records of a kind share one (log 9). -/
def Numbered (s : State) : Prop :=
  let gids := s.groups.map (fun g => g.gid) ++ s.saved.flatMap fun v => v.groups.map fun g => g.gid
  gids.Nodup ∧ (s.launches.map fun l => l.id).Nodup ∧ (s.reqs.map fun r => r.id).Nodup ∧ (s.commands.map fun c => c.id).Nodup
  ∧ (∀ n ∈ gids, n < s.fresh) ∧ (∀ l ∈ s.launches, l.id < s.fresh) ∧ (∀ r ∈ s.reqs, r.id < s.fresh) ∧ (∀ c ∈ s.commands, c.id < s.fresh)
  ∧ s.OneBlock

end Sys2Proof.Claims

/-- R31 to R50: words written out from the encoding tables stand for their instructions. -/
def Obligations.WordsStandFor : Prop := ∀ p ∈ someWords, ∃ n, Sys2Proof.decode p.1 = .ok ⟨none, p.2, n, p.1.length⟩

/-- R31 to R51: every well-formed instruction of a program has words of 32 bits, which decode to it with every operand, whatever
follows them; no beginning of them is a sequence; and a lane-set one under a GUARD decodes with its gate. -/
def Obligations.EncodingsDecode : Prop :=
  (∀ i : Instr, i.wellFormed = true → i.isEvent = false → (∀ k, i ≠ .illegal k) → ∃ ws, Sys2Proof.encode i = some ws)
  ∧ ∀ i ws rest, Sys2Proof.encode i = some ws → (∀ w ∈ ws, w < 2 ^ 32) ∧ (∀ k < ws.length, Sys2Proof.decode (ws.take k) = .short)
    ∧ ∃ n w, ws[n]? = some w ∧ Sys2Proof.decode (ws ++ rest) = .ok ⟨none, i, n, ws.length⟩
      ∧ (w < 2 ^ 31 → ∀ m inv, Sys2Proof.decode (guardWord m inv :: (ws ++ rest)) = .ok ⟨some (m, inv), i, n + 1, ws.length + 1⟩)

/-- A step runs the decoded instruction (R31, R43, R61, R62): the first run that the cycle has issued executes the instruction at
its counter in the lanes that stand there and its gate lets execute; what follows it is that its age starts again (R63), and the
trace record of a divergence (R327). With no run to execute, the head of the agenda is the next step, a cycle only with nothing
bound to come before it; with none of these and nothing due, the next cycle. -/
def Obligations.StepRunsDecoded : Prop :=
  (∀ s r rs h ws d, Undisturbed s → s.issued = r :: rs → s.hereOf r.gid r.bunch = some h → h.g.left = false → h.g.halted = none →
    SequenceAt s h.g.core h.l.ctx r.pc ws → Sys2Proof.decode ws = .ok d →
    let m := laneSet fun l => r.lanes.getLsbD l.val && h.b.threads[l].present && h.b.threads[l].st == .running
      && h.b.threads[l].await == .none && h.b.threads[l].pc == r.pc
    m ≠ 0 →
    let u := { s with
      issued := rs
      issues := s.issues + 1
      cur := ⟨r.gid, r.bunch, m, gated h.b m d.guard, r.pc, r.pc + .ofNat 64 (4 * d.nPrefix), r.pc + .ofNat 64 (4 * d.nWords)⟩ }
    ∀ t, exec d.instr u = .next t →
      step s = .next (t.afterIssue d.instr)
      ∧ ((∀ g, t.group? t.cur.gid = some g → g.dbg.getLsbD 31 = false ∧ g.halted = none) → step s = .next (t.modBunch t.cur.gid t.cur.bunch fun b =>
          changeLanes b t.cur.run fun _ th => if th.await = .engine then th else { th with age := 0, urgent := none })))
  ∧ (∀ s e es, Undisturbed s → s.issued = [] → s.agenda = e :: es → e.row.isEvent = true → e.row ≠ .issueCycle ∨ s.bound = none →
    step s = exec e.row { s with agenda := es, event := e })
  ∧ (∀ s, Undisturbed s → s.issued = [] → s.agenda = [] → s.due = none → step s = exec .issueCycle s)
  ∧ ∀ s, s.fw.held = true → s.agenda = [] → step s = .fault .heldInReset

/-- R127, R5, R275 to R279, R281, R291: out of reset every clock reads 0, no group is resident and no command accepted, every
field of the queue and context tables and every count reads 0, only the null key is loaded; memory is in its form. The register
values that the spec leaves open are the model's (logs 2 to 10). -/
def Obligations.ResetLeaves : Prop :=
  let s := State.reset
  s.clock = 0 ∧ (∀ e : Fin 8, s.ecyc[e] = 0 ∧ s.dev.jcount[e] = 0) ∧ s.dev.elcount = 0 ∧ s.groups = [] ∧ s.launches = [] ∧ s.commands = []
  ∧ (∀ q < 16384, s.queueOn q = false) ∧ (∀ c < 4096, s.ctxEnabled c = false) ∧ (∀ a, Memory.read s.mem a = 0) ∧ (∀ k, s.keyLoaded k = true ↔ k = 0)
  ∧ s.tlb = [] ∧ s.l1 = [] ∧ s.Canonical ∧ Numbered s ∧ s.Settled

/-- Every step keeps every byte memory of the module in its canonical form (the model's form of memory, log 2). -/
def Obligations.StepKeepsCanonical : Prop := ∀ s t, s.Canonical → step s = .next t → t.Canonical

/-- Every step keeps the model's numbers of groups, launches, requests and commands apart, and no block twice in an L1 (R151; the
numbers are the model's own, log 9). -/
def Obligations.StepKeepsNumbers : Prop := ∀ s t, Numbered s → step s = .next t → Numbered t
end

