-- ==== Sys2Proof/Laws/Lanes.lean ====
section
/-! SUPPORT. Laws/Lanes.lean: sets of lanes and the lists of their members. -/

namespace Sys2Proof.Machine

theorem laneBit_getElem (k l : Fin 32) : (laneBit k)[l.val] = decide (l = k) := by
  revert k l; decide

theorem foldl_laneBit (ks : List (Fin 32)) (m : Lanes) (l : Fin 32) :
    (ks.foldl (fun m x => m ||| laneBit x) m)[l.val] = (m[l.val] || decide (l ∈ ks)) := by
  induction ks generalizing m with
  | nil => simp
  | cons k ks ih => simp [ih, laneBit_getElem, Bool.or_assoc, -Fin.getElem_fin]

@[simp] theorem lanesFrom_getElem (ks : List (Fin 32)) (l : Fin 32) : (lanesFrom ks)[l.val] = decide (l ∈ ks) := by
  simp [lanesFrom, foldl_laneBit, -Fin.getElem_fin]

@[simp] theorem laneSet_getElem (p : Fin 32 → Bool) (l : Fin 32) : (laneSet p)[l.val] = p l := by
  simp [laneSet, allLanes]

@[simp] theorem mem_lanesOf (m : Lanes) (l : Fin 32) : l ∈ lanesOf m ↔ m[l.val] = true := by
  simp [lanesOf, allLanes]

theorem lanesOf_nodup (m : Lanes) : (lanesOf m).Nodup := (List.nodup_finRange 32).filter _

/-- Two sets of lanes with the same members are one. -/
theorem Lanes.ext {a b : Lanes} (h : ∀ l : Fin 32, a[l.val] = b[l.val]) : a = b :=
  BitVec.eq_of_getElem_eq fun i hi => h ⟨i, hi⟩

theorem laneSet_self (m : Lanes) : laneSet (fun l => m.getLsbD l.val) = m := Lanes.ext fun l => by simp

theorem lanesOf_eq_nil (m : Lanes) : lanesOf m = [] ↔ m = 0 := by
  constructor
  · intro h
    refine Lanes.ext fun l => ?_
    by_contra hc
    have : l ∈ lanesOf m := by
      rw [mem_lanesOf]; simpa using hc
    simp [h] at this
  · rintro rfl; decide

end Sys2Proof.Machine
end

