-- ==== Sys2Proof/Laws/Registers.lean ====
section
/-! SUPPORT. Laws/Registers.lean: what reads, releases and writes of vector registers do (R82 to R90), register by
register and for the destinations of an instruction. -/

namespace Sys2Proof.Machine

/-! ## One record -/

theorem VReg.release_live (v : VReg) (m : Lanes) (l : Fin 32) :
    (v.release m).live[l.val] = (v.live[l.val] && !m[l.val]) := by
  simp [VReg.release]
theorem VReg.release_val (v : VReg) (m : Lanes) (l : Fin 32) :
    (v.release m).val l = if m[l.val] = true then 0 else v.val l := by
  unfold VReg.val
  by_cases hm : m[l.val] = true <;> by_cases hl : v.live[l.val] = true <;> simp [hm, hl, VReg.release]
  have : ¬ (v.live &&& ~~~m) = 0#32 := by
    intro h
    have := congrArg (fun x : Lanes => x[l.val]) h
    simp [hl, hm] at this
  simp [this]
theorem VReg.release_bad (v : VReg) (m : Lanes) (l : Fin 32) :
    ((v.release m).live[l.val] && (v.release m).bad[l.val]) = (v.live[l.val] && v.bad[l.val] && !m[l.val]) := by
  rw [VReg.release_live]
  cases h1 : v.live[l.val] <;> cases h2 : m[l.val] <;> simp [VReg.release, h1, h2]
theorem VReg.release_not_spilled (v : VReg) (m : Lanes) (h : v.rep ≠ .spilled) : (v.release m).rep ≠ .spilled := by
  simp only [VReg.release]; split <;> simp [h]
theorem VReg.release_isFull (v : VReg) (m : Lanes) (h : (v.release m).rep.isFull = true) : v.rep.isFull = true := by
  simp only [VReg.release] at h; split at h
  · simp [Rep.isFull] at h
  · exact h

/-- What a write of some lanes leaves of a record. -/
structure VReg.Wrote (v v' : VReg) (w : Lanes) (f : Fin 32 → Word) : Prop where
  live : ∀ l : Fin 32, v'.live[l.val] = (v.live[l.val] || w[l.val])
  val : ∀ l : Fin 32, v'.val l = if w[l.val] = true then f l else v.val l
  bad : ∀ l : Fin 32, (v'.live[l.val] && v'.bad[l.val]) = (v.live[l.val] && v.bad[l.val] && !w[l.val])
  here : v.rep ≠ .spilled → v'.rep ≠ .spilled

theorem VReg.Wrote.none (v : VReg) (f : Fin 32 → Word) : VReg.Wrote v v 0 f := by
  constructor <;> simp

theorem VReg.writeFull_wrote (v : VReg) (w : Lanes) (f : Fin 32 → Word) : v.Wrote (v.writeFull w f) w f := by
  refine ⟨fun l => by simp [VReg.writeFull], fun l => ?_, fun l => ?_, fun _ => by simp [VReg.writeFull]⟩
  · unfold VReg.val
    by_cases hw : w[l.val] = true <;> by_cases hl : v.live[l.val] = true <;>
      simp [VReg.writeFull, hw, hl, VReg.val]
  · by_cases hw : w[l.val] = true <;> by_cases hl : v.live[l.val] = true <;> simp [VReg.writeFull, hw, hl]

theorem uniform_eq {w : Lanes} {f : Fin 32 → Word} {x : Word} (h : uniform w f = some x) (l : Fin 32)
    (hl : w[l.val] = true) : f l = x := by
  have hm : l ∈ lanesOf w := by simpa using hl
  unfold uniform at h
  cases hs : lanesOf w with
  | nil => simp [hs] at hm
  | cons k ks =>
    rw [hs] at h hm
    simp only at h
    split at h
    · rename_i hall
      injection h with h
      subst h
      rcases List.mem_cons.mp hm with rfl | hk
      · rfl
      · have := List.all_eq_true.mp hall l hk
        simpa using this
    · cases h

theorem VReg.writeCompressed_wrote (v : VReg) (w : Lanes) (f : Fin 32 → Word) (x : Word) (hx : uniform w f = some x)
    (hv : v.live &&& ~~~ w = 0) : v.Wrote (v.writeCompressed w x) w f := by
  have out : ∀ l : Fin 32, w[l.val] = false → v.live[l.val] = false := by
    intro l hl
    have := congrArg (fun y : Lanes => y[l.val]) hv
    simpa [hl] using this
  refine ⟨fun l => by simp [VReg.writeCompressed], fun l => ?_, fun l => ?_, fun _ => by simp [VReg.writeCompressed]⟩
  · unfold VReg.val
    by_cases hw : w[l.val] = true
    · simp [VReg.writeCompressed, hw, uniform_eq hx l hw]
    · have hw' : w[l.val] = false := by simpa using hw
      simp [VReg.writeCompressed, hw', out l hw']
  · by_cases hw : w[l.val] = true
    · simp [VReg.writeCompressed, hw]
    · have hw' : w[l.val] = false := by simpa using hw
      simp [VReg.writeCompressed, hw', out l hw']

/-! ## One register of a bunch -/

theorem Bunch.setReg_self (b : Bunch) (r : Reg) (v : VReg) : (b.setReg r v).regs[r] = v := by
  simp [Bunch.setReg]
theorem Bunch.setReg_ne (b : Bunch) {r q : Reg} (v : VReg) (h : q ≠ r) : (b.setReg r v).regs[q] = b.regs[q] := by
  have : r.val ≠ q.val := fun e => h (Fin.ext e.symm)
  simp [Bunch.setReg, this]
/-- What a register holds is a matter of its own record and of the instructions in flight. -/
theorem Bunch.setReg_hold (b : Bunch) {r q : Reg} (v : VReg) (h : q ≠ r) : (b.setReg r v).hold q = b.hold q := by
  have e : (b.setReg r v).flights = b.flights := rfl
  have e2 : (b.setReg r v).away = b.away := rfl
  unfold Bunch.hold Bunch.claims Bunch.leaving
  rw [e, e2, Bunch.setReg_ne _ _ h]
theorem Bunch.hold_congr {b c : Bunch} {r : Reg} (h1 : c.flights = b.flights) (h2 : c.away = b.away)
    (h3 : c.regs[r].live = b.regs[r].live) (h4 : c.regs[r].rep = b.regs[r].rep) : c.hold r = b.hold r := by
  unfold Bunch.hold Bunch.claims Bunch.leaving
  rw [h1, h2, h3, h4]
/-- A record that has lost lanes, or its storage with the last of them, holds no more than before. -/
theorem Bunch.hold_less {b c : Bunch} {r : Reg} {k : Hold} (h1 : c.flights = b.flights) (h2 : c.away = b.away)
    (h3 : ∀ m : Lanes, b.regs[r].live &&& m = 0 → c.regs[r].live &&& m = 0)
    (h4 : c.regs[r].rep = b.regs[r].rep ∨ c.regs[r].rep = .released) (hk : k ≠ .nothing) (h : c.hold r = k) : b.hold r = k := by
  unfold Bunch.hold Bunch.claims Bunch.leaving at h ⊢
  rw [h1, h2] at h
  split
  · rename_i hc; rw [if_pos hc] at h; exact h
  · rename_i hc
    rw [if_neg hc] at h
    split at h
    · exact absurd h.symm hk
    · rename_i hl
      split
      · rename_i hl2
        rw [Bool.and_eq_true] at hl hl2
        exact absurd ⟨hl2.1, by have := h3 _ (by simpa using hl2.2); simpa using this⟩ hl
      · rcases h4 with h4 | h4
        · rw [h4] at h; exact h
        · rw [h4] at h; exact absurd h.symm hk
theorem countP_one {α : Type} (p q : α → Bool) (a : α) : ∀ l : List α, l.Nodup → (∀ x ∈ l, x ≠ a → p x = q x) →
    l.countP p ≤ l.countP q + 1
  | [], _, _ => by simp
  | x :: l, hn, h => by
    obtain ⟨hx, hn⟩ := List.nodup_cons.mp hn
    by_cases e : x = a
    · subst e
      have : l.countP p = l.countP q := List.countP_congr fun y hy => by
        rw [h y (by simp [hy]) fun e => hx (e ▸ hy)]
      rw [List.countP_cons, List.countP_cons, this]
      split <;> split <;> omega
    · have := countP_one p q a l hn fun y hy => h y (by simp [hy])
      rw [List.countP_cons, List.countP_cons, h x (by simp) e]
      omega
theorem Bunch.setReg_full (b : Bunch) (r : Reg) (v : VReg) : (b.setReg r v).full ≤ b.full + 1 :=
  countP_one (fun q => (b.setReg r v).hold q == .full) (fun q => b.hold q == .full) r _ (List.nodup_finRange 64) fun q _ hq => by
    rw [Bunch.setReg_hold _ _ hq]
theorem Bunch.full_mono {b c : Bunch} (h : ∀ r, c.hold r = .full → b.hold r = .full) : c.full ≤ b.full :=
  List.countP_mono_left (p := fun r => c.hold r == .full) (q := fun r => b.hold r == .full) fun r _ hr => by
    rw [beq_iff_eq] at hr ⊢; exact h r hr

/-- Two bunches agree in their registers and in the instructions in flight on them. -/
def Bunch.SameRegs (b c : Bunch) : Prop := c.regs = b.regs ∧ c.flights = b.flights ∧ c.away = b.away
theorem Bunch.SameRegs.refl (b : Bunch) : b.SameRegs b := ⟨rfl, rfl, rfl⟩
theorem Bunch.SameRegs.hold {b c : Bunch} (h : b.SameRegs c) (r : Reg) : c.hold r = b.hold r :=
  Bunch.hold_congr h.2.1 h.2.2 (by rw [h.1]) (by rw [h.1])
theorem Bunch.SameRegs.full {b c : Bunch} (h : b.SameRegs c) : c.full ≤ b.full :=
  Bunch.full_mono fun r hr => by rw [← h.hold]; exact hr
theorem Bunch.SameRegs.inCore {b c : Bunch} (h : b.SameRegs c) {r : Reg} (k : b.InCore r) : c.InCore r := by
  unfold Bunch.InCore; rw [h.hold, h.1]; exact k

/-- A bunch but for its registers. -/
def Bunch.Same (b b' : Bunch) : Prop := b' = { b with regs := b'.regs }
theorem Bunch.Same.refl (b : Bunch) : b.Same b := rfl
theorem Bunch.Same.trans {a b c : Bunch} (h : a.Same b) (k : b.Same c) : a.Same c := by
  unfold Bunch.Same at *; rw [k, h]
theorem Bunch.setReg_same (b : Bunch) (r : Reg) (v : VReg) : b.Same (b.setReg r v) := rfl

theorem Bunch.touch_same (b : Bunch) (rs : List Reg) (n : Nat) : b.Same (b.touch rs n) := by
  induction rs generalizing b with
  | nil => rfl
  | cons r rs ih => exact Bunch.Same.trans (Bunch.setReg_same b r _) (ih _)
/-- A touch changes no more of a record than its last access. -/
theorem Bunch.touch_regs (b : Bunch) (rs : List Reg) (n : Nat) (q : Reg) :
    ∃ a, (b.touch rs n).regs[q] = { b.regs[q] with access := a } := by
  induction rs generalizing b with
  | nil => exact ⟨b.regs[q].access, rfl⟩
  | cons r rs ih =>
    obtain ⟨a, ha⟩ := ih (b.setReg r { b.regs[r] with access := n })
    refine ⟨a, ?_⟩
    simp only [Bunch.touch, List.foldl_cons] at ha ⊢
    rw [ha]
    by_cases h : q = r
    · subst h; rw [Bunch.setReg_self]
    · rw [Bunch.setReg_ne _ _ h]
@[simp] theorem Bunch.touch_val (b : Bunch) (rs : List Reg) (n : Nat) (r : Reg) (l : Fin 32) :
    (b.touch rs n).val r l = b.val r l := by
  obtain ⟨a, h⟩ := b.touch_regs rs n r
  simp only [Bunch.val, h]; rfl
@[simp] theorem Bunch.touch_isLive (b : Bunch) (rs : List Reg) (n : Nat) (r : Reg) (l : Fin 32) :
    (b.touch rs n).isLive r l = b.isLive r l := by
  obtain ⟨a, h⟩ := b.touch_regs rs n r
  simp only [Bunch.isLive, h]
@[simp] theorem Bunch.touch_isBad (b : Bunch) (rs : List Reg) (n : Nat) (r : Reg) (l : Fin 32) :
    (b.touch rs n).isBad r l = b.isBad r l := by
  obtain ⟨a, h⟩ := b.touch_regs rs n r
  simp only [Bunch.isBad, Bunch.isLive, h]
theorem Bunch.touch_rep (b : Bunch) (rs : List Reg) (n : Nat) (r : Reg) : (b.touch rs n).regs[r].rep = b.regs[r].rep := by
  obtain ⟨a, h⟩ := b.touch_regs rs n r
  simp only [h]
@[simp] theorem Bunch.touch_sregs (b : Bunch) (rs : List Reg) (n : Nat) : (b.touch rs n).sregs = b.sregs := by
  rw [Bunch.touch_same b rs n]
@[simp] theorem Bunch.touch_masks (b : Bunch) (rs : List Reg) (n : Nat) : (b.touch rs n).masks = b.masks := by
  rw [Bunch.touch_same b rs n]
@[simp] theorem Bunch.touch_threads (b : Bunch) (rs : List Reg) (n : Nat) : (b.touch rs n).threads = b.threads := by
  rw [Bunch.touch_same b rs n]
theorem Bunch.touch_hold (b : Bunch) (rs : List Reg) (n : Nat) (r : Reg) : (b.touch rs n).hold r = b.hold r := by
  obtain ⟨a, h⟩ := b.touch_regs rs n r
  refine Bunch.hold_congr ?_ ?_ (by rw [h]) (by rw [h]) <;> rw [Bunch.touch_same b rs n]
theorem Bunch.touch_full (b : Bunch) (rs : List Reg) (n : Nat) : (b.touch rs n).full ≤ b.full :=
  Bunch.full_mono fun r h => by rw [← Bunch.touch_hold b rs n]; exact h
theorem Bunch.touch_inCore (b : Bunch) (rs : List Reg) (n : Nat) (r : Reg) : (b.touch rs n).InCore r ↔ b.InCore r := by
  unfold Bunch.InCore; rw [Bunch.touch_rep, Bunch.touch_hold]

/-! ## Releases -/

theorem Bunch.release_same (b : Bunch) (rs : List Reg) (m : Lanes) : b.Same (b.release rs m) := by
  induction rs generalizing b with
  | nil => rfl
  | cons r rs ih => exact Bunch.Same.trans (Bunch.setReg_same b r _) (ih _)
theorem Bunch.release_hold (b : Bunch) (rs : List Reg) (m : Lanes) (q : Reg) (k : Hold) (hk : k ≠ .nothing)
    (h : (b.release rs m).hold q = k) : b.hold q = k := by
  induction rs generalizing b with
  | nil => exact h
  | cons r rs ih =>
    have h1 := ih (b.setReg r (b.regs[r].release m)) h
    by_cases e : q = r
    · subst e
      refine Bunch.hold_less (b := b) (c := b.setReg q (b.regs[q].release m)) rfl rfl ?_ ?_ hk h1
      · intro x hx
        rw [Bunch.setReg_self]
        refine Lanes.ext fun l => ?_
        have := congrArg (fun y : Lanes => y[l.val]) hx
        have L := VReg.release_live b.regs[q] m l
        simp only [BitVec.getElem_and] at this ⊢
        rw [L]
        cases h1 : b.regs[q].live[l.val] <;> cases h2 : x[l.val] <;> simp_all
      · rw [Bunch.setReg_self]
        simp only [VReg.release]
        split <;> simp
    · rwa [Bunch.setReg_hold _ _ e] at h1
theorem Bunch.release_full (b : Bunch) (rs : List Reg) (m : Lanes) : (b.release rs m).full ≤ b.full :=
  Bunch.full_mono fun r => Bunch.release_hold b rs m r .full (by decide)
/-- A register that is not named keeps its record; one that is named loses the lanes. -/
theorem Bunch.release_other (b : Bunch) (rs : List Reg) (m : Lanes) (q : Reg) (h : q ∉ rs) : (b.release rs m).regs[q] = b.regs[q] := by
  induction rs generalizing b with
  | nil => rfl
  | cons r rs ih =>
    rw [List.mem_cons, not_or] at h
    have := ih (b.setReg r (b.regs[r].release m)) h.2
    simp only [Bunch.release, List.foldl_cons] at this ⊢
    rw [this, Bunch.setReg_ne _ _ h.1]
theorem Bunch.release_isLive (b : Bunch) (rs : List Reg) (m : Lanes) (q : Reg) (l : Fin 32) :
    (b.release rs m).isLive q l = (b.isLive q l && !(decide (q ∈ rs) && m[l.val])) := by
  induction rs generalizing b with
  | nil => simp [Bunch.release]
  | cons r rs ih =>
    have := ih (b.setReg r (b.regs[r].release m))
    simp only [Bunch.release, List.foldl_cons] at this ⊢
    rw [this]
    by_cases h : q = r
    · subst h
      have := VReg.release_live b.regs[q] m l
      simp only [Bunch.isLive, Bunch.setReg_self, BitVec.getLsbD_eq_getElem l.isLt, this]
      cases b.regs[q].live[l.val] <;> cases m[l.val] <;> simp
    · simp [Bunch.isLive, Bunch.setReg_ne, h, -Fin.getElem_fin]
theorem Bunch.release_val (b : Bunch) (rs : List Reg) (m : Lanes) (q : Reg) (l : Fin 32) :
    (b.release rs m).val q l = if q ∈ rs ∧ m[l.val] = true then 0 else b.val q l := by
  induction rs generalizing b with
  | nil => simp [Bunch.release]
  | cons r rs ih =>
    have := ih (b.setReg r (b.regs[r].release m))
    simp only [Bunch.release, List.foldl_cons] at this ⊢
    rw [this]
    by_cases h : q = r
    · subst h
      have := VReg.release_val b.regs[q] m l
      simp only [Bunch.val, Bunch.setReg_self, this]
      by_cases hm : m[l.val] = true <;> simp [hm]
    · simp [Bunch.val, Bunch.setReg_ne, h, -Fin.getElem_fin]
theorem Bunch.release_isBad (b : Bunch) (rs : List Reg) (m : Lanes) (q : Reg) (l : Fin 32) :
    (b.release rs m).isBad q l = (b.isBad q l && !(decide (q ∈ rs) && m[l.val])) := by
  induction rs generalizing b with
  | nil => simp [Bunch.release]
  | cons r rs ih =>
    have := ih (b.setReg r (b.regs[r].release m))
    simp only [Bunch.release, List.foldl_cons] at this ⊢
    rw [this]
    by_cases h : q = r
    · subst h
      have := VReg.release_bad b.regs[q] m l
      simp only [Bunch.isBad, Bunch.isLive, Bunch.setReg_self, BitVec.getLsbD_eq_getElem l.isLt, this]
      cases b.regs[q].live[l.val] <;> cases b.regs[q].bad[l.val] <;> cases m[l.val] <;> simp
    · simp [Bunch.isBad, Bunch.isLive, Bunch.setReg_ne, h, -Fin.getElem_fin]
theorem Bunch.release_not_spilled (b : Bunch) (rs : List Reg) (m : Lanes) (q : Reg) (h : b.regs[q].rep ≠ .spilled) :
    (b.release rs m).regs[q].rep ≠ .spilled := by
  induction rs generalizing b with
  | nil => exact h
  | cons r rs ih =>
    refine ih (b.setReg r (b.regs[r].release m)) ?_
    by_cases hq : q = r
    · subst hq; rw [Bunch.setReg_self]; exact VReg.release_not_spilled _ _ h
    · rwa [Bunch.setReg_ne _ _ hq]

theorem Bunch.release_inCore (b : Bunch) (rs : List Reg) (m : Lanes) (q : Reg) (h : b.InCore q) : (b.release rs m).InCore q :=
  ⟨Bunch.release_not_spilled b rs m q h.1, fun e => h.2 (Bunch.release_hold b rs m q .spilled (by decide) e)⟩

/-! ## Writes where nothing has to be spilled -/

/-- A write of one register whose record is in the core, with an entry free where it needs one. -/
theorem writeReg_ok (x : RegCtx) (s : State) (b : Bunch) (r : Reg) (w : Lanes) (f : Fin 32 → Word)
    (hs : b.InCore r) (hr : b.hasRoom x.room = true) :
    ∃ v, writeReg x s b r w f = .ok (s, b.setReg r v) ∧ b.regs[r].Wrote v w f := by
  unfold writeReg writeRegAs
  by_cases hw : w = 0
  · subst hw
    refine ⟨b.regs[r], ?_, VReg.Wrote.none _ _⟩
    simp [Bunch.setReg]
  · simp only [hw, if_false]
    have hsp : (b.regs[r].rep.isSpilled || b.hold r == .spilled) = false := by
      simpa [Rep.isSpilled, -Fin.getElem_fin] using And.intro hs.1 hs.2
    have ha : allocateFor x s b r = .ok (s, b) := by
      unfold allocateFor allocate; rw [hr]; split <;> rfl
    split
    · rename_i u hu
      split at hu
      · rename_i hc
        refine ⟨_, rfl, VReg.writeCompressed_wrote _ _ _ _ hu ?_⟩
        have h0 : (b.liveLanes ||| b.regs[r].live) &&& ~~~ w = 0 := by simpa using (Bool.and_eq_true_iff.mp hc).1
        refine Lanes.ext fun l => ?_
        have := congrArg (fun y : Lanes => y[l.val]) h0
        simp at this ⊢
        tauto
      · cases hu
    · simp only [hsp, Bool.and_false, Bool.false_eq_true, if_false, ha]
      exact ⟨_, rfl, VReg.writeFull_wrote _ _ _⟩

/-- The registers of a bunch after its lanes `w` have written the destinations `ds` with the words `f`, from the k-th on. -/
structure Bunch.WroteRegs (b b' : Bunch) (w : Lanes) (f : Fin 32 → List Word) (ds : List Reg) (k : Nat) : Prop where
  same : b.Same b'
  other : ∀ q, q ∉ ds → b'.regs[q] = b.regs[q]
  wrote : ∀ (i : Nat) (r : Reg), ds[i]? = some r → b.regs[r].Wrote b'.regs[r] w fun l => (f l).getD (k + i) 0

theorem writeRegs_ok (x : RegCtx) (w : Lanes) (f : Fin 32 → List Word) (ds : List Reg) (k : Nat) (s : State) (b : Bunch)
    (hn : ds.Nodup) (hs : ∀ r ∈ ds, b.InCore r)
    (hr : b.full + ds.length ≤ Config.vectorFloor + x.room.shared) :
    ∃ b', writeRegs x w f ds k s b = .ok (s, b') ∧ b.WroteRegs b' w f ds k := by
  induction ds generalizing b k with
  | nil => exact ⟨b, rfl, ⟨rfl, fun _ _ => rfl, by simp⟩⟩
  | cons r ds ih =>
    have hroom : b.hasRoom x.room = true := by
      simp only [List.length_cons] at hr
      unfold Bunch.hasRoom Bunch.excess
      rw [Bool.or_eq_true, decide_eq_true_eq, decide_eq_true_eq]
      omega
    obtain ⟨v, h1, h2⟩ := writeReg_ok x s b r w (fun l => (f l).getD k 0) (hs r (by simp)) hroom
    obtain ⟨hrn, hn'⟩ := List.nodup_cons.mp hn
    have ne : ∀ q ∈ ds, q ≠ r := fun q hq e => hrn (e ▸ hq)
    obtain ⟨b', h3, h4⟩ := ih (k + 1) (b.setReg r v) hn'
      (fun q hq => by unfold Bunch.InCore; rw [Bunch.setReg_ne _ _ (ne q hq), Bunch.setReg_hold _ _ (ne q hq)]; exact hs q (by simp [hq]))
      (by have := Bunch.setReg_full b r v; simp only [List.length_cons] at hr; omega)
    refine ⟨b', ?_, ⟨(Bunch.setReg_same b r v).trans h4.same, fun q hq => ?_, fun i q hq => ?_⟩⟩
    · simp only [writeRegs, h1, h3]
    · rw [List.mem_cons, not_or] at hq
      rw [h4.other q hq.2, Bunch.setReg_ne _ _ hq.1]
    · cases i with
      | zero =>
        simp only [List.getElem?_cons_zero, Option.some.injEq] at hq
        subst hq
        rw [h4.other r hrn, Bunch.setReg_self]
        simpa using h2
      | succ i =>
        rw [List.getElem?_cons_succ] at hq
        have := h4.wrote i q hq
        rw [Bunch.setReg_ne _ _ (ne q (List.mem_of_getElem? hq))] at this
        have e : k + (i + 1) = k + 1 + i := by omega
        rw [e]; exact this

/-- Sources that are in the core need no refill. -/
theorem refillAll_ok (x : RegCtx) (rs : List Reg) (s : State) (b : Bunch) (h : ∀ r ∈ rs, b.InCore r) :
    refillAll x rs s b = .ok (s, b) := by
  induction rs with
  | nil => rfl
  | cons r rs ih =>
    obtain ⟨h1, h2⟩ := h r (by simp)
    have hsp : (!b.regs[r].rep.isSpilled && b.hold r != .spilled) = true := by simpa [Rep.isSpilled, -Fin.getElem_fin] using ⟨h1, h2⟩
    simp only [refillAll, refill, hsp, if_true]
    exact ih fun q hq => h q (by simp [hq])

end Sys2Proof.Machine
end

