-- ==== Sys2Proof/Laws/State.lean ====
section
/-! SUPPORT. Laws/State.lean: what an update of the state leaves as it is, one lemma for each field and update, and what the
lookups give after an update. -/

namespace Sys2Proof.Machine

/-! ## modGroup -/

@[simp] theorem State.modGroup_clock (s : State) (gid : Nat) (f : Group → Group) : (s.modGroup gid f).clock = s.clock := rfl
@[simp] theorem State.modGroup_mem (s : State) (gid : Nat) (f : Group → Group) : (s.modGroup gid f).mem = s.mem := rfl
@[simp] theorem State.modGroup_poison (s : State) (gid : Nat) (f : Group → Group) : (s.modGroup gid f).poison = s.poison := rfl
@[simp] theorem State.modGroup_slices (s : State) (gid : Nat) (f : Group → Group) : (s.modGroup gid f).slices = s.slices := rfl
@[simp] theorem State.modGroup_hbm (s : State) (gid : Nat) (f : Group → Group) : (s.modGroup gid f).hbm = s.hbm := rfl
@[simp] theorem State.modGroup_dev (s : State) (gid : Nat) (f : Group → Group) : (s.modGroup gid f).dev = s.dev := rfl
@[simp] theorem State.modGroup_launches (s : State) (gid : Nat) (f : Group → Group) : (s.modGroup gid f).launches = s.launches := rfl
@[simp] theorem State.modGroup_l1 (s : State) (gid : Nat) (f : Group → Group) : (s.modGroup gid f).l1 = s.l1 := rfl
@[simp] theorem State.modGroup_stores (s : State) (gid : Nat) (f : Group → Group) : (s.modGroup gid f).stores = s.stores := rfl
@[simp] theorem State.modGroup_mxTurn (s : State) (gid : Nat) (f : Group → Group) : (s.modGroup gid f).mxTurn = s.mxTurn := rfl
@[simp] theorem State.modGroup_tlb (s : State) (gid : Nat) (f : Group → Group) : (s.modGroup gid f).tlb = s.tlb := rfl
@[simp] theorem State.modGroup_ctxCache (s : State) (gid : Nat) (f : Group → Group) : (s.modGroup gid f).ctxCache = s.ctxCache := rfl
@[simp] theorem State.modGroup_pends (s : State) (gid : Nat) (f : Group → Group) : (s.modGroup gid f).pends = s.pends := rfl
@[simp] theorem State.modGroup_reqs (s : State) (gid : Nat) (f : Group → Group) : (s.modGroup gid f).reqs = s.reqs := rfl
@[simp] theorem State.modGroup_locks (s : State) (gid : Nat) (f : Group → Group) : (s.modGroup gid f).locks = s.locks := rfl
@[simp] theorem State.modGroup_csmNet (s : State) (gid : Nat) (f : Group → Group) : (s.modGroup gid f).csmNet = s.csmNet := rfl
@[simp] theorem State.modGroup_portNet (s : State) (gid : Nat) (f : Group → Group) : (s.modGroup gid f).portNet = s.portNet := rfl
@[simp] theorem State.modGroup_treeDue (s : State) (gid : Nat) (f : Group → Group) : (s.modGroup gid f).treeDue = s.treeDue := rfl
@[simp] theorem State.modGroup_haltMsgs (s : State) (gid : Nat) (f : Group → Group) : (s.modGroup gid f).haltMsgs = s.haltMsgs := rfl
@[simp] theorem State.modGroup_subs (s : State) (gid : Nat) (f : Group → Group) : (s.modGroup gid f).subs = s.subs := rfl
@[simp] theorem State.modGroup_commands (s : State) (gid : Nat) (f : Group → Group) : (s.modGroup gid f).commands = s.commands := rfl
@[simp] theorem State.modGroup_graphs (s : State) (gid : Nat) (f : Group → Group) : (s.modGroup gid f).graphs = s.graphs := rfl
@[simp] theorem State.modGroup_baskets (s : State) (gid : Nat) (f : Group → Group) : (s.modGroup gid f).baskets = s.baskets := rfl
@[simp] theorem State.modGroup_migrations (s : State) (gid : Nat) (f : Group → Group) : (s.modGroup gid f).migrations = s.migrations := rfl
@[simp] theorem State.modGroup_moves (s : State) (gid : Nat) (f : Group → Group) : (s.modGroup gid f).moves = s.moves := rfl
@[simp] theorem State.modGroup_keys (s : State) (gid : Nat) (f : Group → Group) : (s.modGroup gid f).keys = s.keys := rfl
@[simp] theorem State.modGroup_links (s : State) (gid : Nat) (f : Group → Group) : (s.modGroup gid f).links = s.links := rfl
@[simp] theorem State.modGroup_hostDown (s : State) (gid : Nat) (f : Group → Group) : (s.modGroup gid f).hostDown = s.hostDown := rfl
@[simp] theorem State.modGroup_incarnations (s : State) (gid : Nat) (f : Group → Group) : (s.modGroup gid f).incarnations = s.incarnations := rfl
@[simp] theorem State.modGroup_dead (s : State) (gid : Nat) (f : Group → Group) : (s.modGroup gid f).dead = s.dead := rfl
@[simp] theorem State.modGroup_agentLines (s : State) (gid : Nat) (f : Group → Group) : (s.modGroup gid f).agentLines = s.agentLines := rfl
@[simp] theorem State.modGroup_fw (s : State) (gid : Nat) (f : Group → Group) : (s.modGroup gid f).fw = s.fw := rfl
@[simp] theorem State.modGroup_ecyc (s : State) (gid : Nat) (f : Group → Group) : (s.modGroup gid f).ecyc = s.ecyc := rfl
@[simp] theorem State.modGroup_nextPoll (s : State) (gid : Nat) (f : Group → Group) : (s.modGroup gid f).nextPoll = s.nextPoll := rfl
@[simp] theorem State.modGroup_respPoll (s : State) (gid : Nat) (f : Group → Group) : (s.modGroup gid f).respPoll = s.respPoll := rfl
@[simp] theorem State.modGroup_palCyc (s : State) (gid : Nat) (f : Group → Group) : (s.modGroup gid f).palCyc = s.palCyc := rfl
@[simp] theorem State.modGroup_reports (s : State) (gid : Nat) (f : Group → Group) : (s.modGroup gid f).reports = s.reports := rfl
@[simp] theorem State.modGroup_malformed (s : State) (gid : Nat) (f : Group → Group) : (s.modGroup gid f).malformed = s.malformed := rfl
@[simp] theorem State.modGroup_ringFaulted (s : State) (gid : Nat) (f : Group → Group) : (s.modGroup gid f).ringFaulted = s.ringFaulted := rfl
@[simp] theorem State.modGroup_openEntries (s : State) (gid : Nat) (f : Group → Group) : (s.modGroup gid f).openEntries = s.openEntries := rfl
@[simp] theorem State.modGroup_saved (s : State) (gid : Nat) (f : Group → Group) : (s.modGroup gid f).saved = s.saved := rfl
@[simp] theorem State.modGroup_dbgRecs (s : State) (gid : Nat) (f : Group → Group) : (s.modGroup gid f).dbgRecs = s.dbgRecs := rfl
@[simp] theorem State.modGroup_issued (s : State) (gid : Nat) (f : Group → Group) : (s.modGroup gid f).issued = s.issued := rfl
@[simp] theorem State.modGroup_agenda (s : State) (gid : Nat) (f : Group → Group) : (s.modGroup gid f).agenda = s.agenda := rfl
@[simp] theorem State.modGroup_cur (s : State) (gid : Nat) (f : Group → Group) : (s.modGroup gid f).cur = s.cur := rfl
@[simp] theorem State.modGroup_event (s : State) (gid : Nat) (f : Group → Group) : (s.modGroup gid f).event = s.event := rfl
@[simp] theorem State.modGroup_fresh (s : State) (gid : Nat) (f : Group → Group) : (s.modGroup gid f).fresh = s.fresh := rfl
@[simp] theorem State.modGroup_issues (s : State) (gid : Nat) (f : Group → Group) : (s.modGroup gid f).issues = s.issues := rfl
@[simp] theorem State.modGroup_busReply (s : State) (gid : Nat) (f : Group → Group) : (s.modGroup gid f).busReply = s.busReply := rfl

/-! ## modLaunch -/

@[simp] theorem State.modLaunch_clock (s : State) (id : Nat) (f : Launch → Launch) : (s.modLaunch id f).clock = s.clock := rfl
@[simp] theorem State.modLaunch_mem (s : State) (id : Nat) (f : Launch → Launch) : (s.modLaunch id f).mem = s.mem := rfl
@[simp] theorem State.modLaunch_poison (s : State) (id : Nat) (f : Launch → Launch) : (s.modLaunch id f).poison = s.poison := rfl
@[simp] theorem State.modLaunch_slices (s : State) (id : Nat) (f : Launch → Launch) : (s.modLaunch id f).slices = s.slices := rfl
@[simp] theorem State.modLaunch_hbm (s : State) (id : Nat) (f : Launch → Launch) : (s.modLaunch id f).hbm = s.hbm := rfl
@[simp] theorem State.modLaunch_dev (s : State) (id : Nat) (f : Launch → Launch) : (s.modLaunch id f).dev = s.dev := rfl
@[simp] theorem State.modLaunch_groups (s : State) (id : Nat) (f : Launch → Launch) : (s.modLaunch id f).groups = s.groups := rfl
@[simp] theorem State.modLaunch_l1 (s : State) (id : Nat) (f : Launch → Launch) : (s.modLaunch id f).l1 = s.l1 := rfl
@[simp] theorem State.modLaunch_stores (s : State) (id : Nat) (f : Launch → Launch) : (s.modLaunch id f).stores = s.stores := rfl
@[simp] theorem State.modLaunch_mxTurn (s : State) (id : Nat) (f : Launch → Launch) : (s.modLaunch id f).mxTurn = s.mxTurn := rfl
@[simp] theorem State.modLaunch_tlb (s : State) (id : Nat) (f : Launch → Launch) : (s.modLaunch id f).tlb = s.tlb := rfl
@[simp] theorem State.modLaunch_ctxCache (s : State) (id : Nat) (f : Launch → Launch) : (s.modLaunch id f).ctxCache = s.ctxCache := rfl
@[simp] theorem State.modLaunch_pends (s : State) (id : Nat) (f : Launch → Launch) : (s.modLaunch id f).pends = s.pends := rfl
@[simp] theorem State.modLaunch_reqs (s : State) (id : Nat) (f : Launch → Launch) : (s.modLaunch id f).reqs = s.reqs := rfl
@[simp] theorem State.modLaunch_locks (s : State) (id : Nat) (f : Launch → Launch) : (s.modLaunch id f).locks = s.locks := rfl
@[simp] theorem State.modLaunch_csmNet (s : State) (id : Nat) (f : Launch → Launch) : (s.modLaunch id f).csmNet = s.csmNet := rfl
@[simp] theorem State.modLaunch_portNet (s : State) (id : Nat) (f : Launch → Launch) : (s.modLaunch id f).portNet = s.portNet := rfl
@[simp] theorem State.modLaunch_treeDue (s : State) (id : Nat) (f : Launch → Launch) : (s.modLaunch id f).treeDue = s.treeDue := rfl
@[simp] theorem State.modLaunch_haltMsgs (s : State) (id : Nat) (f : Launch → Launch) : (s.modLaunch id f).haltMsgs = s.haltMsgs := rfl
@[simp] theorem State.modLaunch_subs (s : State) (id : Nat) (f : Launch → Launch) : (s.modLaunch id f).subs = s.subs := rfl
@[simp] theorem State.modLaunch_commands (s : State) (id : Nat) (f : Launch → Launch) : (s.modLaunch id f).commands = s.commands := rfl
@[simp] theorem State.modLaunch_graphs (s : State) (id : Nat) (f : Launch → Launch) : (s.modLaunch id f).graphs = s.graphs := rfl
@[simp] theorem State.modLaunch_baskets (s : State) (id : Nat) (f : Launch → Launch) : (s.modLaunch id f).baskets = s.baskets := rfl
@[simp] theorem State.modLaunch_migrations (s : State) (id : Nat) (f : Launch → Launch) : (s.modLaunch id f).migrations = s.migrations := rfl
@[simp] theorem State.modLaunch_moves (s : State) (id : Nat) (f : Launch → Launch) : (s.modLaunch id f).moves = s.moves := rfl
@[simp] theorem State.modLaunch_keys (s : State) (id : Nat) (f : Launch → Launch) : (s.modLaunch id f).keys = s.keys := rfl
@[simp] theorem State.modLaunch_links (s : State) (id : Nat) (f : Launch → Launch) : (s.modLaunch id f).links = s.links := rfl
@[simp] theorem State.modLaunch_hostDown (s : State) (id : Nat) (f : Launch → Launch) : (s.modLaunch id f).hostDown = s.hostDown := rfl
@[simp] theorem State.modLaunch_incarnations (s : State) (id : Nat) (f : Launch → Launch) : (s.modLaunch id f).incarnations = s.incarnations := rfl
@[simp] theorem State.modLaunch_dead (s : State) (id : Nat) (f : Launch → Launch) : (s.modLaunch id f).dead = s.dead := rfl
@[simp] theorem State.modLaunch_agentLines (s : State) (id : Nat) (f : Launch → Launch) : (s.modLaunch id f).agentLines = s.agentLines := rfl
@[simp] theorem State.modLaunch_fw (s : State) (id : Nat) (f : Launch → Launch) : (s.modLaunch id f).fw = s.fw := rfl
@[simp] theorem State.modLaunch_ecyc (s : State) (id : Nat) (f : Launch → Launch) : (s.modLaunch id f).ecyc = s.ecyc := rfl
@[simp] theorem State.modLaunch_nextPoll (s : State) (id : Nat) (f : Launch → Launch) : (s.modLaunch id f).nextPoll = s.nextPoll := rfl
@[simp] theorem State.modLaunch_respPoll (s : State) (id : Nat) (f : Launch → Launch) : (s.modLaunch id f).respPoll = s.respPoll := rfl
@[simp] theorem State.modLaunch_palCyc (s : State) (id : Nat) (f : Launch → Launch) : (s.modLaunch id f).palCyc = s.palCyc := rfl
@[simp] theorem State.modLaunch_reports (s : State) (id : Nat) (f : Launch → Launch) : (s.modLaunch id f).reports = s.reports := rfl
@[simp] theorem State.modLaunch_malformed (s : State) (id : Nat) (f : Launch → Launch) : (s.modLaunch id f).malformed = s.malformed := rfl
@[simp] theorem State.modLaunch_ringFaulted (s : State) (id : Nat) (f : Launch → Launch) : (s.modLaunch id f).ringFaulted = s.ringFaulted := rfl
@[simp] theorem State.modLaunch_openEntries (s : State) (id : Nat) (f : Launch → Launch) : (s.modLaunch id f).openEntries = s.openEntries := rfl
@[simp] theorem State.modLaunch_saved (s : State) (id : Nat) (f : Launch → Launch) : (s.modLaunch id f).saved = s.saved := rfl
@[simp] theorem State.modLaunch_dbgRecs (s : State) (id : Nat) (f : Launch → Launch) : (s.modLaunch id f).dbgRecs = s.dbgRecs := rfl
@[simp] theorem State.modLaunch_issued (s : State) (id : Nat) (f : Launch → Launch) : (s.modLaunch id f).issued = s.issued := rfl
@[simp] theorem State.modLaunch_agenda (s : State) (id : Nat) (f : Launch → Launch) : (s.modLaunch id f).agenda = s.agenda := rfl
@[simp] theorem State.modLaunch_cur (s : State) (id : Nat) (f : Launch → Launch) : (s.modLaunch id f).cur = s.cur := rfl
@[simp] theorem State.modLaunch_event (s : State) (id : Nat) (f : Launch → Launch) : (s.modLaunch id f).event = s.event := rfl
@[simp] theorem State.modLaunch_fresh (s : State) (id : Nat) (f : Launch → Launch) : (s.modLaunch id f).fresh = s.fresh := rfl
@[simp] theorem State.modLaunch_issues (s : State) (id : Nat) (f : Launch → Launch) : (s.modLaunch id f).issues = s.issues := rfl
@[simp] theorem State.modLaunch_busReply (s : State) (id : Nat) (f : Launch → Launch) : (s.modLaunch id f).busReply = s.busReply := rfl

/-! ## putBunch -/

@[simp] theorem State.putBunch_clock (s : State) (gid i : Nat) (b : Bunch) : (s.putBunch gid i b).clock = s.clock := rfl
@[simp] theorem State.putBunch_mem (s : State) (gid i : Nat) (b : Bunch) : (s.putBunch gid i b).mem = s.mem := rfl
@[simp] theorem State.putBunch_poison (s : State) (gid i : Nat) (b : Bunch) : (s.putBunch gid i b).poison = s.poison := rfl
@[simp] theorem State.putBunch_slices (s : State) (gid i : Nat) (b : Bunch) : (s.putBunch gid i b).slices = s.slices := rfl
@[simp] theorem State.putBunch_hbm (s : State) (gid i : Nat) (b : Bunch) : (s.putBunch gid i b).hbm = s.hbm := rfl
@[simp] theorem State.putBunch_dev (s : State) (gid i : Nat) (b : Bunch) : (s.putBunch gid i b).dev = s.dev := rfl
@[simp] theorem State.putBunch_launches (s : State) (gid i : Nat) (b : Bunch) : (s.putBunch gid i b).launches = s.launches := rfl
@[simp] theorem State.putBunch_l1 (s : State) (gid i : Nat) (b : Bunch) : (s.putBunch gid i b).l1 = s.l1 := rfl
@[simp] theorem State.putBunch_stores (s : State) (gid i : Nat) (b : Bunch) : (s.putBunch gid i b).stores = s.stores := rfl
@[simp] theorem State.putBunch_mxTurn (s : State) (gid i : Nat) (b : Bunch) : (s.putBunch gid i b).mxTurn = s.mxTurn := rfl
@[simp] theorem State.putBunch_tlb (s : State) (gid i : Nat) (b : Bunch) : (s.putBunch gid i b).tlb = s.tlb := rfl
@[simp] theorem State.putBunch_ctxCache (s : State) (gid i : Nat) (b : Bunch) : (s.putBunch gid i b).ctxCache = s.ctxCache := rfl
@[simp] theorem State.putBunch_pends (s : State) (gid i : Nat) (b : Bunch) : (s.putBunch gid i b).pends = s.pends := rfl
@[simp] theorem State.putBunch_reqs (s : State) (gid i : Nat) (b : Bunch) : (s.putBunch gid i b).reqs = s.reqs := rfl
@[simp] theorem State.putBunch_locks (s : State) (gid i : Nat) (b : Bunch) : (s.putBunch gid i b).locks = s.locks := rfl
@[simp] theorem State.putBunch_csmNet (s : State) (gid i : Nat) (b : Bunch) : (s.putBunch gid i b).csmNet = s.csmNet := rfl
@[simp] theorem State.putBunch_portNet (s : State) (gid i : Nat) (b : Bunch) : (s.putBunch gid i b).portNet = s.portNet := rfl
@[simp] theorem State.putBunch_treeDue (s : State) (gid i : Nat) (b : Bunch) : (s.putBunch gid i b).treeDue = s.treeDue := rfl
@[simp] theorem State.putBunch_haltMsgs (s : State) (gid i : Nat) (b : Bunch) : (s.putBunch gid i b).haltMsgs = s.haltMsgs := rfl
@[simp] theorem State.putBunch_subs (s : State) (gid i : Nat) (b : Bunch) : (s.putBunch gid i b).subs = s.subs := rfl
@[simp] theorem State.putBunch_commands (s : State) (gid i : Nat) (b : Bunch) : (s.putBunch gid i b).commands = s.commands := rfl
@[simp] theorem State.putBunch_graphs (s : State) (gid i : Nat) (b : Bunch) : (s.putBunch gid i b).graphs = s.graphs := rfl
@[simp] theorem State.putBunch_baskets (s : State) (gid i : Nat) (b : Bunch) : (s.putBunch gid i b).baskets = s.baskets := rfl
@[simp] theorem State.putBunch_migrations (s : State) (gid i : Nat) (b : Bunch) : (s.putBunch gid i b).migrations = s.migrations := rfl
@[simp] theorem State.putBunch_moves (s : State) (gid i : Nat) (b : Bunch) : (s.putBunch gid i b).moves = s.moves := rfl
@[simp] theorem State.putBunch_keys (s : State) (gid i : Nat) (b : Bunch) : (s.putBunch gid i b).keys = s.keys := rfl
@[simp] theorem State.putBunch_links (s : State) (gid i : Nat) (b : Bunch) : (s.putBunch gid i b).links = s.links := rfl
@[simp] theorem State.putBunch_hostDown (s : State) (gid i : Nat) (b : Bunch) : (s.putBunch gid i b).hostDown = s.hostDown := rfl
@[simp] theorem State.putBunch_incarnations (s : State) (gid i : Nat) (b : Bunch) : (s.putBunch gid i b).incarnations = s.incarnations := rfl
@[simp] theorem State.putBunch_dead (s : State) (gid i : Nat) (b : Bunch) : (s.putBunch gid i b).dead = s.dead := rfl
@[simp] theorem State.putBunch_agentLines (s : State) (gid i : Nat) (b : Bunch) : (s.putBunch gid i b).agentLines = s.agentLines := rfl
@[simp] theorem State.putBunch_fw (s : State) (gid i : Nat) (b : Bunch) : (s.putBunch gid i b).fw = s.fw := rfl
@[simp] theorem State.putBunch_ecyc (s : State) (gid i : Nat) (b : Bunch) : (s.putBunch gid i b).ecyc = s.ecyc := rfl
@[simp] theorem State.putBunch_nextPoll (s : State) (gid i : Nat) (b : Bunch) : (s.putBunch gid i b).nextPoll = s.nextPoll := rfl
@[simp] theorem State.putBunch_respPoll (s : State) (gid i : Nat) (b : Bunch) : (s.putBunch gid i b).respPoll = s.respPoll := rfl
@[simp] theorem State.putBunch_palCyc (s : State) (gid i : Nat) (b : Bunch) : (s.putBunch gid i b).palCyc = s.palCyc := rfl
@[simp] theorem State.putBunch_reports (s : State) (gid i : Nat) (b : Bunch) : (s.putBunch gid i b).reports = s.reports := rfl
@[simp] theorem State.putBunch_malformed (s : State) (gid i : Nat) (b : Bunch) : (s.putBunch gid i b).malformed = s.malformed := rfl
@[simp] theorem State.putBunch_ringFaulted (s : State) (gid i : Nat) (b : Bunch) : (s.putBunch gid i b).ringFaulted = s.ringFaulted := rfl
@[simp] theorem State.putBunch_openEntries (s : State) (gid i : Nat) (b : Bunch) : (s.putBunch gid i b).openEntries = s.openEntries := rfl
@[simp] theorem State.putBunch_saved (s : State) (gid i : Nat) (b : Bunch) : (s.putBunch gid i b).saved = s.saved := rfl
@[simp] theorem State.putBunch_dbgRecs (s : State) (gid i : Nat) (b : Bunch) : (s.putBunch gid i b).dbgRecs = s.dbgRecs := rfl
@[simp] theorem State.putBunch_issued (s : State) (gid i : Nat) (b : Bunch) : (s.putBunch gid i b).issued = s.issued := rfl
@[simp] theorem State.putBunch_agenda (s : State) (gid i : Nat) (b : Bunch) : (s.putBunch gid i b).agenda = s.agenda := rfl
@[simp] theorem State.putBunch_cur (s : State) (gid i : Nat) (b : Bunch) : (s.putBunch gid i b).cur = s.cur := rfl
@[simp] theorem State.putBunch_event (s : State) (gid i : Nat) (b : Bunch) : (s.putBunch gid i b).event = s.event := rfl
@[simp] theorem State.putBunch_fresh (s : State) (gid i : Nat) (b : Bunch) : (s.putBunch gid i b).fresh = s.fresh := rfl
@[simp] theorem State.putBunch_issues (s : State) (gid i : Nat) (b : Bunch) : (s.putBunch gid i b).issues = s.issues := rfl
@[simp] theorem State.putBunch_busReply (s : State) (gid i : Nat) (b : Bunch) : (s.putBunch gid i b).busReply = s.busReply := rfl

/-! ## modBunch -/

@[simp] theorem State.modBunch_clock (s : State) (gid i : Nat) (f : Bunch → Bunch) : (s.modBunch gid i f).clock = s.clock := rfl
@[simp] theorem State.modBunch_mem (s : State) (gid i : Nat) (f : Bunch → Bunch) : (s.modBunch gid i f).mem = s.mem := rfl
@[simp] theorem State.modBunch_poison (s : State) (gid i : Nat) (f : Bunch → Bunch) : (s.modBunch gid i f).poison = s.poison := rfl
@[simp] theorem State.modBunch_slices (s : State) (gid i : Nat) (f : Bunch → Bunch) : (s.modBunch gid i f).slices = s.slices := rfl
@[simp] theorem State.modBunch_hbm (s : State) (gid i : Nat) (f : Bunch → Bunch) : (s.modBunch gid i f).hbm = s.hbm := rfl
@[simp] theorem State.modBunch_dev (s : State) (gid i : Nat) (f : Bunch → Bunch) : (s.modBunch gid i f).dev = s.dev := rfl
@[simp] theorem State.modBunch_launches (s : State) (gid i : Nat) (f : Bunch → Bunch) : (s.modBunch gid i f).launches = s.launches := rfl
@[simp] theorem State.modBunch_l1 (s : State) (gid i : Nat) (f : Bunch → Bunch) : (s.modBunch gid i f).l1 = s.l1 := rfl
@[simp] theorem State.modBunch_stores (s : State) (gid i : Nat) (f : Bunch → Bunch) : (s.modBunch gid i f).stores = s.stores := rfl
@[simp] theorem State.modBunch_mxTurn (s : State) (gid i : Nat) (f : Bunch → Bunch) : (s.modBunch gid i f).mxTurn = s.mxTurn := rfl
@[simp] theorem State.modBunch_tlb (s : State) (gid i : Nat) (f : Bunch → Bunch) : (s.modBunch gid i f).tlb = s.tlb := rfl
@[simp] theorem State.modBunch_ctxCache (s : State) (gid i : Nat) (f : Bunch → Bunch) : (s.modBunch gid i f).ctxCache = s.ctxCache := rfl
@[simp] theorem State.modBunch_pends (s : State) (gid i : Nat) (f : Bunch → Bunch) : (s.modBunch gid i f).pends = s.pends := rfl
@[simp] theorem State.modBunch_reqs (s : State) (gid i : Nat) (f : Bunch → Bunch) : (s.modBunch gid i f).reqs = s.reqs := rfl
@[simp] theorem State.modBunch_locks (s : State) (gid i : Nat) (f : Bunch → Bunch) : (s.modBunch gid i f).locks = s.locks := rfl
@[simp] theorem State.modBunch_csmNet (s : State) (gid i : Nat) (f : Bunch → Bunch) : (s.modBunch gid i f).csmNet = s.csmNet := rfl
@[simp] theorem State.modBunch_portNet (s : State) (gid i : Nat) (f : Bunch → Bunch) : (s.modBunch gid i f).portNet = s.portNet := rfl
@[simp] theorem State.modBunch_treeDue (s : State) (gid i : Nat) (f : Bunch → Bunch) : (s.modBunch gid i f).treeDue = s.treeDue := rfl
@[simp] theorem State.modBunch_haltMsgs (s : State) (gid i : Nat) (f : Bunch → Bunch) : (s.modBunch gid i f).haltMsgs = s.haltMsgs := rfl
@[simp] theorem State.modBunch_subs (s : State) (gid i : Nat) (f : Bunch → Bunch) : (s.modBunch gid i f).subs = s.subs := rfl
@[simp] theorem State.modBunch_commands (s : State) (gid i : Nat) (f : Bunch → Bunch) : (s.modBunch gid i f).commands = s.commands := rfl
@[simp] theorem State.modBunch_graphs (s : State) (gid i : Nat) (f : Bunch → Bunch) : (s.modBunch gid i f).graphs = s.graphs := rfl
@[simp] theorem State.modBunch_baskets (s : State) (gid i : Nat) (f : Bunch → Bunch) : (s.modBunch gid i f).baskets = s.baskets := rfl
@[simp] theorem State.modBunch_migrations (s : State) (gid i : Nat) (f : Bunch → Bunch) : (s.modBunch gid i f).migrations = s.migrations := rfl
@[simp] theorem State.modBunch_moves (s : State) (gid i : Nat) (f : Bunch → Bunch) : (s.modBunch gid i f).moves = s.moves := rfl
@[simp] theorem State.modBunch_keys (s : State) (gid i : Nat) (f : Bunch → Bunch) : (s.modBunch gid i f).keys = s.keys := rfl
@[simp] theorem State.modBunch_links (s : State) (gid i : Nat) (f : Bunch → Bunch) : (s.modBunch gid i f).links = s.links := rfl
@[simp] theorem State.modBunch_hostDown (s : State) (gid i : Nat) (f : Bunch → Bunch) : (s.modBunch gid i f).hostDown = s.hostDown := rfl
@[simp] theorem State.modBunch_incarnations (s : State) (gid i : Nat) (f : Bunch → Bunch) : (s.modBunch gid i f).incarnations = s.incarnations := rfl
@[simp] theorem State.modBunch_dead (s : State) (gid i : Nat) (f : Bunch → Bunch) : (s.modBunch gid i f).dead = s.dead := rfl
@[simp] theorem State.modBunch_agentLines (s : State) (gid i : Nat) (f : Bunch → Bunch) : (s.modBunch gid i f).agentLines = s.agentLines := rfl
@[simp] theorem State.modBunch_fw (s : State) (gid i : Nat) (f : Bunch → Bunch) : (s.modBunch gid i f).fw = s.fw := rfl
@[simp] theorem State.modBunch_ecyc (s : State) (gid i : Nat) (f : Bunch → Bunch) : (s.modBunch gid i f).ecyc = s.ecyc := rfl
@[simp] theorem State.modBunch_nextPoll (s : State) (gid i : Nat) (f : Bunch → Bunch) : (s.modBunch gid i f).nextPoll = s.nextPoll := rfl
@[simp] theorem State.modBunch_respPoll (s : State) (gid i : Nat) (f : Bunch → Bunch) : (s.modBunch gid i f).respPoll = s.respPoll := rfl
@[simp] theorem State.modBunch_palCyc (s : State) (gid i : Nat) (f : Bunch → Bunch) : (s.modBunch gid i f).palCyc = s.palCyc := rfl
@[simp] theorem State.modBunch_reports (s : State) (gid i : Nat) (f : Bunch → Bunch) : (s.modBunch gid i f).reports = s.reports := rfl
@[simp] theorem State.modBunch_malformed (s : State) (gid i : Nat) (f : Bunch → Bunch) : (s.modBunch gid i f).malformed = s.malformed := rfl
@[simp] theorem State.modBunch_ringFaulted (s : State) (gid i : Nat) (f : Bunch → Bunch) : (s.modBunch gid i f).ringFaulted = s.ringFaulted := rfl
@[simp] theorem State.modBunch_openEntries (s : State) (gid i : Nat) (f : Bunch → Bunch) : (s.modBunch gid i f).openEntries = s.openEntries := rfl
@[simp] theorem State.modBunch_saved (s : State) (gid i : Nat) (f : Bunch → Bunch) : (s.modBunch gid i f).saved = s.saved := rfl
@[simp] theorem State.modBunch_dbgRecs (s : State) (gid i : Nat) (f : Bunch → Bunch) : (s.modBunch gid i f).dbgRecs = s.dbgRecs := rfl
@[simp] theorem State.modBunch_issued (s : State) (gid i : Nat) (f : Bunch → Bunch) : (s.modBunch gid i f).issued = s.issued := rfl
@[simp] theorem State.modBunch_agenda (s : State) (gid i : Nat) (f : Bunch → Bunch) : (s.modBunch gid i f).agenda = s.agenda := rfl
@[simp] theorem State.modBunch_cur (s : State) (gid i : Nat) (f : Bunch → Bunch) : (s.modBunch gid i f).cur = s.cur := rfl
@[simp] theorem State.modBunch_event (s : State) (gid i : Nat) (f : Bunch → Bunch) : (s.modBunch gid i f).event = s.event := rfl
@[simp] theorem State.modBunch_fresh (s : State) (gid i : Nat) (f : Bunch → Bunch) : (s.modBunch gid i f).fresh = s.fresh := rfl
@[simp] theorem State.modBunch_issues (s : State) (gid i : Nat) (f : Bunch → Bunch) : (s.modBunch gid i f).issues = s.issues := rfl
@[simp] theorem State.modBunch_busReply (s : State) (gid i : Nat) (f : Bunch → Bunch) : (s.modBunch gid i f).busReply = s.busReply := rfl

/-! ## modThread -/

@[simp] theorem State.modThread_clock (s : State) (gid i : Nat) (l : Fin 32) (f : Thread → Thread) : (s.modThread gid i l f).clock = s.clock := rfl
@[simp] theorem State.modThread_mem (s : State) (gid i : Nat) (l : Fin 32) (f : Thread → Thread) : (s.modThread gid i l f).mem = s.mem := rfl
@[simp] theorem State.modThread_poison (s : State) (gid i : Nat) (l : Fin 32) (f : Thread → Thread) : (s.modThread gid i l f).poison = s.poison := rfl
@[simp] theorem State.modThread_slices (s : State) (gid i : Nat) (l : Fin 32) (f : Thread → Thread) : (s.modThread gid i l f).slices = s.slices := rfl
@[simp] theorem State.modThread_hbm (s : State) (gid i : Nat) (l : Fin 32) (f : Thread → Thread) : (s.modThread gid i l f).hbm = s.hbm := rfl
@[simp] theorem State.modThread_dev (s : State) (gid i : Nat) (l : Fin 32) (f : Thread → Thread) : (s.modThread gid i l f).dev = s.dev := rfl
@[simp] theorem State.modThread_launches (s : State) (gid i : Nat) (l : Fin 32) (f : Thread → Thread) : (s.modThread gid i l f).launches = s.launches := rfl
@[simp] theorem State.modThread_l1 (s : State) (gid i : Nat) (l : Fin 32) (f : Thread → Thread) : (s.modThread gid i l f).l1 = s.l1 := rfl
@[simp] theorem State.modThread_stores (s : State) (gid i : Nat) (l : Fin 32) (f : Thread → Thread) : (s.modThread gid i l f).stores = s.stores := rfl
@[simp] theorem State.modThread_mxTurn (s : State) (gid i : Nat) (l : Fin 32) (f : Thread → Thread) : (s.modThread gid i l f).mxTurn = s.mxTurn := rfl
@[simp] theorem State.modThread_tlb (s : State) (gid i : Nat) (l : Fin 32) (f : Thread → Thread) : (s.modThread gid i l f).tlb = s.tlb := rfl
@[simp] theorem State.modThread_ctxCache (s : State) (gid i : Nat) (l : Fin 32) (f : Thread → Thread) : (s.modThread gid i l f).ctxCache = s.ctxCache := rfl
@[simp] theorem State.modThread_pends (s : State) (gid i : Nat) (l : Fin 32) (f : Thread → Thread) : (s.modThread gid i l f).pends = s.pends := rfl
@[simp] theorem State.modThread_reqs (s : State) (gid i : Nat) (l : Fin 32) (f : Thread → Thread) : (s.modThread gid i l f).reqs = s.reqs := rfl
@[simp] theorem State.modThread_locks (s : State) (gid i : Nat) (l : Fin 32) (f : Thread → Thread) : (s.modThread gid i l f).locks = s.locks := rfl
@[simp] theorem State.modThread_csmNet (s : State) (gid i : Nat) (l : Fin 32) (f : Thread → Thread) : (s.modThread gid i l f).csmNet = s.csmNet := rfl
@[simp] theorem State.modThread_portNet (s : State) (gid i : Nat) (l : Fin 32) (f : Thread → Thread) : (s.modThread gid i l f).portNet = s.portNet := rfl
@[simp] theorem State.modThread_treeDue (s : State) (gid i : Nat) (l : Fin 32) (f : Thread → Thread) : (s.modThread gid i l f).treeDue = s.treeDue := rfl
@[simp] theorem State.modThread_haltMsgs (s : State) (gid i : Nat) (l : Fin 32) (f : Thread → Thread) : (s.modThread gid i l f).haltMsgs = s.haltMsgs := rfl
@[simp] theorem State.modThread_subs (s : State) (gid i : Nat) (l : Fin 32) (f : Thread → Thread) : (s.modThread gid i l f).subs = s.subs := rfl
@[simp] theorem State.modThread_commands (s : State) (gid i : Nat) (l : Fin 32) (f : Thread → Thread) : (s.modThread gid i l f).commands = s.commands := rfl
@[simp] theorem State.modThread_graphs (s : State) (gid i : Nat) (l : Fin 32) (f : Thread → Thread) : (s.modThread gid i l f).graphs = s.graphs := rfl
@[simp] theorem State.modThread_baskets (s : State) (gid i : Nat) (l : Fin 32) (f : Thread → Thread) : (s.modThread gid i l f).baskets = s.baskets := rfl
@[simp] theorem State.modThread_migrations (s : State) (gid i : Nat) (l : Fin 32) (f : Thread → Thread) : (s.modThread gid i l f).migrations = s.migrations := rfl
@[simp] theorem State.modThread_moves (s : State) (gid i : Nat) (l : Fin 32) (f : Thread → Thread) : (s.modThread gid i l f).moves = s.moves := rfl
@[simp] theorem State.modThread_keys (s : State) (gid i : Nat) (l : Fin 32) (f : Thread → Thread) : (s.modThread gid i l f).keys = s.keys := rfl
@[simp] theorem State.modThread_links (s : State) (gid i : Nat) (l : Fin 32) (f : Thread → Thread) : (s.modThread gid i l f).links = s.links := rfl
@[simp] theorem State.modThread_hostDown (s : State) (gid i : Nat) (l : Fin 32) (f : Thread → Thread) : (s.modThread gid i l f).hostDown = s.hostDown := rfl
@[simp] theorem State.modThread_incarnations (s : State) (gid i : Nat) (l : Fin 32) (f : Thread → Thread) : (s.modThread gid i l f).incarnations = s.incarnations := rfl
@[simp] theorem State.modThread_dead (s : State) (gid i : Nat) (l : Fin 32) (f : Thread → Thread) : (s.modThread gid i l f).dead = s.dead := rfl
@[simp] theorem State.modThread_agentLines (s : State) (gid i : Nat) (l : Fin 32) (f : Thread → Thread) : (s.modThread gid i l f).agentLines = s.agentLines := rfl
@[simp] theorem State.modThread_fw (s : State) (gid i : Nat) (l : Fin 32) (f : Thread → Thread) : (s.modThread gid i l f).fw = s.fw := rfl
@[simp] theorem State.modThread_ecyc (s : State) (gid i : Nat) (l : Fin 32) (f : Thread → Thread) : (s.modThread gid i l f).ecyc = s.ecyc := rfl
@[simp] theorem State.modThread_nextPoll (s : State) (gid i : Nat) (l : Fin 32) (f : Thread → Thread) : (s.modThread gid i l f).nextPoll = s.nextPoll := rfl
@[simp] theorem State.modThread_respPoll (s : State) (gid i : Nat) (l : Fin 32) (f : Thread → Thread) : (s.modThread gid i l f).respPoll = s.respPoll := rfl
@[simp] theorem State.modThread_palCyc (s : State) (gid i : Nat) (l : Fin 32) (f : Thread → Thread) : (s.modThread gid i l f).palCyc = s.palCyc := rfl
@[simp] theorem State.modThread_reports (s : State) (gid i : Nat) (l : Fin 32) (f : Thread → Thread) : (s.modThread gid i l f).reports = s.reports := rfl
@[simp] theorem State.modThread_malformed (s : State) (gid i : Nat) (l : Fin 32) (f : Thread → Thread) : (s.modThread gid i l f).malformed = s.malformed := rfl
@[simp] theorem State.modThread_ringFaulted (s : State) (gid i : Nat) (l : Fin 32) (f : Thread → Thread) : (s.modThread gid i l f).ringFaulted = s.ringFaulted := rfl
@[simp] theorem State.modThread_openEntries (s : State) (gid i : Nat) (l : Fin 32) (f : Thread → Thread) : (s.modThread gid i l f).openEntries = s.openEntries := rfl
@[simp] theorem State.modThread_saved (s : State) (gid i : Nat) (l : Fin 32) (f : Thread → Thread) : (s.modThread gid i l f).saved = s.saved := rfl
@[simp] theorem State.modThread_dbgRecs (s : State) (gid i : Nat) (l : Fin 32) (f : Thread → Thread) : (s.modThread gid i l f).dbgRecs = s.dbgRecs := rfl
@[simp] theorem State.modThread_issued (s : State) (gid i : Nat) (l : Fin 32) (f : Thread → Thread) : (s.modThread gid i l f).issued = s.issued := rfl
@[simp] theorem State.modThread_agenda (s : State) (gid i : Nat) (l : Fin 32) (f : Thread → Thread) : (s.modThread gid i l f).agenda = s.agenda := rfl
@[simp] theorem State.modThread_cur (s : State) (gid i : Nat) (l : Fin 32) (f : Thread → Thread) : (s.modThread gid i l f).cur = s.cur := rfl
@[simp] theorem State.modThread_event (s : State) (gid i : Nat) (l : Fin 32) (f : Thread → Thread) : (s.modThread gid i l f).event = s.event := rfl
@[simp] theorem State.modThread_fresh (s : State) (gid i : Nat) (l : Fin 32) (f : Thread → Thread) : (s.modThread gid i l f).fresh = s.fresh := rfl
@[simp] theorem State.modThread_issues (s : State) (gid i : Nat) (l : Fin 32) (f : Thread → Thread) : (s.modThread gid i l f).issues = s.issues := rfl
@[simp] theorem State.modThread_busReply (s : State) (gid i : Nat) (l : Fin 32) (f : Thread → Thread) : (s.modThread gid i l f).busReply = s.busReply := rfl

/-! ## setGs -/

@[simp] theorem State.setGs_clock (s : State) (gid : Nat) (w : Word) : (s.setGs gid w).clock = s.clock := rfl
@[simp] theorem State.setGs_mem (s : State) (gid : Nat) (w : Word) : (s.setGs gid w).mem = s.mem := rfl
@[simp] theorem State.setGs_poison (s : State) (gid : Nat) (w : Word) : (s.setGs gid w).poison = s.poison := rfl
@[simp] theorem State.setGs_slices (s : State) (gid : Nat) (w : Word) : (s.setGs gid w).slices = s.slices := rfl
@[simp] theorem State.setGs_hbm (s : State) (gid : Nat) (w : Word) : (s.setGs gid w).hbm = s.hbm := rfl
@[simp] theorem State.setGs_dev (s : State) (gid : Nat) (w : Word) : (s.setGs gid w).dev = s.dev := rfl
@[simp] theorem State.setGs_launches (s : State) (gid : Nat) (w : Word) : (s.setGs gid w).launches = s.launches := rfl
@[simp] theorem State.setGs_l1 (s : State) (gid : Nat) (w : Word) : (s.setGs gid w).l1 = s.l1 := rfl
@[simp] theorem State.setGs_stores (s : State) (gid : Nat) (w : Word) : (s.setGs gid w).stores = s.stores := rfl
@[simp] theorem State.setGs_mxTurn (s : State) (gid : Nat) (w : Word) : (s.setGs gid w).mxTurn = s.mxTurn := rfl
@[simp] theorem State.setGs_tlb (s : State) (gid : Nat) (w : Word) : (s.setGs gid w).tlb = s.tlb := rfl
@[simp] theorem State.setGs_ctxCache (s : State) (gid : Nat) (w : Word) : (s.setGs gid w).ctxCache = s.ctxCache := rfl
@[simp] theorem State.setGs_pends (s : State) (gid : Nat) (w : Word) : (s.setGs gid w).pends = s.pends := rfl
@[simp] theorem State.setGs_reqs (s : State) (gid : Nat) (w : Word) : (s.setGs gid w).reqs = s.reqs := rfl
@[simp] theorem State.setGs_locks (s : State) (gid : Nat) (w : Word) : (s.setGs gid w).locks = s.locks := rfl
@[simp] theorem State.setGs_csmNet (s : State) (gid : Nat) (w : Word) : (s.setGs gid w).csmNet = s.csmNet := rfl
@[simp] theorem State.setGs_portNet (s : State) (gid : Nat) (w : Word) : (s.setGs gid w).portNet = s.portNet := rfl
@[simp] theorem State.setGs_treeDue (s : State) (gid : Nat) (w : Word) : (s.setGs gid w).treeDue = s.treeDue := rfl
@[simp] theorem State.setGs_haltMsgs (s : State) (gid : Nat) (w : Word) : (s.setGs gid w).haltMsgs = s.haltMsgs := rfl
@[simp] theorem State.setGs_subs (s : State) (gid : Nat) (w : Word) : (s.setGs gid w).subs = s.subs := rfl
@[simp] theorem State.setGs_commands (s : State) (gid : Nat) (w : Word) : (s.setGs gid w).commands = s.commands := rfl
@[simp] theorem State.setGs_graphs (s : State) (gid : Nat) (w : Word) : (s.setGs gid w).graphs = s.graphs := rfl
@[simp] theorem State.setGs_baskets (s : State) (gid : Nat) (w : Word) : (s.setGs gid w).baskets = s.baskets := rfl
@[simp] theorem State.setGs_migrations (s : State) (gid : Nat) (w : Word) : (s.setGs gid w).migrations = s.migrations := rfl
@[simp] theorem State.setGs_moves (s : State) (gid : Nat) (w : Word) : (s.setGs gid w).moves = s.moves := rfl
@[simp] theorem State.setGs_keys (s : State) (gid : Nat) (w : Word) : (s.setGs gid w).keys = s.keys := rfl
@[simp] theorem State.setGs_links (s : State) (gid : Nat) (w : Word) : (s.setGs gid w).links = s.links := rfl
@[simp] theorem State.setGs_hostDown (s : State) (gid : Nat) (w : Word) : (s.setGs gid w).hostDown = s.hostDown := rfl
@[simp] theorem State.setGs_incarnations (s : State) (gid : Nat) (w : Word) : (s.setGs gid w).incarnations = s.incarnations := rfl
@[simp] theorem State.setGs_dead (s : State) (gid : Nat) (w : Word) : (s.setGs gid w).dead = s.dead := rfl
@[simp] theorem State.setGs_agentLines (s : State) (gid : Nat) (w : Word) : (s.setGs gid w).agentLines = s.agentLines := rfl
@[simp] theorem State.setGs_fw (s : State) (gid : Nat) (w : Word) : (s.setGs gid w).fw = s.fw := rfl
@[simp] theorem State.setGs_ecyc (s : State) (gid : Nat) (w : Word) : (s.setGs gid w).ecyc = s.ecyc := rfl
@[simp] theorem State.setGs_nextPoll (s : State) (gid : Nat) (w : Word) : (s.setGs gid w).nextPoll = s.nextPoll := rfl
@[simp] theorem State.setGs_respPoll (s : State) (gid : Nat) (w : Word) : (s.setGs gid w).respPoll = s.respPoll := rfl
@[simp] theorem State.setGs_palCyc (s : State) (gid : Nat) (w : Word) : (s.setGs gid w).palCyc = s.palCyc := rfl
@[simp] theorem State.setGs_reports (s : State) (gid : Nat) (w : Word) : (s.setGs gid w).reports = s.reports := rfl
@[simp] theorem State.setGs_malformed (s : State) (gid : Nat) (w : Word) : (s.setGs gid w).malformed = s.malformed := rfl
@[simp] theorem State.setGs_ringFaulted (s : State) (gid : Nat) (w : Word) : (s.setGs gid w).ringFaulted = s.ringFaulted := rfl
@[simp] theorem State.setGs_openEntries (s : State) (gid : Nat) (w : Word) : (s.setGs gid w).openEntries = s.openEntries := rfl
@[simp] theorem State.setGs_saved (s : State) (gid : Nat) (w : Word) : (s.setGs gid w).saved = s.saved := rfl
@[simp] theorem State.setGs_dbgRecs (s : State) (gid : Nat) (w : Word) : (s.setGs gid w).dbgRecs = s.dbgRecs := rfl
@[simp] theorem State.setGs_issued (s : State) (gid : Nat) (w : Word) : (s.setGs gid w).issued = s.issued := rfl
@[simp] theorem State.setGs_agenda (s : State) (gid : Nat) (w : Word) : (s.setGs gid w).agenda = s.agenda := rfl
@[simp] theorem State.setGs_cur (s : State) (gid : Nat) (w : Word) : (s.setGs gid w).cur = s.cur := rfl
@[simp] theorem State.setGs_event (s : State) (gid : Nat) (w : Word) : (s.setGs gid w).event = s.event := rfl
@[simp] theorem State.setGs_fresh (s : State) (gid : Nat) (w : Word) : (s.setGs gid w).fresh = s.fresh := rfl
@[simp] theorem State.setGs_issues (s : State) (gid : Nat) (w : Word) : (s.setGs gid w).issues = s.issues := rfl
@[simp] theorem State.setGs_busReply (s : State) (gid : Nat) (w : Word) : (s.setGs gid w).busReply = s.busReply := rfl

/-! ## Fields of a group and a bunch -/

@[simp] theorem Group.modBunch_gid (g : Group) (i : Nat) (f : Bunch → Bunch) : (g.modBunch i f).gid = g.gid := rfl
@[simp] theorem Group.modBunch_core (g : Group) (i : Nat) (f : Bunch → Bunch) : (g.modBunch i f).core = g.core := rfl
@[simp] theorem Group.modBunch_launch (g : Group) (i : Nat) (f : Bunch → Bunch) : (g.modBunch i f).launch = g.launch := rfl
@[simp] theorem Group.modBunch_num (g : Group) (i : Nat) (f : Bunch → Bunch) : (g.modBunch i f).num = g.num := rfl
@[simp] theorem Group.modBunch_rank (g : Group) (i : Nat) (f : Bunch → Bunch) : (g.modBunch i f).rank = g.rank := rfl
@[simp] theorem Group.modBunch_left (g : Group) (i : Nat) (f : Bunch → Bunch) : (g.modBunch i f).left = g.left := rfl
@[simp] theorem Group.modBunch_halted (g : Group) (i : Nat) (f : Bunch → Bunch) : (g.modBunch i f).halted = g.halted := rfl
@[simp] theorem Group.modBunch_bars (g : Group) (i : Nat) (f : Bunch → Bunch) : (g.modBunch i f).bars = g.bars := rfl
@[simp] theorem Group.modBunch_sp (g : Group) (i : Nat) (f : Bunch → Bunch) : (g.modBunch i f).sp = g.sp := rfl
@[simp] theorem Bunch.modThread_self (b : Bunch) (l : Fin 32) (f : Thread → Thread) :
    (b.modThread l f).threads[l] = f b.threads[l] := by simp [Bunch.modThread]
theorem Bunch.modThread_ne (b : Bunch) {l k : Fin 32} (f : Thread → Thread) (h : k ≠ l) :
    (b.modThread l f).threads[k] = b.threads[k] := by
  have : l.val ≠ k.val := fun e => h (Fin.ext e.symm)
  simp [Bunch.modThread, this]
@[simp] theorem Bunch.modThread_regs (b : Bunch) (l : Fin 32) (f : Thread → Thread) : (b.modThread l f).regs = b.regs := rfl
@[simp] theorem Bunch.modThread_masks (b : Bunch) (l : Fin 32) (f : Thread → Thread) : (b.modThread l f).masks = b.masks := rfl
@[simp] theorem Bunch.modThread_sregs (b : Bunch) (l : Fin 32) (f : Thread → Thread) : (b.modThread l f).sregs = b.sregs := rfl

/-! ## Lookups after updates -/

/-- An update of a group keeps the group's number. -/
def KeepsGid (f : Group → Group) : Prop := ∀ g, (f g).gid = g.gid
theorem keepsGid_modBunch (i : Nat) (f : Bunch → Bunch) : KeepsGid fun g => g.modBunch i f := fun _ => rfl

theorem State.group?_modGroup (s : State) (gid k : Nat) {f : Group → Group} (hf : KeepsGid f) :
    (s.modGroup gid f).group? k = (s.group? k).map fun g => if g.gid = gid then f g else g := by
  unfold State.group? State.modGroup
  simp only [List.find?_map]
  congr 2
  funext g
  simp only [Function.comp_apply]
  split <;> simp_all [KeepsGid]
theorem State.group?_gid {s : State} {k : Nat} {g : Group} (h : s.group? k = some g) : g.gid = k := by
  have := List.find?_some h
  simpa using this
theorem State.group?_modGroup_self {s : State} {gid : Nat} {g : Group} {f : Group → Group} (hf : KeepsGid f)
    (h : s.group? gid = some g) : (s.modGroup gid f).group? gid = some (f g) := by
  rw [State.group?_modGroup s gid gid hf, h]
  simp [State.group?_gid h]
theorem State.group?_modGroup_ne {s : State} {gid k : Nat} {f : Group → Group} (hf : KeepsGid f) (hk : k ≠ gid) :
    (s.modGroup gid f).group? k = s.group? k := by
  rw [State.group?_modGroup s gid k hf]
  cases h : s.group? k with
  | none => rfl
  | some g => simp [State.group?_gid h, hk]
/-- Two updates of one group are one. -/
theorem State.modGroup_modGroup (s : State) (gid : Nat) {f : Group → Group} (g : Group → Group) (hf : KeepsGid f) :
    (s.modGroup gid f).modGroup gid g = s.modGroup gid fun x => g (f x) := by
  unfold State.modGroup
  simp only [List.map_map]
  congr 2
  funext x
  by_cases h : x.gid = gid
  · have := hf x
    simp [h, this]
  · simp [h]
theorem Group.modBunch_modBunch (g : Group) (i : Nat) (f k : Bunch → Bunch) :
    (g.modBunch i f).modBunch i k = g.modBunch i fun b => k (f b) := by
  simp only [Group.modBunch, List.modify_modify_eq]; rfl
theorem State.modBunch_modBunch (s : State) (gid i : Nat) (f k : Bunch → Bunch) :
    (s.modBunch gid i f).modBunch gid i k = s.modBunch gid i fun b => k (f b) := by
  unfold State.modBunch
  rw [State.modGroup_modGroup _ _ _ (keepsGid_modBunch i f)]
  simp only [Group.modBunch_modBunch]
@[simp] theorem State.putBunch_putBunch (s : State) (gid i : Nat) (b b' : Bunch) :
    (s.putBunch gid i b).putBunch gid i b' = s.putBunch gid i b' := State.modBunch_modBunch s gid i _ _
theorem State.putBunch_modBunch (s : State) (gid i : Nat) (b : Bunch) (f : Bunch → Bunch) :
    (s.putBunch gid i b).modBunch gid i f = s.putBunch gid i (f b) := State.modBunch_modBunch s gid i _ _
theorem State.putBunch_modThread (s : State) (gid i : Nat) (b : Bunch) (l : Fin 32) (f : Thread → Thread) :
    (s.putBunch gid i b).modThread gid i l f = s.putBunch gid i (b.modThread l f) := State.modBunch_modBunch s gid i _ _

/-- The run that issues stands at its group, bunch and launch. -/
theorem State.here?_parts {s : State} {h : Here} (hh : s.here? = some h) :
    s.group? s.cur.gid = some h.g ∧ h.g.bunches[s.cur.bunch]? = some h.b ∧ s.launch? h.g.launch = some h.l := by
  unfold State.here? State.hereOf at hh
  cases hg : s.group? s.cur.gid with
  | none => simp [hg] at hh
  | some g =>
    simp only [hg] at hh
    cases hb : g.bunches[s.cur.bunch]? with
    | none => simp [hb] at hh
    | some b =>
      simp only [hb] at hh
      cases hl : s.launch? g.launch with
      | none => simp [hl] at hh
      | some l =>
        simp only [hl, Option.some.injEq] at hh
        subst hh
        exact ⟨rfl, hb, hl⟩
theorem State.here?_gid {s : State} {h : Here} (hh : s.here? = some h) : h.g.gid = s.cur.gid :=
  State.group?_gid (State.here?_parts hh).1
theorem State.bunch?_here {s : State} {h : Here} (hh : s.here? = some h) : s.bunch? h.g.gid s.cur.bunch = some h.b := by
  obtain ⟨hg, hb, _⟩ := State.here?_parts hh
  unfold State.bunch?
  rw [State.here?_gid hh, hg]
  exact hb
/-- A bunch that is put where one stands is found there. -/
theorem State.bunch?_modBunch {s : State} {gid i : Nat} {b : Bunch} (f : Bunch → Bunch) (h : s.bunch? gid i = some b) :
    (s.modBunch gid i f).bunch? gid i = some (f b) := by
  unfold State.bunch? at h ⊢
  cases hg : s.group? gid with
  | none => simp [hg] at h
  | some g =>
    rw [State.modBunch, State.group?_modGroup_self (keepsGid_modBunch i f) hg]
    simp only [hg, Option.bind_some] at h ⊢
    simp [Group.modBunch, h]
theorem State.bunch?_putBunch {s : State} {gid i : Nat} {b : Bunch} (b' : Bunch) (h : s.bunch? gid i = some b) :
    (s.putBunch gid i b').bunch? gid i = some b' := State.bunch?_modBunch _ h

end Sys2Proof.Machine
end

