-- ==== Sys2Proof/Laws/LaneOp.lean ====
section
/-! SUPPORT. Laws/LaneOp.lean: what the pipeline of a lane instruction does when its operands are in the core (R99): its
retirement, the form that computes from registers alone, with faults and without, and the form whose lanes act on the
state one after the other. The results of the lane set rest on these lemmas. -/

namespace Sys2Proof.Machine

/-! ## Shared updates -/

@[simp] theorem State.deliver_nil (s : State) (gid bi : Nat) (pc : DWord) : s.deliver gid bi pc [] = s := rfl

theorem State.modGroup_id (s : State) (gid : Nat) (f : Group → Group) (h : ∀ g, f g = g) : s.modGroup gid f = s := by
  have : (fun g : Group => if g.gid = gid then f g else g) = id := by
    funext g; split <;> simp [h]
  simp [State.modGroup, this]

theorem State.setGs_zero (s : State) (gid : Nat) : s.setGs gid 0 = s := by
  refine State.modGroup_id s gid _ fun g => ?_
  simp

theorem Bunch.jumpLanes_threads (b : Bunch) (m : Lanes) (pc : Fin 32 → DWord) (l : Fin 32) :
    (b.jumpLanes m pc).threads[l] = if m.getLsbD l.val = true then b.threads[l].jump (pc l) else b.threads[l] := by
  simp [Bunch.jumpLanes, Bunch.mapThreads]

/-- The results of two outcomes that agree where they matter are the same. -/
theorem Bunch.After.congr {b x b' : Bunch} {exec run w : Lanes} {goto goto' : Fin 32 → DWord} {rel dests : List Reg}
    {vals vals' : Fin 32 → List Word} (h : b.After x b' exec run w goto rel dests vals)
    (hg : ∀ l : Fin 32, (exec ||| run).getLsbD l.val = true → goto l = goto' l)
    (hv : ∀ l : Fin 32, w.getLsbD l.val = true → vals l = vals' l) : b.After x b' exec run w goto' rel dests vals' := by
  refine ⟨h.1, fun l => ?_, fun i r hi l hl => ?_, h.2.2.2⟩
  · rw [h.2.1 l]
    by_cases he : (exec ||| run).getLsbD l.val = true
    · rw [if_pos he, if_pos he, hg l he]
    · rw [if_neg he, if_neg he]
  · rw [← hv l hl]; exact h.2.2.1 i r hi l hl

/-! ## Registers after a lane instruction -/

theorem Bunch.regsAfter {b b1 b2 b3 : Bunch} {good w : Lanes} {rel dests : List Reg} {vals : Fin 32 → List Word}
    {rs : List Reg} {n : Nat} (h1 : b1.regs = (b.touch rs n).regs) (h2 : b2 = b1.release rel good)
    (h3 : b2.WroteRegs b3 w vals dests 0) : b.RegsAfter b3 good w rel dests vals := by
  have hl1 : ∀ q l, b1.isLive q l = b.isLive q l := by
    intro q l; rw [← Bunch.touch_isLive b rs n]; simp only [Bunch.isLive, h1]
  have hv1 : ∀ q l, b1.val q l = b.val q l := by
    intro q l; rw [← Bunch.touch_val b rs n]; simp only [Bunch.val, h1]
  have hb1 : ∀ q l, b1.isBad q l = b.isBad q l := by
    intro q l; rw [← Bunch.touch_isBad b rs n]; simp only [Bunch.isBad, Bunch.isLive, h1]
  have hl : ∀ q l, b2.isLive q l = (b.isLive q l && !(decide (q ∈ rel) && good[l.val])) := by
    intro q l; rw [h2, Bunch.release_isLive, hl1]
  have hv : ∀ q l, b2.val q l = if q ∈ rel ∧ good[l.val] = true then 0 else b.val q l := by
    intro q l; rw [h2, Bunch.release_val, hv1]
  have hb : ∀ q l, b2.isBad q l = (b.isBad q l && !(decide (q ∈ rel) && good[l.val])) := by
    intro q l; rw [h2, Bunch.release_isBad, hb1]
  refine ⟨fun i r hi l hw => ?_, fun r l hn => ?_, fun r hd hr => ?_⟩
  · have hw' : w[l.val] = true := by simpa using hw
    have W := h3.wrote i r hi
    have L := W.live l
    have V := W.val l
    have B := W.bad l
    simp only [hw', Bool.or_true, if_true, Bool.not_true, Bool.and_false, Nat.zero_add] at L V B
    refine ⟨by simpa [Bunch.isLive, -Fin.getElem_fin] using L, ?_, by simpa [Bunch.val, -Fin.getElem_fin] using V⟩
    simpa [Bunch.isBad, Bunch.isLive, -Fin.getElem_fin] using B
  · have key : b3.isLive r l = b2.isLive r l ∧ b3.val r l = b2.val r l ∧ b3.isBad r l = b2.isBad r l := by
      by_cases hd : r ∈ dests
      · have hw' : w[l.val] = false := by
          have : ¬ w.getLsbD l.val = true := fun e => hn ⟨hd, e⟩
          simpa using this
        obtain ⟨i, hi⟩ := List.getElem?_of_mem hd
        have W := h3.wrote i r hi
        have L := W.live l
        have V := W.val l
        have B := W.bad l
        simp only [hw', Bool.or_false, Bool.false_eq_true, if_false, Bool.not_false, Bool.and_true] at L V B
        refine ⟨by simpa [Bunch.isLive, -Fin.getElem_fin] using L, by simpa [Bunch.val, -Fin.getElem_fin] using V, ?_⟩
        simpa [Bunch.isBad, Bunch.isLive, -Fin.getElem_fin] using B
      · simp only [Bunch.isLive, Bunch.val, Bunch.isBad, h3.other r hd, and_self]
    rw [key.1, key.2.1, key.2.2, hl, hv, hb]
    by_cases hc : r ∈ rel ∧ good[l.val] = true
    · simp [hc.1, hc.2]
    · have hc' : (decide (r ∈ rel) && good[l.val]) = false := by
        cases e : good[l.val] <;> simp_all
      have hc2 : ¬ (r ∈ rel ∧ good.getLsbD l.val = true) := by simpa using hc
      rw [if_neg hc2, if_neg hc, hc']
      simp
  · rw [h3.other r hd, h2, Bunch.release_other _ _ _ _ hr, h1]
    exact Bunch.touch_regs b rs n r

/-! ## Retirement -/

/-- Where a lane of a retiring instruction goes. -/
def State.gotoOf (s : State) (out : Fin 32 → LaneOut) (l : Fin 32) : DWord :=
  if (s.goodLanes out).getLsbD l.val then (out l).goto.getD s.cur.next else s.cur.next
/-- The faults of the lanes, in ascending order. -/
def State.faultsOf (s : State) (out : Fin 32 → LaneOut) : List LaneFault := (lanesOf s.cur.exec).filterMap fun l => (out l).fault

theorem closeTry_gen {s s1 : State} {h : Here} {o : Operands} {b1 : Bunch} {out : Fin 32 → LaneOut} {stale : Bool}
    {post : (Fin 32 → LaneOut) → Lanes → Bunch → Bunch} {gpost : (Fin 32 → LaneOut) → Lanes → Group → Group} {x : Bunch}
    {qs : List Reg} {n : Nat} (hb1 : (h.b.touch qs n).SameRegs b1) (hc : s.InCore h o) (hn : o.dests.Nodup)
    (hp : ∀ b2, b1.Same b2 → post out (s.goodLanes out) b2 = { x with regs := b2.regs }) :
    ∃ b', s.closeTry h o s1 b1 out stale post gpost
        = .ok ((((s1.putBunch h.g.gid s.cur.bunch b').modGroup h.g.gid (gpost out (s.goodLanes out))).setGs h.g.gid
            (s.flagsOf out stale)).deliver h.g.gid s.cur.bunch s.cur.pc (s.faultsOf out))
      ∧ h.b.After x b' (s.goodLanes out) s.gated (s.writers out) (s.gotoOf out) o.marked o.dests fun l => (out l).vals := by
  have hspill : ∀ r ∈ o.dests, (b1.release o.marked (s.goodLanes out)).InCore r := fun r hr =>
    Bunch.release_inCore _ _ _ _ (hb1.inCore ((Bunch.touch_inCore _ _ _ _).mpr (hc.1 r (by simp [Operands.named, hr]))))
  have hfull : (b1.release o.marked (s.goodLanes out)).full + o.dests.length
      ≤ Config.vectorFloor + (s.regCtx h s.cur.bunch o.named).room.shared := by
    have h1 := Bunch.release_full b1 o.marked (s.goodLanes out)
    have h2 := Bunch.touch_full h.b qs n
    have h4 := hb1.full
    have h3 := hc.2
    show _ ≤ Config.vectorFloor + (s.roomFor h.g.core h.g.gid s.cur.bunch).shared
    omega
  obtain ⟨b2, e2, w2⟩ := writeRegs_ok (s.regCtx h s.cur.bunch o.named) (s.writers out) (fun l => (out l).vals) o.dests 0 s1
    (b1.release o.marked (s.goodLanes out)) hn hspill hfull
  have hsame : b1.Same b2 := (Bunch.release_same b1 o.marked (s.goodLanes out)).trans w2.same
  have hregs : h.b.RegsAfter b2 (s.goodLanes out) (s.writers out) o.marked o.dests (fun l => (out l).vals) :=
    Bunch.regsAfter hb1.1 rfl w2
  refine ⟨({ x with regs := b2.regs } : Bunch).jumpLanes (s.goodLanes out ||| s.gated) (s.gotoOf out), ?_, rfl, fun l => ?_, hregs⟩
  · unfold State.closeTry
    simp only [e2, State.retireLanes, hp b2 hsame]
    rfl
  · rw [Bunch.jumpLanes_threads]

/-! ## Instructions of registers alone -/

theorem readFault_touch (h : Here) (bi : Nat) (b : Bunch) (qs : List Reg) (n : Nat) (rs : List Read) (l : Fin 32) :
    readFault h bi (b.touch qs n) rs l = readFault h bi b rs l := by
  have h1 : (fun r : Read => r.stale (b.touch qs n) l) = fun r => r.stale b l := by
    funext r; simp only [Read.stale, Bunch.touch_isLive]
  have h2 : (fun r : Read => r.bad (b.touch qs n) l) = fun r => r.bad b l := by
    funext r; simp only [Read.bad, Bunch.touch_isBad]
  unfold readFault badFault
  rw [h1, h2, Bunch.touch_threads]

theorem laneOut_touch (h : Here) (bi : Nat) (b : Bunch) (qs : List Reg) (n : Nat) (rs : List Read) (r : LaneOut) (l : Fin 32) :
    laneOut h bi (b.touch qs n) rs r l = laneOut h bi b rs r l := by
  unfold laneOut; rw [readFault_touch, Bunch.touch_threads]

theorem anyReads_touch (h : Here) (qs : List Reg) (n : Nat) (m : Lanes) (rs : Fin 32 → List Read) :
    ((lanesOf m).any fun l => (rs l).any fun r => r.stale (h.b.touch qs n) l)
      = (lanesOf m).any fun l => (rs l).any fun r => r.stale h.b l := by
  have : (fun l => (rs l).any fun r => r.stale (h.b.touch qs n) l) = fun l => (rs l).any fun r => r.stale h.b l := by
    funext l
    have : (fun r : Read => r.stale (h.b.touch qs n) l) = fun r => r.stale h.b l := by
      funext r; simp only [Read.stale, Bunch.touch_isLive]
    rw [this]
  rw [this]

/-- Issue where the sources are in the core: no refill, and the reads count as accesses. -/
theorem openOp_ok {s : State} {h : Here} {o : Operands} (hc : s.InCore h o) :
    ∃ qs n, s.openOp h o = .ok (s, h.b.touch qs n) := by
  unfold State.openOp
  by_cases h0 : s.cur.exec = 0
  · exact ⟨[], 0, by rw [if_pos h0]; rfl⟩
  · refine ⟨o.named, s.issues, ?_⟩
    rw [if_neg h0, refillAll_ok]
    intro r hr
    rw [Bunch.touch_inCore]
    exact hc.1 r (by simp only [Operands.named, List.mem_append]; exact Or.inl hr)

/-- A lane's outcome of a form of registers. -/
def State.regOut (s : State) (h : Here) (o : Operands) (rs : Bunch → Fin 32 → List Read) (f : Bunch → Fin 32 → LaneOut)
    (l : Fin 32) : LaneOut := laneOut h s.cur.bunch h.b (o.reads ++ rs h.b l) (f h.b l) l
/-- Some executing lane reads a released copy. -/
def State.readsStale (s : State) (h : Here) (rs : Fin 32 → List Read) : Bool :=
  (lanesOf s.cur.exec).any fun l => (rs l).any fun r => r.stale h.b l

/-- The pipeline of a lane instruction (R99), faults and all. -/
theorem laneOp_gen {s : State} {h : Here} {o : Operands} {rs : Bunch → Fin 32 → List Read} {f : Bunch → Fin 32 → LaneOut}
    {post : (Fin 32 → LaneOut) → Lanes → Bunch → Bunch} {gpost : (Fin 32 → LaneOut) → Lanes → Group → Group} {x : Bunch}
    (hh : s.here? = some h) (hc : s.InCore h o) (hn : o.dests.Nodup)
    (hft : ∀ qs n (l : Fin 32), f (h.b.touch qs n) l = f h.b l)
    (hrt : ∀ qs n (l : Fin 32), rs (h.b.touch qs n) l = rs h.b l)
    (hp : ∀ b2, h.b.Same b2 → post (s.regOut h o rs f) (s.goodLanes (s.regOut h o rs f)) b2 = { x with regs := b2.regs }) :
    ∃ b', s.laneOp o rs f post gpost
        = (((s.putBunch h.g.gid s.cur.bunch b').modGroup h.g.gid
            (gpost (s.regOut h o rs f) (s.goodLanes (s.regOut h o rs f)))).setGs h.g.gid
            (s.flagsOf (s.regOut h o rs f) (s.readsStale h fun l => o.reads ++ rs h.b l))).deliver
              h.g.gid s.cur.bunch s.cur.pc (s.faultsOf (s.regOut h o rs f))
      ∧ h.b.After x b' (s.goodLanes (s.regOut h o rs f)) s.gated (s.writers (s.regOut h o rs f)) (s.gotoOf (s.regOut h o rs f))
          o.marked o.dests fun l => (s.regOut h o rs f l).vals := by
  obtain ⟨qs, n, e⟩ := openOp_ok hc
  have ho : (fun l => laneOut h s.cur.bunch (h.b.touch qs n) (o.reads ++ rs (h.b.touch qs n) l) (f (h.b.touch qs n) l) l)
      = s.regOut h o rs f := by
    funext l; rw [hft, hrt, laneOut_touch]; rfl
  have hs : ((lanesOf s.cur.exec).any fun l => (o.reads ++ rs (h.b.touch qs n) l).any fun r => r.stale (h.b.touch qs n) l)
      = s.readsStale h fun l => o.reads ++ rs h.b l := by
    rw [anyReads_touch]; simp only [hrt]; rfl
  obtain ⟨b', e', A⟩ := closeTry_gen (s := s) (s1 := s) (h := h) (o := o) (b1 := h.b.touch qs n) (out := s.regOut h o rs f)
    (stale := s.readsStale h fun l => o.reads ++ rs h.b l) (post := post) (gpost := gpost) (x := x)
    (Bunch.SameRegs.refl _) hc hn fun b2 hb => hp b2 ((Bunch.touch_same h.b qs n).trans hb)
  refine ⟨b', ?_, A⟩
  unfold State.laneOp State.laneTry
  rw [hh]
  simp only [e]
  rw [ho, hs, e']
  rfl

theorem laneOut_ok {h : Here} {bi : Nat} {b : Bunch} {rs : List Read} {r : LaneOut} {l : Fin 32}
    (h1 : readFault h bi b rs l = none) (h2 : r.fault = none) (h3 : fpxTraps b.threads[l].fmode r.exc = false) :
    laneOut h bi b rs r l = r := by
  unfold laneOut
  rw [h1, h2]
  simp [h3, -Fin.getElem_fin]

/-- Where no executing lane faults or waits, all complete. -/
theorem goodLanes_all {s : State} {out : Fin 32 → LaneOut}
    (h : ∀ l : Fin 32, s.cur.exec.getLsbD l.val = true → (out l).fault = none ∧ (out l).held = false) :
    s.goodLanes out = s.cur.exec := by
  refine Lanes.ext fun l => ?_
  rw [State.goodLanes, laneSet_getElem]
  by_cases he : s.cur.exec.getLsbD l.val = true
  · obtain ⟨e2, e3⟩ := h l he
    rw [e2, e3, he]; simpa using he.symm
  · have : s.cur.exec.getLsbD l.val = false := by simpa using he
    rw [this]; simpa using this.symm
/-- Where no executing lane waits, none has asked. -/
theorem askedLanes_none {s : State} {out : Fin 32 → LaneOut} {b : Bunch}
    (h : ∀ l : Fin 32, s.cur.exec.getLsbD l.val = true → (out l).held = false) : s.askedLanes out b = 0 := by
  refine Lanes.ext fun l => ?_
  rw [State.askedLanes, laneSet_getElem]
  by_cases he : s.cur.exec.getLsbD l.val = true
  · rw [h l he]; simp
  · have : s.cur.exec.getLsbD l.val = false := by simpa using he
    rw [this]; simp
theorem faultsOf_none {s : State} {out : Fin 32 → LaneOut}
    (h : ∀ l : Fin 32, s.cur.exec.getLsbD l.val = true → (out l).fault = none) : s.faultsOf out = [] := by
  unfold State.faultsOf
  rw [List.filterMap_eq_nil_iff]
  intro l hl
  exact h l (by simpa using hl)
theorem exec_or_gated (s : State) : s.cur.exec ||| s.gated = s.cur.exec ||| s.cur.run := by
  refine Lanes.ext fun l => ?_
  simp only [State.gated, BitVec.getElem_or, BitVec.getElem_and, BitVec.getElem_not]
  cases s.cur.exec[l.val] <;> simp
/-- With every lane of the run moving on, After may speak of the run in place of the lanes gated off. -/
theorem Bunch.After.run {s : State} {b x b' : Bunch} {w : Lanes} {goto : Fin 32 → DWord} {rel dests : List Reg}
    {vals : Fin 32 → List Word} (h : b.After x b' s.cur.exec s.gated w goto rel dests vals) :
    b.After x b' s.cur.exec s.cur.run w goto rel dests vals := by
  refine ⟨h.1, fun l => ?_, h.2.2⟩
  rw [h.2.1 l, exec_or_gated]

/-- The pipeline of a lane instruction where no lane faults: lanes may go elsewhere, and need not write. -/
theorem laneOp_ok {s : State} {h : Here} {o : Operands} {rs : Bunch → Fin 32 → List Read} {f : Bunch → Fin 32 → LaneOut}
    {post : (Fin 32 → LaneOut) → Lanes → Bunch → Bunch} {gpost : (Fin 32 → LaneOut) → Lanes → Group → Group} {x : Bunch}
    (hr : s.LaneReady h o (rs h.b)) (hn : o.dests.Nodup)
    (hft : ∀ qs n (l : Fin 32), f (h.b.touch qs n) l = f h.b l)
    (hrt : ∀ qs n (l : Fin 32), rs (h.b.touch qs n) l = rs h.b l)
    (hf : ∀ l : Fin 32, s.cur.exec.getLsbD l.val = true →
      (f h.b l).fault = none ∧ (f h.b l).held = false ∧ fpxTraps h.b.threads[l].fmode (f h.b l).exc = false)
    (hp : ∀ o2 : Fin 32 → LaneOut, (∀ l : Fin 32, s.cur.exec.getLsbD l.val = true → o2 l = f h.b l) →
      ∀ b2, h.b.Same b2 → post o2 s.cur.exec b2 = { x with regs := b2.regs }) :
    ∃ b' o2, s.laneOp o rs f post gpost
        = ((s.putBunch h.g.gid s.cur.bunch b').modGroup h.g.gid (gpost o2 s.cur.exec)).setGs h.g.gid
            (s.gsBits h (fun l => o.reads ++ rs h.b l) fun l => (f h.b l).exc)
      ∧ (∀ l : Fin 32, s.cur.exec.getLsbD l.val = true → o2 l = f h.b l)
      ∧ h.b.After x b' s.cur.exec s.cur.run (laneSet fun l => s.cur.exec.getLsbD l.val && !(f h.b l).skip)
          (fun l => if s.cur.exec.getLsbD l.val = true then (f h.b l).goto.getD s.cur.next else s.cur.next)
          o.marked o.dests (fun l => (f h.b l).vals) := by
  obtain ⟨hh, hc, hw⟩ := hr
  have ho : ∀ l : Fin 32, s.cur.exec.getLsbD l.val = true → s.regOut h o rs f l = f h.b l := fun l he =>
    laneOut_ok (hw l he) (hf l he).1 (hf l he).2.2
  have hg : s.goodLanes (s.regOut h o rs f) = s.cur.exec := goodLanes_all fun l he => by
    rw [ho l he]; exact ⟨(hf l he).1, (hf l he).2.1⟩
  obtain ⟨b', e, A⟩ := laneOp_gen (gpost := gpost) (x := x) hh hc hn hft hrt (by rw [hg]; exact hp _ ho)
  rw [hg, faultsOf_none (fun l he => by rw [ho l he]; exact (hf l he).1), State.deliver_nil] at e
  rw [hg] at A
  refine ⟨b', _, ?_, ho, ?_⟩
  · rw [e]
    congr 1
    unfold State.flagsOf State.gsBits
    refine List.foldl_ext _ _ _ fun w l hl => ?_
    rw [ho l (by simpa using hl)]
  · have hwr : s.writers (s.regOut h o rs f) = laneSet fun l => s.cur.exec.getLsbD l.val && !(f h.b l).skip := by
      refine Lanes.ext fun l => ?_
      rw [State.writers, laneSet_getElem, laneSet_getElem, hg]
      by_cases he : s.cur.exec.getLsbD l.val = true
      · rw [ho l he]
      · have : s.cur.exec.getLsbD l.val = false := by simpa using he
        rw [this]; rfl
    rw [hwr] at A
    refine A.run.congr (fun l _ => ?_) fun l hl => ?_
    · unfold State.gotoOf
      rw [hg]
      by_cases he : s.cur.exec.getLsbD l.val = true
      · rw [if_pos he, if_pos he, ho l he]
      · rw [if_neg he, if_neg he]
    · have : (laneSet fun l => s.cur.exec.getLsbD l.val && !(f h.b l).skip)[l.val] = true := by simpa using hl
      rw [laneSet_getElem] at this
      simp only [ho l (Bool.and_eq_true_iff.mp this).1]

/-- The same for a form without act on the group, where every lane writes and goes on. -/
theorem laneOp_done {s : State} {h : Here} {o : Operands} {rs : Bunch → Fin 32 → List Read} {f : Bunch → Fin 32 → LaneOut}
    {post : (Fin 32 → LaneOut) → Lanes → Bunch → Bunch} {x : Bunch} {i : Instr}
    (hi : exec i s = .next (s.laneOp o rs f post noGpost))
    (hr : s.LaneReady h o (rs h.b)) (hn : o.dests.Nodup)
    (hft : ∀ qs n (l : Fin 32), f (h.b.touch qs n) l = f h.b l)
    (hrt : ∀ qs n (l : Fin 32), rs (h.b.touch qs n) l = rs h.b l)
    (hf : ∀ l : Fin 32, (f h.b l).fault = none ∧ (f h.b l).held = false ∧ (f h.b l).skip = false ∧ (f h.b l).goto = none)
    (hfpx : s.NoFpx h fun l => (f h.b l).exc)
    (hp : ∀ o2 : Fin 32 → LaneOut, (∀ l : Fin 32, s.cur.exec.getLsbD l.val = true → o2 l = f h.b l) →
      ∀ b2, h.b.Same b2 → post o2 s.cur.exec b2 = { x with regs := b2.regs }) :
    LaneDone i s h x o (rs h.b) (fun l => (f h.b l).exc) (fun l => (f h.b l).vals) := by
  obtain ⟨b', o2, e1, _, e3⟩ := laneOp_ok (gpost := noGpost) hr hn hft hrt
    (fun l he => ⟨(hf l).1, (hf l).2.1, hfpx l he⟩) hp
  refine ⟨b', ?_, ?_⟩
  · rw [hi, e1, State.modGroup_id _ _ (noGpost o2 s.cur.exec) (fun g => rfl)]
    rfl
  · have hw : (laneSet fun l => s.cur.exec.getLsbD l.val && !(f h.b l).skip) = s.cur.exec := by
      refine Lanes.ext fun l => ?_
      rw [laneSet_getElem, (hf l).2.2.1]; simp
    rw [hw] at e3
    refine e3.congr (fun l _ => ?_) fun _ _ => rfl
    rw [(hf l).2.2.2]; simp

/-! ## Instructions whose lanes act on the state -/

/-- The run's reads of its sources, for a form that reads no more. -/
def State.seqReads (s : State) (h : Here) (o : Operands) (l : Fin 32) : Option LaneFault := readFault h s.cur.bunch h.b o.reads l

/-- The pipeline of a form whose lanes act one after the other: `hact` says what the acts do, from the state at which the
sources have been read. -/
theorem laneSeq_gen {s s2 : State} {h : Here} {o : Operands} {pre : Here → Bunch → Lanes → State → State}
    {act : Here → Bunch → State → Fin 32 → State × LaneOut} {post : (Fin 32 → LaneOut) → Lanes → Bunch → Bunch}
    {outs : List (Fin 32 × LaneOut)} {x : Bunch}
    (hh : s.here? = some h) (hc : s.InCore h o) (hn : o.dests.Nodup)
    (hq : ∀ b, s.askedLanes (outcomeIn outs) b = 0)
    (hact : ∀ qs n, ∃ b2, actLanes (act h (h.b.touch qs n)) (s.seqReads h o) (lanesOf s.cur.exec)
        (pre h (h.b.touch qs n) (laneSet fun l => s.cur.exec.getLsbD l.val && (s.seqReads h o l).isNone)
          (s.putBunch h.g.gid s.cur.bunch (h.b.touch qs n))) [] = (s2.putBunch h.g.gid s.cur.bunch b2, outs)
      ∧ ((s2.putBunch h.g.gid s.cur.bunch b2).bunch? h.g.gid s.cur.bunch) = some b2
      ∧ (h.b.touch qs n).SameRegs b2
      ∧ ∀ b3, b2.Same b3 → post (outcomeIn outs) (s.goodLanes (outcomeIn outs)) b3 = { x with regs := b3.regs }) :
    ∃ b' b2, s.laneSeq o pre act post
        = (((s2.putBunch h.g.gid s.cur.bunch b2).putBunch h.g.gid s.cur.bunch b').setGs h.g.gid
            (s.flagsOf (outcomeIn outs) (s.readsStale h fun _ => o.reads))).deliver
              h.g.gid s.cur.bunch s.cur.pc (s.faultsOf (outcomeIn outs))
      ∧ h.b.After x b' (s.goodLanes (outcomeIn outs)) s.gated (s.writers (outcomeIn outs)) (s.gotoOf (outcomeIn outs))
          o.marked o.dests fun l => (outcomeIn outs l).vals := by
  obtain ⟨qs, n, e⟩ := openOp_ok hc
  obtain ⟨b2, ha, hb2, hr2, hp2⟩ := hact qs n
  obtain ⟨b', e', A⟩ := closeTry_gen (s := s) (s1 := s2.putBunch h.g.gid s.cur.bunch b2) (h := h) (o := o) (b1 := b2)
    (out := outcomeIn outs) (stale := s.readsStale h fun _ => o.reads) (post := post) (gpost := noGpost) (x := x)
    hr2 hc hn hp2
  refine ⟨b', b2, ?_, A⟩
  have hbad : readFault h s.cur.bunch (h.b.touch qs n) o.reads = s.seqReads h o := by
    funext l; exact readFault_touch _ _ _ _ _ _ _
  have hst : anyStale (h.b.touch qs n) o.reads s.cur.exec = s.readsStale h fun _ => o.reads :=
    anyReads_touch h qs n s.cur.exec fun _ => o.reads
  unfold State.laneSeq State.laneSeqBy
  rw [hh]
  simp only [e]
  rw [hbad, ha, hst]
  simp only [hb2, Option.getD_some, hq b2, if_true]
  rw [e', State.modGroup_id _ _ (noGpost (outcomeIn outs) (s.goodLanes (outcomeIn outs))) fun g => rfl]
  rfl

/-! ## Acts of lanes, one by one -/

theorem actLanes_run {act : State → Fin 32 → State × LaneOut} {bad : Fin 32 → Option LaneFault}
    {st : List (Fin 32) → State} {out : Fin 32 → LaneOut} {all : List (Fin 32)}
    (hs : ∀ q l, l ∉ q → l ∈ all → act (st q) l = (st (q ++ [l]), out l)) (hb : ∀ l ∈ all, bad l = none) :
    ∀ (ls q : List (Fin 32)) (acc : List (Fin 32 × LaneOut)), (q ++ ls).Nodup → (∀ l ∈ ls, l ∈ all) →
      actLanes act bad ls (st q) acc = (st (q ++ ls), (ls.map fun l => (l, out l)).reverse ++ acc) := by
  intro ls
  induction ls with
  | nil => intro q acc _ _; simp [actLanes]
  | cons l ls ih =>
    intro q acc hn ha
    have hl : l ∉ q := by
      rw [List.nodup_append] at hn
      intro hq; exact hn.2.2 l hq l (by simp) rfl
    have hla : l ∈ all := ha l (by simp)
    simp only [actLanes, hb l hla, hs q l hl hla]
    rw [ih (q ++ [l]) ((l, out l) :: acc) (by simpa using hn) fun k hk => ha k (by simp [hk])]
    simp

theorem outcomeIn_reverse {ls : List (Fin 32)} {out : Fin 32 → LaneOut} {l : Fin 32} (hl : l ∈ ls) :
    outcomeIn ((ls.map fun l => (l, out l)).reverse ++ []) l = out l := by
  unfold outcomeIn
  have : ∃ x, ((ls.map fun l => (l, out l)).reverse ++ []).find? (fun x : Fin 32 × LaneOut => x.1 == l) = some x ∧ x = (l, out l) := by
    cases h : ((ls.map fun l => (l, out l)).reverse ++ []).find? (fun x : Fin 32 × LaneOut => x.1 == l) with
    | none =>
      rw [List.find?_eq_none] at h
      exact absurd (h (l, out l) (by simp [hl])) (by simp)
    | some x =>
      refine ⟨x, rfl, ?_⟩
      have h1 := List.find?_some h
      have h2 := List.mem_of_find?_eq_some h
      simp only [List.append_nil, List.mem_reverse, List.mem_map] at h2
      obtain ⟨k, _, rfl⟩ := h2
      have : k = l := by simpa using h1
      rw [this]
  obtain ⟨x, h1, h2⟩ := this
  rw [h1, h2]

/-- A form whose lanes act on the state, where no lane faults. `st b q` is the state after the lanes `q` have acted, from a
bunch `b` whose sources have been read; `s2` and `bx b` are what all of them leave. -/
theorem laneSeq_acts {s s2 : State} {h : Here} {o : Operands} {i : Instr}
    {act : Here → Bunch → State → Fin 32 → State × LaneOut} {post : (Fin 32 → LaneOut) → Lanes → Bunch → Bunch}
    {out : Fin 32 → LaneOut} {x : Bunch} (st : Bunch → List (Fin 32) → State) (bx : Bunch → Bunch)
    (hi : exec i s = .next (s.laneSeq o noPre act post)) (hr : s.LaneReady h o noReads) (hn : o.dests.Nodup)
    (h0 : ∀ b, st b [] = s.putBunch h.g.gid s.cur.bunch b)
    (hs : ∀ qs n q l, l ∉ q → l ∈ lanesOf s.cur.exec →
      act h (h.b.touch qs n) (st (h.b.touch qs n) q) l = (st (h.b.touch qs n) (q ++ [l]), out l))
    (he : ∀ qs n, st (h.b.touch qs n) (lanesOf s.cur.exec) = s2.putBunch h.g.gid s.cur.bunch (bx (h.b.touch qs n)))
    (hcur : s2.cur = s.cur) (hb : ∃ b, s2.bunch? h.g.gid s.cur.bunch = some b) (hreg : ∀ b : Bunch, b.SameRegs (bx b))
    (hx : ∀ o2 : Fin 32 → LaneOut, (∀ l : Fin 32, s.cur.exec.getLsbD l.val = true → o2 l = out l) →
      ∀ b b3, h.b.Same b → (bx b).Same b3 → post o2 s.cur.exec b3 = { x with regs := b3.regs })
    (hf : ∀ l : Fin 32, s.cur.exec.getLsbD l.val = true → (out l).fault = none ∧ (out l).held = false ∧ (out l).exc = 0) :
    LaneActs i s s2 h x o (laneSet fun l => s.cur.exec.getLsbD l.val && !(out l).skip)
      (fun l => (out l).goto.getD s.cur.next) (fun l => (out l).vals) := by
  obtain ⟨hh, hc, hw⟩ := hr
  obtain ⟨b0, hb0⟩ := hb
  have hread : ∀ l ∈ lanesOf s.cur.exec, s.seqReads h o l = none := by
    intro l hl
    have := hw l (by simpa using hl)
    simpa [noReads, State.seqReads] using this
  have hout : ∀ l : Fin 32, s.cur.exec.getLsbD l.val = true →
      outcomeIn (((lanesOf s.cur.exec).map fun l => (l, out l)).reverse ++ []) l = out l := fun l he =>
    outcomeIn_reverse (by simpa using he)
  have hgood : s.goodLanes (outcomeIn (((lanesOf s.cur.exec).map fun l => (l, out l)).reverse ++ [])) = s.cur.exec :=
    goodLanes_all fun l he => by rw [hout l he]; exact ⟨(hf l he).1, (hf l he).2.1⟩
  obtain ⟨b', b2, e, A⟩ := laneSeq_gen (s := s) (s2 := s2) (h := h) (o := o) (pre := noPre) (act := act) (post := post)
    (outs := ((lanesOf s.cur.exec).map fun l => (l, out l)).reverse ++ []) (x := x) hh hc hn (fun b => askedLanes_none fun l he => by
      rw [hout l he]; exact (hf l he).2.1) (by
      intro qs n
      refine ⟨bx (h.b.touch qs n), ?_, State.bunch?_putBunch _ hb0, hreg _, ?_⟩
      · have := actLanes_run (act := act h (h.b.touch qs n)) (bad := s.seqReads h o) (st := st (h.b.touch qs n))
          (out := out) (all := lanesOf s.cur.exec) (hs qs n) hread (lanesOf s.cur.exec) [] [] (lanesOf_nodup _) (fun _ h => h)
        rw [h0, List.nil_append, he] at this
        exact this
      · rw [hgood]
        exact fun b3 hb3 => hx _ hout _ _ (Bunch.touch_same h.b qs n) hb3)
  rw [faultsOf_none (fun l he => by rw [hout l he]; exact (hf l he).1), State.deliver_nil, State.putBunch_putBunch] at e
  rw [hgood] at A
  refine ⟨b', ?_, ?_⟩
  · rw [hi, e, State.laneNext, hcur]
    congr 2
    unfold State.flagsOf State.gsBits
    refine List.foldl_ext _ _ _ fun w l hl => ?_
    have he : s.cur.exec.getLsbD l.val = true := by simpa using hl
    rw [hout l he, (hf l he).2.2]
  · have hwr : s.writers (outcomeIn (((lanesOf s.cur.exec).map fun l => (l, out l)).reverse ++ []))
        = laneSet fun l => s.cur.exec.getLsbD l.val && !(out l).skip := by
      refine Lanes.ext fun l => ?_
      rw [State.writers, laneSet_getElem, laneSet_getElem, hgood]
      by_cases he : s.cur.exec.getLsbD l.val = true
      · rw [hout l he]
      · have : s.cur.exec.getLsbD l.val = false := by simpa using he
        rw [this]; rfl
    rw [hwr] at A
    refine A.run.congr (fun l _ => ?_) fun l hl => ?_
    · unfold State.gotoOf
      rw [hgood]
      by_cases he : s.cur.exec.getLsbD l.val = true
      · rw [if_pos he, if_pos he, hout l he]
      · rw [if_neg he, if_neg he]
    · have : (laneSet fun l => s.cur.exec.getLsbD l.val && !(out l).skip)[l.val] = true := by simpa using hl
      rw [laneSet_getElem] at this
      simp only [hout l (Bool.and_eq_true_iff.mp this).1]

/-! ## Acts on the threads of the run -/

/-- The bunch after the lanes `q` have changed their threads. -/
def Bunch.actedOn (b : Bunch) (q : List (Fin 32)) (f : Fin 32 → Thread → Thread) : Bunch :=
  b.mapThreads fun l t => if l ∈ q then f l t else t
theorem Bunch.actedOn_nil (b : Bunch) (f : Fin 32 → Thread → Thread) : b.actedOn [] f = b := by
  have h : (Vector.ofFn fun l : Fin 32 => b.threads[l]) = b.threads := by ext i hi; simp
  simp only [Bunch.actedOn, Bunch.mapThreads, List.not_mem_nil, if_false, h]
theorem Bunch.actedOn_threads (b : Bunch) (q : List (Fin 32)) (f : Fin 32 → Thread → Thread) (l : Fin 32) :
    (b.actedOn q f).threads[l] = if l ∈ q then f l b.threads[l] else b.threads[l] := by
  simp [Bunch.actedOn, Bunch.mapThreads]
theorem Bunch.actedOn_snoc (b : Bunch) (q : List (Fin 32)) (f : Fin 32 → Thread → Thread) (l : Fin 32) (h : l ∉ q) :
    b.actedOn (q ++ [l]) f = (b.actedOn q f).modThread l (f l) := by
  have key : ∀ k : Fin 32, (b.actedOn (q ++ [l]) f).threads[k] = ((b.actedOn q f).modThread l (f l)).threads[k] := by
    intro k
    rw [Bunch.actedOn_threads]
    by_cases hk : k = l
    · subst hk; rw [Bunch.modThread_self, Bunch.actedOn_threads]; simp [h]
    · rw [Bunch.modThread_ne _ _ hk, Bunch.actedOn_threads]; simp [hk]
  have : (b.actedOn (q ++ [l]) f).threads = ((b.actedOn q f).modThread l (f l)).threads := by
    ext i hi; exact key ⟨i, hi⟩
  have e1 : b.actedOn (q ++ [l]) f = { b with threads := (b.actedOn (q ++ [l]) f).threads } := by
    simp only [Bunch.actedOn, Bunch.mapThreads]
  have e2 : (b.actedOn q f).modThread l (f l) = { b with threads := ((b.actedOn q f).modThread l (f l)).threads } := by
    simp only [Bunch.actedOn, Bunch.mapThreads, Bunch.modThread]
  rw [e1, e2, this]
theorem Bunch.actedOn_lanes (b : Bunch) (m : Lanes) (f : Fin 32 → Thread → Thread) :
    b.actedOn (lanesOf m) f = b.mapThreads fun l t => if m.getLsbD l.val = true then f l t else t := by
  unfold Bunch.actedOn
  congr 1
  funext l t
  simp

@[simp] theorem Bunch.mapThreads_regs (b : Bunch) (f : Fin 32 → Thread → Thread) : (b.mapThreads f).regs = b.regs := by
  simp only [Bunch.mapThreads]
theorem Bunch.mapThreads_sameRegs (b : Bunch) (f : Fin 32 → Thread → Thread) : b.SameRegs (b.mapThreads f) := by
  unfold Bunch.SameRegs; simp only [Bunch.mapThreads, and_self]
theorem Bunch.mapThreads_same {b b' : Bunch} (f : Fin 32 → Thread → Thread) (h : b.Same b') :
    b'.mapThreads f = { b.mapThreads f with regs := b'.regs } := by
  unfold Bunch.Same at h
  rw [h]
  simp only [Bunch.mapThreads]
theorem Bunch.modThread_id (b : Bunch) (l : Fin 32) : (b.modThread l fun t => t) = b := by
  simp [Bunch.modThread]
theorem Bunch.RegsAfter.nodest {b b' : Bunch} {good w : Lanes} (w' : Lanes) {rel : List Reg} {vals : Fin 32 → List Word}
    (vals' : Fin 32 → List Word) (h : b.RegsAfter b' good w rel [] vals) : b.RegsAfter b' good w' rel [] vals' :=
  ⟨fun i r hi => by simp at hi, fun r l hn => h.2.1 r l (by simp), h.2.2⟩

theorem State.thread?_putBunch {s : State} {gid bi : Nat} {b b0 : Bunch} (l : Fin 32) (h : s.bunch? gid bi = some b0) :
    (s.putBunch gid bi b).thread? gid bi l = some b.threads[l] := by
  unfold State.thread?; rw [State.bunch?_putBunch _ h]; rfl

/-- A form whose lanes change their own threads alone. -/
theorem laneSeq_threads {s : State} {h : Here} {o : Operands} {i : Instr} {act : Here → Bunch → State → Fin 32 → State × LaneOut}
    {post : (Fin 32 → LaneOut) → Lanes → Bunch → Bunch} {out : Fin 32 → LaneOut} {x : Bunch} (f : Fin 32 → Thread → Thread)
    (hi : exec i s = .next (s.laneSeq o noPre act post)) (hr : s.LaneReady h o noReads) (hn : o.dests.Nodup)
    (hact : ∀ qs n b l, s.cur.exec.getLsbD l.val = true → b.threads[l] = h.b.threads[l] →
      act h (h.b.touch qs n) (s.putBunch h.g.gid s.cur.bunch b) l
        = (s.putBunch h.g.gid s.cur.bunch (b.modThread l (f l)), out l))
    (hx : ∀ o2 : Fin 32 → LaneOut, (∀ l : Fin 32, s.cur.exec.getLsbD l.val = true → o2 l = out l) →
      ∀ b3, (h.b.mapThreads fun l t => if s.cur.exec.getLsbD l.val = true then f l t else t).Same b3 →
        post o2 s.cur.exec b3 = { x with regs := b3.regs })
    (hf : ∀ l : Fin 32, s.cur.exec.getLsbD l.val = true → (out l).fault = none ∧ (out l).held = false ∧ (out l).exc = 0) :
    LaneActs i s s h x o (laneSet fun l => s.cur.exec.getLsbD l.val && !(out l).skip)
      (fun l => (out l).goto.getD s.cur.next) (fun l => (out l).vals) := by
  refine laneSeq_acts (act := act) (post := post) (out := out) (x := x) (s2 := s)
    (fun b q => s.putBunch h.g.gid s.cur.bunch (b.actedOn q f))
    (fun b => b.mapThreads fun l t => if s.cur.exec.getLsbD l.val = true then f l t else t) hi hr hn
    (fun b => by rw [Bunch.actedOn_nil]) (fun qs n q l hq hl => ?_) (fun qs n => by rw [Bunch.actedOn_lanes]) rfl
    ⟨_, State.bunch?_here hr.1⟩ (fun b => Bunch.mapThreads_sameRegs _ _) (fun o2 ho b b3 h1 h2 => ?_) hf
  · rw [hact qs n _ l (by simpa using hl) (by rw [Bunch.actedOn_threads, if_neg hq, Bunch.touch_threads]),
      Bunch.actedOn_snoc _ _ _ _ hq]
  · refine hx o2 ho b3 ?_
    have h3 := Bunch.mapThreads_same (fun l t => if s.cur.exec.getLsbD l.val = true then f l t else t) h1
    unfold Bunch.Same at h2 ⊢
    rw [h2, h3]

/-! ## Forms without operands -/

theorem State.putBunch_self {s : State} {h : Here} (hh : s.here? = some h) (hn : (s.groups.map fun g => g.gid).Nodup) :
    s.putBunch h.g.gid s.cur.bunch h.b = s := by
  obtain ⟨hg, hb, _⟩ := State.here?_parts hh
  unfold State.putBunch State.modBunch State.modGroup
  have : s.groups.map (fun g => if g.gid = h.g.gid then g.modBunch s.cur.bunch fun _ => h.b else g) = s.groups := by
    conv_rhs => rw [← List.map_id s.groups]
    refine List.map_congr_left fun g hgm => ?_
    by_cases hk : g.gid = h.g.gid
    · rw [if_pos hk]
      have : g = h.g := by
        have h1 := List.mem_of_find?_eq_some hg
        exact List.inj_on_of_nodup_map hn hgm h1 hk
      have hm : h.g.bunches.modify s.cur.bunch (fun _ => h.b) = h.g.bunches := by
        refine List.ext_getElem? fun i => ?_
        rw [List.getElem?_modify]
        by_cases hi : s.cur.bunch = i
        · subst hi; rw [hb]; simp
        · simp [hi]
      rw [this]; simp [Group.modBunch, hm]
    · rw [if_neg hk]; rfl
  rw [this]
theorem laneOp_bare {s : State} {h : Here} {f : Bunch → Fin 32 → LaneOut}
    {post : (Fin 32 → LaneOut) → Lanes → Bunch → Bunch} {gpost : (Fin 32 → LaneOut) → Lanes → Group → Group} (hh : s.here? = some h) (out : Fin 32 → LaneOut)
    (ho : ∀ l, laneOut h s.cur.bunch h.b [] (f h.b l) l = out l) :
    s.laneOp (opsD []) (fun _ _ => []) f post gpost =
      (((s.putBunch h.g.gid s.cur.bunch ((post out (s.goodLanes out) h.b).jumpLanes (s.goodLanes out ||| s.gated) (s.gotoOf out))).modGroup h.g.gid
            (gpost out (s.goodLanes out))).setGs h.g.gid
            (s.flagsOf out false)).deliver h.g.gid s.cur.bunch s.cur.pc (s.faultsOf out) := by
  have e : s.openOp h (opsD []) = .ok (s, h.b) := by
    unfold State.openOp; split
    · rfl
    · rfl
  unfold State.laneOp State.laneTry
  rw [hh]; simp only [e]
  have h1 : (fun l => laneOut h s.cur.bunch h.b ((opsD []).reads ++ []) (f h.b l) l) = out := by funext l; exact ho l
  have h2 : ((lanesOf s.cur.exec).any fun l => ((opsD []).reads ++ []).any fun r => r.stale h.b l) = false := by simp [opsD]
  rw [h1, h2]
  unfold State.closeTry State.orHalt
  simp only [opsD, writeRegs, Operands.marked, List.filter_nil, List.map_nil, List.append_nil, Bunch.release, List.foldl_nil]
  rfl

end Sys2Proof.Machine
end

