-- ==== Sys2Proof/Laws/Memory.lean ====
section
/-! SUPPORT. Laws/Memory.lean: byte memories: writing keeps the canonical form, a read after a write, and the module after
reset. -/

namespace Sys2Proof.Machine

/-- Every listed address lies above one. -/
def Memory.above (a : Nat) (m : List Host.Cell) : Prop := ∀ c ∈ m, a < c.1
theorem Memory.wf_nil : Memory.wf [] = true := rfl
theorem Memory.wf_cons (a : Nat) (v : Byte) (m : List Host.Cell) :
    Memory.wf ((a, v) :: m) = true ↔ v ≠ Memory.blank ∧ Memory.above a m ∧ Memory.wf m = true := by
  simp [Memory.wf, Memory.above, and_assoc]
theorem Memory.above_mono {a b : Nat} {m : List Host.Cell} (h : Memory.above b m) (hab : a ≤ b) : Memory.above a m :=
  fun c hc => lt_of_le_of_lt hab (h c hc)
theorem Memory.read_above {a : Nat} : ∀ {m : List Host.Cell}, Memory.above a m → Memory.read m a = Memory.blank
  | [], _ => rfl
  | (k, v) :: m, h => by
    have hk : a < k := h (k, v) (by simp)
    have := Memory.read_above (m := m) fun c hc => h c (by simp [hc])
    simp [Memory.read, hk.ne', this]
/-- A write lists no address but those listed before and its own. -/
theorem Memory.above_write {b a : Nat} {v : Byte} : ∀ {m : List Host.Cell}, Memory.above b m → b < a → Memory.above b (Memory.write m a v)
  | [], _, hb => by
    unfold Memory.write; split
    · simp [Memory.above]
    · simpa [Memory.above] using hb
  | (k, w) :: m, h, hb => by
    have hk : b < k := h (k, w) (by simp)
    have hm : Memory.above b m := fun c hc => h c (by simp [hc])
    have ih := Memory.above_write (v := v) hm hb
    unfold Memory.write
    split
    · split
      · exact h
      · intro c hc; rcases List.mem_cons.mp hc with rfl | hc
        · exact hb
        · exact h c hc
    · split
      · split
        · exact hm
        · intro c hc; rcases List.mem_cons.mp hc with rfl | hc
          · exact hb
          · exact hm c hc
      · intro c hc; rcases List.mem_cons.mp hc with rfl | hc
        · exact hk
        · exact ih c hc

/-- Writing a byte keeps the canonical form. -/
theorem Memory.wf_write (a : Nat) (v : Byte) : ∀ {m : List Host.Cell}, Memory.wf m = true → Memory.wf (Memory.write m a v) = true
  | [], _ => by
    unfold Memory.write; split
    · rfl
    · rename_i h; exact (Memory.wf_cons a v []).mpr ⟨h, by simp [Memory.above], rfl⟩
  | (k, w) :: m, h => by
    obtain ⟨hw, hk, hm⟩ := (Memory.wf_cons k w m).mp h
    unfold Memory.write
    split
    · rename_i hak
      split
      · exact h
      · rename_i hv
        refine (Memory.wf_cons a v _).mpr ⟨hv, ?_, h⟩
        intro c hc; rcases List.mem_cons.mp hc with rfl | hc
        · exact hak
        · exact lt_trans hak (hk c hc)
    · rename_i hak
      split
      · rename_i hak'
        split
        · exact hm
        · rename_i hv; subst hak'; exact (Memory.wf_cons _ v m).mpr ⟨hv, hk, hm⟩
      · exact (Memory.wf_cons k w _).mpr ⟨hw, Memory.above_write hk (by omega), Memory.wf_write a v hm⟩
/-- So does writing bytes. -/
theorem Memory.wf_writeN : ∀ (bs : List Byte) {m : List Host.Cell} (a : Nat), Memory.wf m = true → Memory.wf (Memory.writeN m a bs) = true
  | [], _, _, h => h
  | b :: bs, _, a, h => Memory.wf_writeN bs (a + 1) (Memory.wf_write a b h)

/-- A read after a write of one byte. -/
theorem Memory.read_write (a b : Nat) (v : Byte) : ∀ {m : List Host.Cell}, Memory.wf m = true →
    Memory.read (Memory.write m a v) b = if b = a then v else Memory.read m b
  | [], _ => by
    unfold Memory.write
    by_cases hv : v = Memory.blank
    · simp [hv, Memory.read]
    · rw [if_neg hv]
      by_cases hb : b = a
      · simp [hb, Memory.read]
      · simp [hb, Memory.read, Ne.symm hb]
  | (k, w) :: m, h => by
    obtain ⟨_, hk, hm⟩ := (Memory.wf_cons k w m).mp h
    have ih := Memory.read_write a b v hm
    unfold Memory.write
    by_cases h1 : a < k
    · rw [if_pos h1]
      have habove : Memory.above a ((k, w) :: m) := fun c hc => by
        rcases List.mem_cons.mp hc with rfl | hc
        · exact h1
        · exact lt_trans h1 (hk c hc)
      by_cases hv : v = Memory.blank
      · rw [if_pos hv]
        by_cases hb : b = a
        · rw [if_pos hb, hb, Memory.read_above habove, hv]
        · rw [if_neg hb]
      · rw [if_neg hv]
        by_cases hb : b = a
        · simp [hb, Memory.read]
        · rw [if_neg hb]; conv_lhs => rw [Memory.read, if_neg (Ne.symm hb)]
    · rw [if_neg h1]
      by_cases h2 : a = k
      · rw [if_pos h2]
        by_cases hv : v = Memory.blank
        · rw [if_pos hv]
          by_cases hb : b = a
          · rw [if_pos hb, hb, h2, Memory.read_above hk, hv]
          · rw [if_neg hb, Memory.read, if_neg (by omega)]
        · rw [if_neg hv]
          by_cases hb : b = a
          · simp [hb, Memory.read]
          · rw [if_neg hb, Memory.read, Memory.read, if_neg (Ne.symm hb), if_neg (by omega)]
      · rw [if_neg h2]
        simp only [Memory.read]
        by_cases hb : k = b
        · rw [if_pos hb, if_neg (by omega), if_pos hb]
        · rw [if_neg hb, if_neg hb, ih]
/-- A read after a write of bytes. -/
theorem Memory.read_writeN : ∀ (bs : List Byte) {m : List Host.Cell} (a b : Nat), Memory.wf m = true →
    Memory.read (Memory.writeN m a bs) b = if a ≤ b ∧ b < a + bs.length then bs.getD (b - a) 0 else Memory.read m b
  | [], _, a, b, _ => by
    have : ¬ (a ≤ b ∧ b < a + ([] : List Byte).length) := by simp
    rw [if_neg this]; rfl
  | x :: bs, m, a, b, h => by
    rw [Memory.writeN, Memory.read_writeN bs (a + 1) b (Memory.wf_write a x h), Memory.read_write a b x h]
    by_cases h1 : b = a
    · subst h1
      rw [if_neg (by omega), if_pos rfl, if_pos (by simp)]
      simp
    · by_cases h2 : a + 1 ≤ b ∧ b < a + 1 + bs.length
      · rw [if_pos h2, if_pos (by simp only [List.length_cons]; omega)]
        have : b - a = (b - (a + 1)) + 1 := by omega
        rw [this, List.getD_cons_succ]
      · rw [if_neg h2, if_neg h1, if_neg (by simp only [List.length_cons]; omega)]
/-- Bytes written are read back. -/
theorem Memory.readN_writeN (bs : List Byte) {m : List Host.Cell} (a : Nat) (h : Memory.wf m = true) :
    Memory.readN (Memory.writeN m a bs) a bs.length = bs := by
  refine List.ext_getElem (by simp [Memory.readN]) fun i h1 h2 => ?_
  simp only [Memory.readN, List.getElem_map, List.getElem_range, Memory.read_writeN bs a (a + i) h]
  rw [if_pos (by omega)]
  simp [List.getD_eq_getElem?_getD, h2]
/-- Equal contents are equal data: two memories in canonical form that read alike are the same list. -/
theorem Memory.ext : ∀ {m n : List Host.Cell}, Memory.wf m = true → Memory.wf n = true →
    (∀ a, Memory.read m a = Memory.read n a) → m = n
  | [], [], _, _, _ => rfl
  | [], (k, v) :: n, _, hn, h => by
    obtain ⟨hv, _, _⟩ := (Memory.wf_cons k v n).mp hn
    exact absurd (by simpa [Memory.read] using (h k).symm) hv
  | (k, v) :: m, [], hm, _, h => by
    obtain ⟨hv, _, _⟩ := (Memory.wf_cons k v m).mp hm
    exact absurd (by simpa [Memory.read] using h k) hv
  | (k, v) :: m, (j, w) :: n, hm, hn, h => by
    obtain ⟨hv, hk, hm'⟩ := (Memory.wf_cons k v m).mp hm
    obtain ⟨hw, hj, hn'⟩ := (Memory.wf_cons j w n).mp hn
    have hkj : k = j := by
      rcases lt_trichotomy k j with hlt | he | hgt
      · have hab : Memory.above k ((j, w) :: n) := fun c hc => by
          rcases List.mem_cons.mp hc with rfl | hc
          · exact hlt
          · exact lt_trans hlt (hj c hc)
        have := h k
        rw [Memory.read_above hab] at this
        exact absurd (by simpa [Memory.read] using this) hv
      · exact he
      · have hab : Memory.above j ((k, v) :: m) := fun c hc => by
          rcases List.mem_cons.mp hc with rfl | hc
          · exact hgt
          · exact lt_trans hgt (hk c hc)
        have := h j
        rw [Memory.read_above hab] at this
        exact absurd (by simpa [Memory.read] using this.symm) hw
    subst hkj
    have hvw : v = w := by simpa [Memory.read] using h k
    subst hvw
    congr 1
    refine Memory.ext hm' hn' fun a => ?_
    by_cases ha : k = a
    · subst ha; rw [Memory.read_above hk, Memory.read_above hj]
    · simpa [Memory.read, ha] using h a

/-- The module after reset has its memories in canonical form. -/
theorem State.reset_memory : Memory.wf State.reset.mem = true := rfl

end Sys2Proof.Machine
end

