-- ==== Sys2Proof/Laws/Shapes.lean ====
section
/-! SUPPORT. Laws/Shapes.lean: what each shape of lane instruction answers where its operands are in the core: one lemma
per shape, which the results of the instructions of that shape cite. -/

namespace Sys2Proof.Machine

theorem regNext_ne (d : Reg) : d ≠ regNext d 1 := by
  intro h
  have := congrArg Fin.val h
  have hd := d.isLt
  simp [regNext, Fin.ofNat] at this
  omega

theorem regNext_zero (d : Reg) : regNext d 0 = d := Fin.ext (by simp [regNext])

@[simp] theorem srcWord_touch (a : Src) (b : Bunch) (rs : List Reg) (n : Nat) (l : Fin 32) :
    srcWord a (b.touch rs n) l = srcWord a b l := by simp [srcWord]
@[simp] theorem srcPair_touch (a : Src) (b : Bunch) (rs : List Reg) (n : Nat) (l : Fin 32) :
    srcPair a (b.touch rs n) l = srcPair a b l := by simp [srcPair]
@[simp] theorem Bunch.sreg_touch (r : Reg) (b : Bunch) (rs : List Reg) (n : Nat) : (b.touch rs n).sreg r = b.sreg r := by
  simp [Bunch.sreg]
@[simp] theorem Bunch.spair_touch (r : Reg) (b : Bunch) (rs : List Reg) (n : Nat) : (b.touch rs n).spair r = b.spair r := by
  simp [Bunch.spair]
@[simp] theorem Bunch.rm_touch (b : Bunch) (rs : List Reg) (n : Nat) (l : Fin 32) : (b.touch rs n).rm l = b.rm l := by
  simp [Bunch.rm]
@[simp] theorem Bunch.narrow_touch (b : Bunch) (rs : List Reg) (n : Nat) (l : Fin 32) :
    (b.touch rs n).narrow l = b.narrow l := by simp [Bunch.narrow]
@[simp] theorem Bunch.bit_touch (m : Mask) (b : Bunch) (rs : List Reg) (n : Nat) (l : Fin 32) :
    (b.touch rs n).bit m l = b.bit m l := by simp [Bunch.bit]
@[simp] theorem Bunch.presentLanes_touch (b : Bunch) (rs : List Reg) (n : Nat) :
    (b.touch rs n).presentLanes = b.presentLanes := by simp [Bunch.presentLanes]

/-- No form raises an exception that traps where it raises none. -/
theorem State.noFpx_zero (s : State) (h : Here) : s.NoFpx h noExc := fun l _ => by simp [fpxTraps, noExc]

theorem alu_done {i : Instr} {o : Operands} {f : Bunch → Fin 32 → LaneOut} {s : State} {h : Here}
    (hi : exec i s = s.alu o f) (hr : s.LaneReady h o noReads) (hn : o.dests.Nodup)
    (hft : ∀ (rs : List Reg) (n : Nat) (l : Fin 32), f (h.b.touch rs n) l = f h.b l)
    (hf : ∀ l : Fin 32, (f h.b l).fault = none ∧ (f h.b l).held = false ∧ (f h.b l).skip = false ∧ (f h.b l).goto = none)
    (hfpx : s.NoFpx h fun l => (f h.b l).exc) :
    LaneDone i s h h.b o noReads (fun l => (f h.b l).exc) (fun l => (f h.b l).vals) :=
  laneOp_done (rs := fun _ _ => []) hi hr hn hft (fun _ _ _ => rfl) hf hfpx (fun _ _ _ hb => hb)

theorem word_done {i : Instr} {o : Operands} {f : Bunch → Fin 32 → Word} {s : State} {h : Here}
    (hi : exec i s = s.alu o fun x l => outWord (f x l)) (hr : s.LaneReady h o noReads) (hn : o.dests.Nodup)
    (hft : ∀ (rs : List Reg) (n : Nat) (l : Fin 32), f (h.b.touch rs n) l = f h.b l) :
    LaneDone i s h h.b o noReads noExc (fun l => [f h.b l]) :=
  alu_done (f := fun x l => outWord (f x l)) hi hr hn (fun rs n l => by rw [hft]) (fun l => ⟨rfl, rfl, rfl, rfl⟩) (State.noFpx_zero s h)

theorem pair_done {i : Instr} {o : Operands} {f : Bunch → Fin 32 → DWord} {s : State} {h : Here}
    (hi : exec i s = s.alu o fun x l => outPair (f x l)) (hr : s.LaneReady h o noReads) (hn : o.dests.Nodup)
    (hft : ∀ (rs : List Reg) (n : Nat) (l : Fin 32), f (h.b.touch rs n) l = f h.b l) :
    LaneDone i s h h.b o noReads noExc (fun l => [lowWord (f h.b l), highWord (f h.b l)]) :=
  alu_done (f := fun x l => outPair (f x l)) hi hr hn (fun rs n l => by rw [hft]) (fun l => ⟨rfl, rfl, rfl, rfl⟩) (State.noFpx_zero s h)

theorem res_done {i : Instr} {o : Operands} {f : Bunch → Fin 32 → LaneRes} {s : State} {h : Here}
    (hi : exec i s = s.alu o fun x l => outRes (f x l)) (hr : s.LaneReady h o noReads) (hn : o.dests.Nodup)
    (hft : ∀ (rs : List Reg) (n : Nat) (l : Fin 32), f (h.b.touch rs n) l = f h.b l)
    (hfpx : s.NoFpx h fun l => (f h.b l).exc) :
    LaneDone i s h h.b o noReads (fun l => (f h.b l).exc) (fun l => [lowWord (f h.b l).val]) :=
  alu_done (f := fun x l => outRes (f x l)) hi hr hn (fun rs n l => by rw [hft]) (fun l => ⟨rfl, rfl, rfl, rfl⟩) hfpx

theorem nodup_one (d : Reg) : ((List.range 1).map (regNext d)).Nodup := by simp
theorem nodup_two (d : Reg) : ((List.range 2).map (regNext d)).Nodup := by
  have := regNext_ne d
  simp [List.range_succ, regNext_zero, this]

theorem un32_done {i : Instr} {d : Reg} {a : Src} {f : Word → Word} {s : State} {h : Here}
    (hi : exec i s = s.un32 d a f) (hr : s.LaneReady h (opsRR d a 1 1) noReads) :
    LaneDone i s h h.b (opsRR d a 1 1) noReads noExc (fun l => [f (srcWord a h.b l)]) :=
  word_done (f := fun x l => f (srcWord a x l)) hi hr (nodup_one d) (by simp)
theorem bin32_done {i : Instr} {d : Reg} {a b : Src} {f : Word → Word → Word} {s : State} {h : Here}
    (hi : exec i s = s.bin32 d a b f) (hr : s.LaneReady h (opsRRR d a b 1 1 1) noReads) :
    LaneDone i s h h.b (opsRRR d a b 1 1 1) noReads noExc (fun l => [f (srcWord a h.b l) (srcWord b h.b l)]) :=
  word_done (f := fun x l => f (srcWord a x l) (srcWord b x l)) hi hr (nodup_one d) (by simp)
theorem un64_done {i : Instr} {d : Reg} {a : Src} {f : DWord → DWord} {s : State} {h : Here}
    (hi : exec i s = s.un64 d a f) (hr : s.LaneReady h (opsRR d a 2 2) noReads) :
    LaneDone i s h h.b (opsRR d a 2 2) noReads noExc
      (fun l => [lowWord (f (srcPair a h.b l)), highWord (f (srcPair a h.b l))]) :=
  pair_done (f := fun x l => f (srcPair a x l)) hi hr (nodup_two d) (by simp)
theorem bin64_done {i : Instr} {d : Reg} {a b : Src} {f : DWord → DWord → DWord} {s : State} {h : Here}
    (hi : exec i s = s.bin64 d a b f) (hr : s.LaneReady h (opsRRR d a b 2 2 2) noReads) :
    LaneDone i s h h.b (opsRRR d a b 2 2 2) noReads noExc
      (fun l => [lowWord (f (srcPair a h.b l) (srcPair b h.b l)), highWord (f (srcPair a h.b l) (srcPair b h.b l))]) :=
  pair_done (f := fun x l => f (srcPair a x l) (srcPair b x l)) hi hr (nodup_two d) (by simp)
theorem mix64_done {i : Instr} {d : Reg} {a b : Src} {f : DWord → Word → DWord} {s : State} {h : Here}
    (hi : exec i s = s.mix64 d a b f) (hr : s.LaneReady h (opsRRR d a b 2 2 1) noReads) :
    LaneDone i s h h.b (opsRRR d a b 2 2 1) noReads noExc
      (fun l => [lowWord (f (srcPair a h.b l) (srcWord b h.b l)), highWord (f (srcPair a h.b l) (srcWord b h.b l))]) :=
  pair_done (f := fun x l => f (srcPair a x l) (srcWord b x l)) hi hr (nodup_two d) (by simp)
theorem unF_done {i : Instr} {d : Reg} {a : Src} {f : RM → Word → LaneRes} {s : State} {h : Here}
    (hi : exec i s = s.unF d a f) (hr : s.LaneReady h (opsRR d a 1 1) noReads)
    (hx : s.NoFpx h fun l => (f (h.b.rm l) (srcWord a h.b l)).exc) :
    LaneDone i s h h.b (opsRR d a 1 1) noReads (fun l => (f (h.b.rm l) (srcWord a h.b l)).exc)
      (fun l => [lowWord (f (h.b.rm l) (srcWord a h.b l)).val]) :=
  res_done (f := fun x l => f (x.rm l) (srcWord a x l)) hi hr (nodup_one d) (by simp) hx
theorem binF_done {i : Instr} {d : Reg} {a b : Src} {f : RM → Word → Word → LaneRes} {s : State} {h : Here}
    (hi : exec i s = s.binF d a b f) (hr : s.LaneReady h (opsRRR d a b 1 1 1) noReads)
    (hx : s.NoFpx h fun l => (f (h.b.rm l) (srcWord a h.b l) (srcWord b h.b l)).exc) :
    LaneDone i s h h.b (opsRRR d a b 1 1 1) noReads (fun l => (f (h.b.rm l) (srcWord a h.b l) (srcWord b h.b l)).exc)
      (fun l => [lowWord (f (h.b.rm l) (srcWord a h.b l) (srcWord b h.b l)).val]) :=
  res_done (f := fun x l => f (x.rm l) (srcWord a x l) (srcWord b x l)) hi hr (nodup_one d) (by simp) hx
theorem fmaF_done {i : Instr} {d : Reg} {a b : Src} {f : RM → Word → Word → Word → LaneRes} {s : State} {h : Here}
    (hi : exec i s = s.fmaF d a b f) (hr : s.LaneReady h (opsFma d a b) noReads)
    (hx : s.NoFpx h fun l => (f (h.b.rm l) (h.b.val d l) (srcWord a h.b l) (srcWord b h.b l)).exc) :
    LaneDone i s h h.b (opsFma d a b) noReads
      (fun l => (f (h.b.rm l) (h.b.val d l) (srcWord a h.b l) (srcWord b h.b l)).exc)
      (fun l => [lowWord (f (h.b.rm l) (h.b.val d l) (srcWord a h.b l) (srcWord b h.b l)).val]) :=
  res_done (f := fun x l => f (x.rm l) (x.val d l) (srcWord a x l) (srcWord b x l)) hi hr (by simp [opsFma]) (by simp) hx
theorem cvtF_done {i : Instr} {d : Reg} {a : Src} {f : RM → Reading → Word → LaneRes} {s : State} {h : Here}
    (hi : exec i s = s.cvtF d a f) (hr : s.LaneReady h (opsRR d a 1 1) noReads)
    (hx : s.NoFpx h fun l => (f (h.b.rm l) (h.b.narrow l) (srcWord a h.b l)).exc) :
    LaneDone i s h h.b (opsRR d a 1 1) noReads (fun l => (f (h.b.rm l) (h.b.narrow l) (srcWord a h.b l)).exc)
      (fun l => [lowWord (f (h.b.rm l) (h.b.narrow l) (srcWord a h.b l)).val]) :=
  res_done (f := fun x l => f (x.rm l) (x.narrow l) (srcWord a x l)) hi hr (nodup_one d) (by simp) hx

/-- A form that writes its lanes' bits of a mask register. -/
theorem mask_done {i : Instr} {m : Mask} {rs : List Read} {c : Bunch → Fin 32 → Bool} {e : Bunch → Fin 32 → Exc} {s : State} {h : Here}
    (hi : exec i s = s.aluMask m rs fun x l => outBit (c x l) (e x l)) (hr : s.LaneReady h { reads := rs, dests := [] } noReads)
    (hft : ∀ qs n l, c (h.b.touch qs n) l = c h.b l ∧ e (h.b.touch qs n) l = e h.b l) (hx : s.NoFpx h (e h.b)) (f : Fin 32 → Bool)
    (hf : ∀ l, s.cur.exec.getLsbD l.val = true → f l = c h.b l) :
    LaneDone i s h (h.b.withMask m s.cur.exec f) { reads := rs, dests := [] } noReads (e h.b) fun _ => [] := by
  have := laneOp_done (x := h.b.withMask m s.cur.exec f) (rs := fun _ _ => []) (f := fun x l => outBit (c x l) (e x l)) (post := maskPost m) hi hr (by simp)
    (fun qs n l => by simp only [hft]) (fun _ _ _ => rfl) (fun l => ⟨rfl, rfl, rfl, rfl⟩) hx ?_
  · obtain ⟨b', h1, h2⟩ := this
    refine ⟨b', h1, h2.1, h2.2.1, ?_⟩
    refine ⟨fun i r hi => by simp at hi, h2.2.2.2.1, h2.2.2.2.2⟩
  · intro o2 ho b2 hb
    have : b2 = { h.b with regs := b2.regs } := hb
    rw [this]
    simp only [maskPost, Bunch.setMask, Bunch.withMask]
    congr 2
    refine Lanes.ext fun l => ?_
    simp only [BitVec.getElem_or, BitVec.getElem_and, BitVec.getElem_not, laneSet_getElem]
    by_cases he : s.cur.exec.getLsbD l.val = true
    · have he' : s.cur.exec[l.val] = true := by simpa using he
      rw [ho l he, hf l he]
      simp [he', outBit]
      cases c h.b l <;> simp
    · have he' : s.cur.exec[l.val] = false := by simpa using he
      simp [he', -Fin.getElem_fin]

end Sys2Proof.Machine
end

