-- ==== Sys2Proof/Tests/Slice0.lean ====
section
/-! SUPPORT. Tests/Slice0.lean: words written out from the encoding tables and what they decode to, ill-formed terms that
each check refuses, single steps with results worked out by hand from the rules, and for each statement states and
operands that meet its hypotheses. -/

namespace Sys2Proof.Tests
set_option Elab.async false
open Sys2Proof Sys2Proof.Machine Sys2Proof.Claims

/-! ## Small states -/

def vr (n : Nat) (last : Bool := false) (p : Pat := .self) : Src := ⟨.ofNat 64 n, last, p⟩
def own (n : Nat) (last : Bool := false) : Own := ⟨.ofNat 64 n, last⟩
/-- One thread in lane 0, whose register v<k> holds k, in all registers and scalar registers. -/
def bunch1 : Bunch :=
  { Bunch.placed 1 0x100 [] 0 0 with
    regs := Vector.ofFn fun r : Fin 64 => ⟨1, .compressed (.ofNat 32 r.val), 0, 0⟩
    sregs := Vector.ofFn fun r : Fin 64 => .ofNat 32 r.val }
def group1 : Group := { loadGroup 0 1 with bunches := [bunch1] }
def launch1 : Launch := loadLaunch 1 1
/-- The module with that thread alone, its run at 0x100, the first page of memory mapped for it. -/
def one : State :=
  { State.reset with
    groups := [group1], launches := [launch1], ctxCache := [(1, 1, 0)], tlb := [⟨clusterOf loadCore, 1, 0, 32768, loadPte⟩]
    fresh := 2, cur := ⟨0, 0, 1, 1, 0x100, 0x100, 0x104⟩ }
def hOne : Here := ⟨group1, bunch1, launch1⟩
theorem one_here : one.here? = some hOne := rfl

/-- With no instruction of the bunch in flight, what a register holds stands in the rename table. -/
theorem hold_of {b : Bunch} (h : b.flights = []) (r : Reg) : b.hold r = b.regs[r].rep.hold := by
  simp [Bunch.hold, Bunch.claims, Bunch.leaving, h, -Fin.getElem_fin]
theorem inCore_of {b : Bunch} (h : b.flights = []) {r : Reg} (hr : b.regs[r].rep ≠ .spilled) : b.InCore r := by
  refine ⟨hr, ?_⟩
  rw [hold_of h]
  intro hc
  apply hr
  cases hq : b.regs[r].rep <;> simp_all [Rep.hold]
/-- A run finds any operands ready where the registers of its bunch are in the core, unmarked, and no thread traps on a
released copy. -/
theorem ready_of (s : State) (h : Here) (hh : s.here? = some h) (hz : h.b.flights = []) (hr : ∀ r : Reg, h.b.regs[r].rep ≠ .spilled)
    (hf : h.b.full = 0) (hb : ∀ r l, h.b.isBad r l = false) (hs : ∀ l : Fin 32, staleTrap h.b.threads[l].fmode = false)
    (o : Operands) (rs : Fin 32 → List Read) (hd : o.dests.length ≤ 24) : s.LaneReady h o rs := by
  refine And.intro hh (And.intro (And.intro (fun r _ => inCore_of hz (hr r)) ?_) ?_)
  · have : Config.vectorFloor = 24 := rfl
    omega
  · intro l _
    have hfind : ∀ q : List Read, q.find? (fun r => r.bad h.b l) = none := fun q =>
      List.find?_eq_none.2 fun r _ => by simp [Read.bad, hb]
    simp [readFault, badFault, hs, hfind, -Fin.getElem_fin]
theorem bunch1_in : ∀ r : Reg, bunch1.regs[r].rep ≠ .spilled := by decide +kernel
theorem bunch1_full : bunch1.full = 0 := by decide +kernel
theorem bunch1_bad : ∀ r l, bunch1.isBad r l = false := by decide +kernel
theorem bunch1_stale : ∀ l : Fin 32, staleTrap bunch1.threads[l].fmode = false := by decide +kernel
theorem bunch1_ready (s : State) (h : Here) (hh : s.here? = some h) (he : h.b = bunch1) (o : Operands) (rs : Fin 32 → List Read)
    (hd : o.dests.length ≤ 24 := by decide) : s.LaneReady h o rs :=
  ready_of s h hh (he ▸ rfl) (he ▸ bunch1_in) (he ▸ bunch1_full) (he ▸ bunch1_bad) (he ▸ bunch1_stale) o rs hd
theorem one_ready (o : Operands) (rs : Fin 32 → List Read) (hd : o.dests.length ≤ 24 := by decide) : one.LaneReady hOne o rs :=
  bunch1_ready one hOne one_here rfl o rs hd
/-- Nothing that a lane raises traps: no exception is enabled at placement (R125). -/
theorem one_noFpx (exc : Fin 32 → Exc) : one.NoFpx hOne exc := by
  intro l _
  have : ∀ l : Fin 32, xeOf hOne.b.threads[l].fmode = 0 := by decide +kernel
  simp [fpxTraps, this, -Fin.getElem_fin]

/-! ### Helpers: small states with other registers, other pages -/

/-- One thread in lane 0; register v<k> holds v k, scalar register s<k> holds w k. -/
def bunchOf (v w : Nat → Word) : Bunch :=
  { Bunch.placed 1 0x100 [] 0 0 with
    regs := Vector.ofFn fun r : Fin 64 => ⟨1, .compressed (v r.val), 0, 0⟩
    sregs := Vector.ofFn fun r : Fin 64 => w r.val }
def word (k : Nat) : Word := .ofNat 32 k
/-- Every register 0 but one, or two. -/
def just (k x : Nat) (n : Nat) : Word := if n = k then word x else 0
def these (l : List (Nat × Nat)) (n : Nat) : Word := word ((l.lookup n).getD 0)
/-- The group with a bunch, alone in the module with its launch. -/
def put (g : Group) (b : Bunch) (l : Launch) : State := { one with groups := [{ g with bunches := [b] }], launches := [l] }
def atB (b : Bunch) : State := put group1 b launch1
def hAt (b : Bunch) : Here := ⟨{ group1 with bunches := [b] }, b, launch1⟩
theorem placed_stale : ∀ l : Fin 32, staleTrap (Bunch.placed 1 0x100 [] 0 0).threads[l].fmode = false := by decide +kernel
theorem bunchOf_ready (v : Nat → Word) (s : State) (h : Here) (hh : s.here? = some h)
    (hr : h.b.regs = Vector.ofFn fun r : Fin 64 => ⟨1, .compressed (v r.val), 0, 0⟩)
    (ht : h.b.threads = (Bunch.placed 1 0x100 [] 0 0).threads := by rfl) (o : Operands) (rs : Fin 32 → List Read)
    (hd : o.dests.length ≤ 24 := by decide) (hz : h.b.flights = [] := by rfl) : s.LaneReady h o rs := by
  refine ready_of s h hh hz ?_ ?_ ?_ ?_ o rs hd
  · intro r
    simp [hr]
  · rw [Bunch.full, Bunch.holding, List.countP_eq_zero]
    intro r _
    simp [hold_of hz, hr, Rep.hold]
  · intro r l
    simp [Bunch.isBad, hr]
  · rw [ht]
    exact placed_stale
/-- What holds of lane 0 holds of every executing lane. -/
theorem lane0 {p : Fin 32 → Prop} (h : p 0) (l : Fin 32) (hl : (1 : Lanes).getLsbD l.val = true) : p l := by
  have : l = 0 := by
    revert hl
    revert l
    decide
  exact this ▸ h
def mappedB (s : State) (core ctx va : Nat) (n : Need) (x : Xl) (lf : Leaf) : Bool :=
  decide (va < 2 ^ 57) && (s.ctxCache.any fun e => e.1 == ctx) && decide (s.tlbFind (clusterOf core) (s.asidOf ctx) va = some lf)
    && decide (x = ⟨Pte.pa lf.pte + (va - lf.base), lf.pte⟩) && permOk lf.pte n && s.keyLoaded (Pte.key lf.pte) && !s.linkDown x.pa
theorem mapped_of {s : State} {core ctx va : Nat} {n : Need} {x : Xl} (lf : Leaf) (h : mappedB s core ctx va n x lf = true) :
    s.Mapped core ctx va n x := by
  simp only [mappedB, Bool.and_eq_true, decide_eq_true_eq, List.any_eq_true, beq_iff_eq, Bool.not_eq_true'] at h
  obtain ⟨⟨⟨⟨⟨⟨h1, e, he, h2⟩, h3⟩, h4⟩, h5⟩, h6⟩, h7⟩ := h
  exact ⟨h1, ⟨e, he, h2⟩, lf, h3, h4, h5, h6, h7⟩
/-- The page of a DIR entry that the small states map at 0, and of an uncached and an SI entry. -/
def dirLeaf : Leaf := ⟨loadPte, 0, 32768⟩
def ucPte : Pte := 0x20F
def ucLeaf : Leaf := ⟨ucPte, 0, 32768⟩
def ucTlb : List TlbEntry := [⟨clusterOf loadCore, 1, 0, 32768, ucPte⟩]
def ucFrames : List TlbEntry := ⟨clusterOf loadCore, 1, 0x10000, 32768, ucPte + 0x40000⟩ :: one.tlb

/-- With nothing in HBM, and no word marked, the home point of memory shows what State.mem holds, through a key slot of the null
key. -/
theorem plain_of {s : State} {k pa n : Nat} (h : s.hbm = []) (hk : s.keyOf k = 0) (hw : windowOf pa ≠ .device) : s.Plain k pa n :=
  ⟨hw, fun i _ _ => .inr (by simp [State.hbmView, h, hk])⟩
theorem clean_of {s : State} {k pa n : Nat} (h : s.hbm = []) (hk : s.keyOf k = 0) (hp : s.poison = []) (hw : windowOf pa ≠ .device) :
    s.Clean k pa n := ⟨plain_of h hk hw, by simp [poisoned, hp]⟩
theorem notInL1_of {s : State} (h : s.l1 = []) (pb : Nat) : s.NotInL1 pb := fun b hb => by simp [h] at hb
theorem nullKeyed_of {s : State} (h : s.hbm = []) (hs : s.slices = []) : s.NullKeyed := ⟨h, fun b hb => by simp [hs] at hb⟩
theorem oneBlock_of {s : State} (h : s.l1 = []) : s.OneBlock := by simp [State.OneBlock, h]
theorem noSi_of {s : State} (h : s.l1 = []) (core : Nat) : s.NoSi core := fun b hb => by simp [h] at hb
theorem settled_of {s : State} (h : s.stores = []) (hc : s.csmNet = []) : s.Settled := ⟨h, fun m hm => by simp [hc] at hm⟩
theorem unlocked_of {s : State} (h : s.locks = []) (k : Nat) : s.Unlocked k := fun b hb => by simp [h] at hb
/-! ## Words of the spec's worked examples and encoding tables (R33 to R51), and what they stand for -/

/-- A sequence decodes to an instruction without a gate: its words, those before its first word, and the instruction. -/
def reads (ws : List Nat) (pre : Nat) (i : Instr) : Prop := decode ws = .ok ⟨none, i, pre, ws.length⟩

theorem word_movu : reads [0x07100000] 0 (.movuN64 4 0) := by unfold reads; decide +kernel
theorem word_add64 : reads [0x09120902] 0 (.addN64 4 (vr 4 true) (vr 2 true)) := by unfold reads; decide +kernel
theorem word_and_imm : reads [0x2C2612FF] 0 (.andN32Imm 9 (vr 9 true) 0xFF) := by unfold reads; decide +kernel
theorem word_not : reads [0x240C0802] 0 (.notN32 3 (vr 4)) := by unfold reads; decide +kernel
theorem word_max_butterfly : reads [0x3D1C0E87] 0 (.maxF32 7 (vr 7) (vr 7 false (.bfly 1))) := by unfold reads; decide +kernel
/-- XP gives the crossbar's constant (R41). -/
theorem word_max_xp : reads [0x01004000, 0x3D1C0E87] 1 (.maxF32 7 (vr 7) (vr 7 false (.bfly 2))) := by unfold reads; decide +kernel
/-- LIMM gives the upper bits (R42): MOV.n32 v1, 1000, and −1000. -/
theorem word_mov_limm : reads [0x02000003, 0x280400E8] 1 (.movN32Imm 1 1000) := by unfold reads; decide +kernel
theorem word_mov_limm_neg : reads [0x02FFFFFC, 0x28040018] 1 (.movN32Imm 1 (-1000)) := by unfold reads; decide +kernel
theorem word_cvt : reads [0x26140C28] 0 (.cvtI32F32 5 (vr 6) false) := by unfold reads; decide +kernel
theorem word_cmp : reads [0x45480604] 0 (.cmpF32 .lt 2 (vr 3) (vr 4)) := by unfold reads; decide +kernel
theorem word_shflup : reads [0x35080201] 0 (.shflup 2 (own 1) 1) := by unfold reads; decide +kernel
theorem word_store : reads [0x5C1A0800] 0 (.stN32Gl 6 (vr 4 true) none 0) := by unfold reads; decide +kernel
theorem word_atomic : reads [0x60141207, 0x00000A20] 0
    (.atadd ⟨5, true, vr 9, vr 7, some .gp, .sp, false⟩) := by unfold reads; decide +kernel
theorem word_fence_port : reads [0x62000012] 0 (.fencePort .gp) := by unfold reads; decide +kernel
theorem word_sync : reads [0x650C1400] 0 (.sync 3 (vr 10)) := by unfold reads; decide +kernel
theorem word_ann : reads [0x68500506, 0x00000102] 0 (.annPop 20 2 (vr 2) (vr 6 true)) := by unfold reads; decide +kernel
theorem word_help : reads [0x69300400] 0 (.help 12 (vr 2)) := by unfold reads; decide +kernel
theorem word_push : reads [0x6B041004] 0 (.push 1 (vr 8) .e) := by unfold reads; decide +kernel
theorem word_pop : reads [0x6C180A01] 0 (.pop 6 .w 1) := by unfold reads; decide +kernel
theorem word_brx : reads [0x6E021213] 0 (.brx (vr 9 true) 0x13) := by unfold reads; decide +kernel
theorem word_callx : reads [0x6F000C00] 0 (.callx (vr 6)) := by unfold reads; decide +kernel
theorem word_mma : reads [0x7C2A0A16, 0x41C01200] 0 (.mmaI8 ⟨2, 1, vr 5 true, 22, 16, 7, 4, true⟩) := by unfold reads; decide +kernel
theorem word_acc_ld : reads [0x77081200, 0x00000121] 0 (.accLd ⟨2, vr 9, 1, .sp, none⟩) := by unfold reads; decide +kernel
theorem word_acc_clr : reads [0x770C0000, 0x00000002] 0 (.accClr 3) := by unfold reads; decide +kernel
theorem word_accadd : reads [0x76201200, 0x00008440] 0 (.accadd ⟨0, 1, vr 9, 2, .sp⟩) := by unfold reads; decide +kernel
theorem word_bunch_add : reads [0x9A100801] 0 (.addN32BunchImm 4 4 1) := by unfold reads; decide +kernel
theorem word_bunch_bz : reads [0x860013FD] 0 (.bz 9 (-3)) := by unfold reads; decide +kernel
theorem word_bunch_load : reads [0xA0280002] 0 (.ldN32GlBunch 10 0 none 2) := by unfold reads; decide +kernel
theorem word_copy : reads [0xA8003000, 0x00000001] 0 (.copy 24 .gl .sp) := by unfold reads; decide +kernel
theorem word_subs : reads [0xAB1C4000, 0x00310000] 0 (.subs 7 32 3 0x10000) := by unfold reads; decide +kernel
theorem word_settrap : reads [0xAD502012] 0 (.settrap 20 16 18) := by unfold reads; decide +kernel
/-- GUARD gates the instruction after it (R43). -/
theorem word_guard : decode [guardWord 5 true, 0x240C0802] = .ok ⟨some (5, true), .notN32 3 (vr 4), 1, 2⟩ := by decide +kernel

/-! A word that no cell accepts, and the word that an ILLEGAL names (R51). -/

theorem word_zero_illegal : decode [0x00000000] = .illegal 0 := by decide +kernel
theorem word_guard_bunch_illegal : decode [guardWord 0 false, 0x9A100801] = .illegal 0 := by decide +kernel
theorem word_limm_without_immediate_illegal : decode [0x02000003, 0x240C0802] = .illegal 0 := by decide +kernel
theorem word_odd_pair_illegal : decode [0x09160902] = .illegal 0 := by decide +kernel
theorem word_second_missing : decode [0x7C2A0A16] = .short := by decide +kernel

/-! ## Ill-formed terms, one for each check of WellFormed.lean -/

theorem refuses_odd_destination : (Instr.addN64 5 (vr 4) (vr 2)).wellFormed = false := by decide
theorem refuses_odd_source : (Instr.addN64 4 (vr 5) (vr 2)).wellFormed = false := by decide
theorem refuses_odd_second_source : (Instr.subN64 4 (vr 4) (vr 3)).wellFormed = false := by decide
theorem refuses_odd_address : (Instr.ldN32Gl 5 (vr 7) none 0).wellFormed = false := by decide
theorem refuses_odd_data : (Instr.stN64Sp 5 (vr 7) none 0).wellFormed = false := by decide
theorem refuses_read_only_register : (Instr.sets .cyc (vr 0)).wellFormed = false := by decide
theorem refuses_bunch_read_only_register : (Instr.setsBunch .pstat 0).wellFormed = false := by decide
theorem refuses_unreturned_destination : (Instr.atadd ⟨5, false, vr 8, vr 7, none, .sp, false⟩).wellFormed = false := by decide
theorem refuses_odd_wide_operand : (Instr.atxch ⟨4, true, vr 8, vr 7, none, .sp, true⟩).wellFormed = false := by decide
theorem refuses_odd_atomic_base : (Instr.ator ⟨4, true, vr 9, vr 6, none, .gl, false⟩).wellFormed = false := by decide
theorem refuses_odd_comparand : (Instr.atcas ⟨4, true, vr 8, vr 6, none, .sp, true⟩ (own 5)).wellFormed = false := by decide
theorem refuses_wide_float_add : (Instr.atfadd ⟨4, true, vr 8, vr 6, none, .sp, true⟩).wellFormed = false := by decide
theorem refuses_no_quad : (Instr.cas128 ⟨8, true, vr 2, own 14, own 16, none, .gl⟩).wellFormed = false := by decide
theorem refuses_no_quad_destination : (Instr.cas128 ⟨6, true, vr 2, own 12, own 16, none, .gl⟩).wellFormed = false := by decide
theorem refuses_no_quad_comparand : (Instr.cas128 ⟨8, true, vr 2, own 12, own 18, none, .gl⟩).wellFormed = false := by decide
theorem refuses_fence_port_scope : (Instr.fencePort .sy).wellFormed = false := by decide
theorem refuses_doze_zero : (Instr.doze 3 0).wellFormed = false := by decide
theorem refuses_doze_long : (Instr.doze 3 65536).wellFormed = false := by decide
theorem refuses_odd_anchor : (Instr.annPush 3 0 (vr 5) (vr 6)).wellFormed = false := by decide
theorem refuses_odd_record : (Instr.annPush 3 0 (vr 4) (vr 7)).wellFormed = false := by decide
theorem refuses_span_past_a7 : (Instr.mmaI8 ⟨6, 2, vr 5, 22, 16, 0, 0, false⟩).wellFormed = false := by decide
theorem refuses_deep_f16 : (Instr.mmaF16 ⟨0, 0, vr 5, 22, 16, 4, 0, false⟩).wellFormed = false := by decide
theorem refuses_odd_tile : (Instr.mmaQ4 ⟨0, 0, vr 5, 22, 17, 0, 0, false⟩).wellFormed = false := by decide
theorem refuses_shared_accumulator : (Instr.scacc ⟨1, 1, none, 20, 2, 0, false⟩).wellFormed = false := by decide
theorem refuses_source_span_past_a7 : (Instr.scacc ⟨0, 1, none, 20, 7, 0, false⟩).wellFormed = false := by decide
theorem refuses_odd_scale_descriptor : (Instr.scacc ⟨0, 1, none, 21, 4, 0, false⟩).wellFormed = false := by decide
theorem refuses_accadd_window : (Instr.accadd ⟨0, 1, vr 8, 0, .chs⟩).wellFormed = false := by decide
theorem refuses_accadd_span : (Instr.accadd ⟨7, 1, vr 8, 0, .sp⟩).wellFormed = false := by decide
theorem refuses_accadd_odd_base : (Instr.accadd ⟨0, 1, vr 9, 0, .gl⟩).wellFormed = false := by decide
theorem refuses_acc_space : (Instr.accSt ⟨0, vr 8, 0, .csm, none⟩).wellFormed = false := by decide
theorem refuses_acc_odd_base : (Instr.accLd ⟨0, vr 9, 0, .gl, none⟩).wellFormed = false := by decide
theorem refuses_card_register : (Instr.copy 20 .gl .sp).wellFormed = false := by decide
theorem refuses_subs_card : (Instr.subs 3 20 0 0).wellFormed = false := by decide
theorem refuses_subs_base : (Instr.subs 3 24 0 32).wellFormed = false := by decide
theorem refuses_odd_routine : (Instr.settrap 3 17 18).wellFormed = false := by decide
/-! ## Single steps, their results worked out by hand from the rules -/

def bunchAfter (i : Instr) (s : State) : Option Bunch := match exec i s with | .next t => t.bunch? 0 0 | _ => none
/-- What a register holds for the thread, and where its counter goes. -/
def leaves (i : Instr) (r : Reg) : Option (Word × DWord) := (bunchAfter i one).map fun b => (b.val r 0, b.threads[(0 : Fin 32)].pc)
/-- A scalar register after a bunch instruction. -/
def leavesScalar (i : Instr) (r : Reg) : Option (Word × DWord) := (bunchAfter i one).map fun b => (b.sregs[r], b.threads[(0 : Fin 32)].pc)

/-- R104: 5 + (2^32 - 5) wraps to 0. -/
theorem test_add_wraps : leaves (.addN32Imm 5 (vr 5) 0xFFFFFFFB) 5 = some (0, 0x104) := by decide +kernel
/-- R105: a count of 33 leaves nothing, in the destination that is also a source. -/
theorem test_shift_past_width : leaves (.shlN32 33 (vr 7) (vr 33)) 33 = some (0, 0x104) := by decide +kernel
/-- R105: an arithmetic shift fills with the sign: -1 by 63 is -1. -/
theorem test_sar_sign : (do
    let b ← bunchAfter (.negI32 1 (vr 1)) one
    let c ← bunchAfter (.sarI32 2 (vr 1) (vr 63)) { one with groups := [{ group1 with bunches := [b] }] }
    some (c.val 2 0)) = some 0xFFFFFFFF := by decide +kernel
/-- R106: BFX of v63 = 0b111111 from position 3 (v3 = 3 has length 0): nothing. -/
theorem test_bfx_length_zero : leaves (.bfxN32 9 (vr 63) (vr 3)) 9 = some (0, 0x104) := by decide +kernel
/-- R111: 1.0 + 1.0 is 2.0. -/
theorem test_float_add : (do
    let b ← bunchAfter (.movN32Imm 1 0x3F800000) one
    let c ← bunchAfter (.addF32 2 (vr 1) (vr 1)) { one with groups := [{ group1 with bunches := [b] }] }
    some (c.val 2 0)) = some 0x40000000 := by decide +kernel
/-- R129: BRA counts words from itself. -/
theorem test_bra_back : (bunchAfter (.bra (-2)) one).map (fun b => b.threads[(0 : Fin 32)].pc) = some 0xF8 := by decide +kernel
/-- R136: SLT of s3 and s4. -/
theorem test_slt : leavesScalar (.sltI32 9 3 4) 9 = some (1, 0x104) := by decide +kernel
/-- R137: BZ goes by s0 = 0. -/
theorem test_bz_taken : (bunchAfter (.bz 0 4) one).map (fun b => b.threads[(0 : Fin 32)].pc) = some 0x110 := by decide +kernel
/-- R83: a last-use mark releases the source. -/
theorem test_last_use : (bunchAfter (.movN32 4 (vr 6 true)) one).map (fun b => (b.isLive 6 0, b.val 4 0)) = some (false, 6) := by
  decide +kernel
/-- R316: RTT outside the routine halts the group where there is no routine (R315). -/
theorem test_rtt_outside : (match exec .rtt one with | .next t => t.groups.map (fun g => g.halted.isSome) | _ => []) = [true] := by
  decide +kernel
/-- R294: out of reset no image has verified, and the module is held; R127: once it is not, the first cycle counts. -/
theorem test_reset_held : (match step State.reset with | .fault f => f == .heldInReset | _ => false) = true := by decide +kernel
theorem test_first_cycle : (match step { State.reset with fw := { State.reset.fw with held := false } } with
    | .next t => t.clock | _ => 0) = 1 := by decide +kernel
/-- R31: the host's placing of a word runs it next: NOT.n32 v3, v4 of a released v4 sets v3 to all ones. -/
theorem test_fetch_word : (match step (State.reset.withFetchWord 32 0x240C0802) with
    | .next t => (t.bunch? 0 0).map fun b => (b.val 3 0, b.threads[(0 : Fin 32)].pc) | _ => none) = some (0xFFFFFFFF, 0x104) := by
  decide +kernel
/-! ## Hypotheses that are met: for each statement, states and operands that meet all of a clause's hypotheses -/

/-- The results of lane forms: any operands are ready in the small state, up to v63 and with marks and patterns, and no
exception traps. -/
theorem meets_IntegerBinaryResults : (∃ p, p ∈ binary32) ∧ (∃ p, p ∈ immediate32) ∧ (∃ p, p ∈ binary64)
    ∧ one.LaneReady hOne (opsRRR 63 (vr 0 true) (vr 63 false .mir) 1 1 1) noReads ∧ one.LaneReady hOne (opsRR 0 (vr 63) 1 1) noReads
    ∧ one.LaneReady hOne (opsRRR 62 (vr 62) (vr 0 true) 2 2 2) noReads ∧ one.LaneReady hOne (opsRR 62 (vr 62) 2 2) noReads
    ∧ one.LaneReady hOne (opsD [63]) noReads :=
  ⟨⟨_, List.mem_cons_self⟩, ⟨_, List.mem_cons_self⟩, ⟨_, List.mem_cons_self⟩, one_ready _ _, one_ready _ _, one_ready _ _, one_ready _ _,
    one_ready _ _⟩
/-- v32 and v33 hold the counts 32 and 33. -/
theorem meets_ShiftResults : (∃ p, p ∈ shifts32) ∧ (∃ p, p ∈ shiftsImmediate32) ∧ (∃ p, p ∈ shifts64)
    ∧ one.LaneReady hOne (opsRRR 63 (vr 0) (vr 32) 1 1 1) noReads ∧ one.LaneReady hOne (opsRR 0 (vr 63) 1 1) noReads
    ∧ one.LaneReady hOne (opsRRR 62 (vr 62) (vr 63) 2 2 1) noReads ∧ one.LaneReady hOne (opsRR 62 (vr 62) 2 2) noReads :=
  ⟨⟨_, List.mem_cons_self⟩, ⟨_, List.mem_cons_self⟩, ⟨_, List.mem_cons_self⟩, one_ready _ _, one_ready _ _, one_ready _ _, one_ready _ _⟩
theorem meets_BitFieldResults : (∃ p, p ∈ extracts) ∧ one.LaneReady hOne (opsRRR 63 (vr 0) (vr 63) 1 1 1) noReads
    ∧ one.LaneReady hOne (opsFma 63 (vr 0) (vr 63)) noReads :=
  ⟨⟨_, List.mem_cons_self⟩, one_ready _ _, one_ready _ _⟩
theorem meets_UnaryAndUniformResults : (∃ p, p ∈ unary32) ∧ (∃ p, p ∈ unary64) ∧ one.LaneReady hOne (opsRR 63 (vr 0 true) 1 1) noReads
    ∧ one.LaneReady hOne (opsRR 62 (vr 62) 2 2) noReads ∧ one.LaneReady hOne (opsD [63]) noReads
    ∧ one.LaneReady hOne (opsD [62, regNext 62 1]) noReads :=
  ⟨⟨_, List.mem_cons_self⟩, ⟨_, List.mem_cons_self⟩, one_ready _ _, one_ready _ _, one_ready _ _, one_ready _ _⟩
theorem meets_FloatResults : (∃ p, p ∈ float32) ∧ (∃ p, p ∈ floatImmediate32) ∧ (∃ p, p ∈ float16) ∧ (∃ p, p ∈ fusedForms)
    ∧ one.LaneReady hOne (opsRRR 63 (vr 0) (vr 63) 1 1 1) noReads ∧ one.LaneReady hOne (opsRR 63 (vr 0) 1 1) noReads
    ∧ one.LaneReady hOne (opsFma 63 (vr 0) (vr 63)) noReads ∧ ∀ exc, one.NoFpx hOne exc :=
  ⟨⟨_, List.mem_cons_self⟩, ⟨_, List.mem_cons_self⟩, ⟨_, List.mem_cons_self⟩, ⟨_, List.mem_cons_self⟩, one_ready _ _, one_ready _ _,
    one_ready _ _, one_noFpx⟩
theorem meets_FloatUnaryResults : (∃ p, p ∈ signForms) ∧ (∃ p, p ∈ floatUnary) ∧ one.LaneReady hOne (opsRR 63 (vr 0 true) 1 1) noReads
    ∧ ∀ exc, one.NoFpx hOne exc :=
  ⟨⟨_, List.mem_cons_self⟩, ⟨_, List.mem_cons_self⟩, one_ready _ _, one_noFpx⟩
theorem meets_ConversionResults : (∃ p, p ∈ satConversions) ∧ (∃ p, p ∈ conversions) ∧ (∃ p, p ∈ integerNarrowing)
    ∧ one.LaneReady hOne (opsRR 63 (vr 0 true) 1 1) noReads ∧ ∀ exc, one.NoFpx hOne exc :=
  ⟨⟨_, List.mem_cons_self⟩, ⟨_, List.mem_cons_self⟩, ⟨_, List.mem_cons_self⟩, one_ready _ _, one_noFpx⟩
/-- v7 is not below v7 and is at most v7, in signed and unsigned order; +0 (v0) equals itself. -/
theorem meets_CompareResults : one.LaneReady hOne { reads := srcReads (vr 7) 1 ++ srcReads (vr 7) 1, dests := [] } noReads
    ∧ (∀ l : Fin 32, false = true ↔ compareSigned .lt (srcWord (vr 7) hOne.b l) (srcWord (vr 7) hOne.b l))
    ∧ (∀ l : Fin 32, true = true ↔ compareUnsigned .le (srcWord (vr 7) hOne.b l) (srcWord (vr 7) hOne.b l))
    ∧ one.LaneReady hOne { reads := srcReads (vr 7) 1, dests := [] } noReads ∧ (∀ exc, one.NoFpx hOne exc)
    ∧ (fp32.read (srcWord (vr 0) hOne.b 0).toNat).isNan = false
    ∧ cmpVal (fp32.read (srcWord (vr 0) hOne.b 0).toNat) (fp32.read (srcWord (vr 0) hOne.b 0).toNat) = 0 :=
  ⟨one_ready _ _, fun _ => ⟨fun h => (Bool.false_ne_true h).elim, fun h => (Int.lt_irrefl _ h).elim⟩,
    fun _ => ⟨fun _ => Nat.le_refl _, fun _ => rfl⟩, one_ready _ _, one_noFpx, by decide +kernel, by decide +kernel⟩
theorem meets_MaskFormResults : (∃ p, p ∈ maskForms) ∧ one.LaneReady hOne (opsRRR 63 (vr 0) (vr 63) 1 1 1) noReads
    ∧ one.LaneReady hOne { reads := [], dests := [] } noReads ∧ one.LaneReady hOne { reads := srcReads (vr 63) 1, dests := [] } noReads
    ∧ one.LaneReady hOne (opsD [63]) noReads :=
  ⟨⟨_, List.mem_cons_self⟩, one_ready _ _, one_ready _ _, one_ready _ _, one_ready _ _⟩
theorem meets_ShuffleResults : (∃ p, p ∈ shuffles) ∧ (∀ rs, one.LaneReady hOne (opsShuffle 63 (own 0 true) []) rs)
    ∧ ∀ rs, one.LaneReady hOne (opsShuffle 63 (own 0) (srcReads (vr 31) 1)) rs :=
  ⟨⟨_, List.mem_cons_self⟩, fun _ => one_ready _ _, fun _ => one_ready _ _⟩
theorem meets_SystemRegisterReads : one.LaneReady hOne (opsD [63]) noReads ∧ one.here? = some hOne
    ∧ (lanesOf one.cur.run).head? = some 0 := ⟨one_ready _ _, one_here, by decide +kernel⟩
/-- v5 and s8 hold a reserved bit of FMODE, v6 and s7 one of GS. -/
def bunchBad : Bunch := bunchOf (these [(5, 0x80), (6, 64)]) (these [(7, 64), (8, 0x80)])
def sBad : State := atB bunchBad
def hBad : Here := hAt bunchBad
/-- 63 is the largest value of GS; v4 holds 4, a rounding and no reserved bit of FMODE; s63 is 63, and 64 is reserved. -/
theorem meets_SystemRegisterWrites : one.LaneReady hOne { reads := srcReads (vr 4) 1, dests := [] } noReads
    ∧ (∀ l : Fin 32, one.cur.exec.getLsbD l.val = true → writable .fmode (srcWord (vr 4) hOne.b l))
    ∧ (lanesOf one.cur.exec).getLast? = some 0
    ∧ (∀ l : Fin 32, one.cur.exec.getLsbD l.val = true → writable .gs (srcWord (vr 63) hOne.b l))
    ∧ one.here? = some hOne ∧ writable .fmode hOne.b.sregs[(4 : Reg)] ∧ writable .gs hOne.b.sregs[(63 : Reg)] ∧ one.cur.run ≠ (0 : Lanes)
    ∧ sBad.LaneReady hBad { reads := srcReads (vr 5) 1, dests := [] } noReads
    ∧ (∀ l : Fin 32, (0 : Lanes).getLsbD l.val = true ↔ sBad.cur.exec.getLsbD l.val = true ∧ writable .fmode (srcWord (vr 5) hBad.b l))
    ∧ (∀ l : Fin 32, sBad.cur.exec.getLsbD l.val = true → ¬ writable .gs (srcWord (vr 6) hBad.b l))
    ∧ sBad.here? = some hBad ∧ ¬ writable .gs hBad.b.sregs[(7 : Reg)] ∧ ¬ writable .fmode hBad.b.sregs[(8 : Reg)] := by
  refine ⟨one_ready _ _, fun l _ => ?_, by decide +kernel, fun l _ => ?_, one_here, by unfold writable; decide +kernel,
    by unfold writable; decide +kernel, by decide, bunchOf_ready _ _ hBad rfl rfl rfl _ _, fun l => ?_, fun l _ => ?_, rfl,
    by unfold writable; decide +kernel, by unfold writable; decide +kernel⟩
  all_goals unfold writable; revert l; decide +kernel
theorem meets_ScalarResults : (∃ p, p ∈ scalarForms) ∧ (∃ p, p ∈ scalarImmediates) ∧ (∃ p, p ∈ scalarPairForms) ∧ one.here? = some hOne
    ∧ hOne.b.sregs[(0 : Reg)] = 0 ∧ hOne.b.sregs[(63 : Reg)] ≠ 0 :=
  ⟨⟨_, List.mem_cons_self⟩, ⟨_, List.mem_cons_self⟩, ⟨_, List.mem_cons_self⟩, one_here, by decide +kernel, by decide +kernel⟩
/-- The first pages of HBM mapped as uncached, as one page of 2 MiB; an address in them that is reached straight. -/
def wideLeaf : Leaf := ⟨ucPte, 0, 2 ^ 21⟩
def wideTlb : List TlbEntry := [⟨clusterOf loadCore, 1, 0, 2 ^ 21, ucPte⟩]
theorem straight_of {s : State} {h : Here} {va : Nat} {n : Need} (hm : mappedB s h.g.core h.l.ctx va n ⟨va, ucPte⟩ wideLeaf = true)
    (hw : windowOf va ≠ .device) (hk : s.keyOf (Pte.key ucPte) = 0) (hl : s.l1 = []) (ho : s.locks = []) (hr : s.reqs = []) :
    Straight s h va n ⟨va, ucPte⟩ :=
  ⟨mapped_of wideLeaf hm, (by decide : Pte.coh ucPte = .uc), hk, hw, notInL1_of hl _, by simp [State.block?, hl], unlocked_of ho _, by simp [hr]⟩
/-- v63 is spilled, and its slot reads 0. -/
def bunchSp : Bunch := bunch1.setReg 63 ⟨1, .spilled, 0, 0⟩
def oneSp : State := { put group1 bunchSp launch1 with tlb := wideTlb }
/-- Two threads, the first alone in the run, all registers full but v1; and the groups that hold the rest of the shared pool. -/
def bunchFull : Bunch :=
  { Bunch.placed 2 0x100 [] 0 0 with regs := Vector.ofFn fun r : Fin 64 => if r = 1 then VReg.placed else ⟨1, .full (Vector.replicate 32 7), 0, r.val⟩ }
def fullMate : Bunch := { Bunch.placed 32 0x100 [] 1 1 with regs := Vector.replicate 64 ⟨0xFFFFFFFF, .full (Vector.replicate 32 7), 0, 0⟩ }
def oneFull : State := { put group1 bunchFull launch1 with
  tlb := wideTlb
  groups := [{ group1 with bunches := [bunchFull] }, { group1 with gid := 1, num := 1, bunches := List.replicate 24 fullMate },
    { group1 with gid := 2, num := 2, bunches := List.replicate 24 fullMate }] }
/-- s1 names lane 1, which is no thread of the run; s32 lane 0, which is. -/
theorem meets_ReadLaneResults : one.here? = some hOne ∧ one.cur.run.getLsbD (hOne.b.sregs[(1 : Reg)].toNat % 32) = false
    ∧ (lanesOf one.cur.run).head? = some 0 ∧ (0 : Fin 32).val = hOne.b.sregs[(32 : Reg)].toNat % 32 ∧ one.cur.run.getLsbD 0 = true
    ∧ hOne.b.InCore 63 ∧ hOne.b.isBad 63 0 = false ∧ hOne.b.isLive 63 0 = true
    ∧ (oneSp.here? = some (hAt bunchSp) ∧ bunchSp.flights = [] ∧ bunchSp.away = 0 ∧ bunchSp.regs[(63 : Reg)].rep = .spilled
      ∧ bunchSp.isLive 63 0 = true
      ∧ bunchSp.full + 1 ≤ Config.vectorFloor + (oneSp.roomFor (hAt bunchSp).g.core (hAt bunchSp).g.gid oneSp.cur.bunch).shared
      ∧ oneSp.NullKeyed ∧ oneSp.poison = []
      ∧ ∀ l : Fin 32, bunchSp.isLive 63 l = true → Straight oneSp (hAt bunchSp) (slotOf (hAt bunchSp) oneSp.cur.bunch l 63) .load ⟨32764, ucPte⟩)
    ∧ (oneFull.here? = some (hAt bunchFull) ∧ oneFull.cur.exec ≠ (0 : Lanes)
      ∧ (∃ l : Fin 32, bunchFull.threads[l].live = true ∧ oneFull.cur.exec.getLsbD l.val = false) ∧ bunchFull.flights = []
      ∧ bunchFull.regs[(1 : Reg)].rep = .released ∧ bunchFull.regs[(1 : Reg)].live = 0 ∧ Config.vectorFloor ≤ bunchFull.full
      ∧ (oneFull.roomFor (hAt bunchFull).g.core (hAt bunchFull).g.gid oneFull.cur.bunch).shared ≤ bunchFull.full - Config.vectorFloor
      ∧ bunchFull.regs[(0 : Reg)].rep = .full (Vector.replicate 32 7) ∧ bunchFull.regs[(0 : Reg)].bad = 0
      ∧ (∀ r : Reg, bunchFull.regs[r].rep.isFull = true → bunchFull.regs[(0 : Reg)].access < bunchFull.regs[r].access
        ∨ bunchFull.regs[(0 : Reg)].access = bunchFull.regs[r].access ∧ (0 : Reg) ≤ r) ∧ oneFull.NullKeyed ∧ oneFull.poison = []
      ∧ ∀ l : Fin 32, bunchFull.threads[l].present = true → Straight oneFull (hAt bunchFull) (slotOf (hAt bunchFull) oneFull.cur.bunch l 0) .store
          ⟨32512 + 32768 * l.val, ucPte⟩) := by
  refine ⟨one_here, by decide +kernel, by decide +kernel, by decide +kernel, by decide, inCore_of rfl (by decide +kernel), by decide +kernel,
    by decide +kernel, ⟨rfl, rfl, rfl, by decide +kernel, by decide +kernel, by decide +kernel, nullKeyed_of rfl rfl, rfl, fun l hl => ?_⟩,
    ⟨rfl, by decide, ⟨1, by decide +kernel, by decide +kernel⟩, rfl, by decide +kernel, by decide +kernel, by decide +kernel, by decide +kernel,
      by decide +kernel, by decide +kernel, by decide +kernel, nullKeyed_of rfl rfl, rfl, fun l hl => ?_⟩⟩
  · have h0 : ∀ l : Fin 32, bunchSp.isLive 63 l = true → l = 0 := by decide +kernel
    obtain rfl := h0 l hl
    exact straight_of (by decide +kernel) (by decide +kernel) rfl rfl rfl rfl
  · have h1 : ∀ l : Fin 32, bunchFull.threads[l].present = true → l = 0 ∨ l = 1 := by decide +kernel
    obtain rfl | rfl := h1 l hl
    · exact straight_of (by decide +kernel) (by decide +kernel) rfl rfl rfl rfl
    · exact straight_of (by decide +kernel) (by decide +kernel) rfl rfl rfl rfl
/-- A branch table of two entries at 0x110 (R130), its header names index 1 as the last; a thread with a return address, and one
with room for a last one. -/
def tableMem : List Host.Cell := put32 (put32 [] 0x110 0x4000) 0x11C 0xFFFFFF
def oneTable : State := { one with mem := tableMem }
def bunchRet : Bunch := bunch1.modThread 0 fun t => { t with ret := List.replicate 7 0x200 }
def oneRet : State := put group1 bunchRet launch1
/-- A full stack with nothing spilled yet, one whose thread has spilled all that its area holds, and an empty one with a group in
the area. -/
def bunchDeep : Bunch := bunch1.modThread 0 fun t => { t with ret := List.replicate 8 0x200 }
def oneDeep : State := { put group1 bunchDeep launch1 with tlb := wideTlb }
def bunchOver : Bunch := bunch1.modThread 0 fun t => { t with ret := List.replicate 8 0x200, spilled := 1 }
def oneOver : State := put group1 bunchOver launch1
def bunchBack : Bunch := bunch1.modThread 0 fun t => { t with spilled := 1 }
def oneBack : State := { put group1 bunchBack launch1 with tlb := wideTlb }
theorem ready_ret (b : Bunch) (s : State) (h : Here) (hh : s.here? = some h) (hb : h.b = b) (hz : b.flights = []) (hr : b.regs = bunch1.regs)
    (hs : ∀ l : Fin 32, staleTrap b.threads[l].fmode = false) (o : Operands) (hd : o.dests.length ≤ 24 := by decide) :
    s.LaneReady h o noReads := by
  subst hb
  refine ready_of s h hh hz (fun r => by rw [hr]; exact bunch1_in r) ?_ (fun r l => ?_) hs o noReads hd
  · have hf : ∀ r : Reg, h.b.hold r = bunch1.hold r := fun r => by rw [hold_of hz, hr, hold_of (b := bunch1) rfl]
    have hc := bunch1_full
    simp only [Bunch.full, Bunch.holding, hf] at hc ⊢
    exact hc
  · have hc := bunch1_bad r l
    simp only [Bunch.isBad, Bunch.isLive, hr] at hc ⊢
    exact hc
theorem bunchRet_ready (o : Operands) (hd : o.dests.length ≤ 24 := by decide) : oneRet.LaneReady (hAt bunchRet) o noReads :=
  ready_of _ (hAt bunchRet) rfl rfl (by decide +kernel) (by decide +kernel) (by decide +kernel) (by decide +kernel) o noReads hd
theorem meets_BranchesAndCalls : one.LaneReady hOne (opsD []) noReads
    ∧ (oneTable.LaneReady hOne { reads := srcReads (vr 1) 1, dests := [] } noReads ∧ (1 : Nat) < 1024
      ∧ oneTable.fetchWord hOne.g.core hOne.l.ctx (targetOf oneTable.cur.word 4) = (oneTable, .ok (.ofNat 32 (2 ^ 14 * 1)))
      ∧ ∀ k : Fin 32, oneTable.cur.exec.getLsbD k.val = true → (srcWord (vr 1) hOne.b k).toNat ≤ 1 ∧ (0xFFFFFF : Word).toNat < 2 ^ 24
        ∧ oneTable.fetchWord hOne.g.core hOne.l.ctx (targetOf (targetOf oneTable.cur.word 4) (2 + (srcWord (vr 1) hOne.b k).toNat))
          = (oneTable, .ok 0xFFFFFF))
    ∧ (oneRet.LaneReady (hAt bunchRet) (opsD []) noReads
      ∧ ∀ k : Fin 32, oneRet.cur.exec.getLsbD k.val = true → bunchRet.threads[k].ret.length < 8)
    ∧ (oneRet.LaneReady (hAt bunchRet) { reads := srcReads (vr 4) 2, dests := [] } noReads
      ∧ ∀ k : Fin 32, oneRet.cur.exec.getLsbD k.val = true → bunchRet.threads[k].ret.length < 8 ∧ (srcPair (vr 4) bunchRet k).toNat % 4 = 0)
    ∧ (∀ k : Fin 32, oneRet.cur.exec.getLsbD k.val = true → bunchRet.threads[k].ret.getLast? = some 0x200)
    ∧ (oneDeep.LaneReady (hAt bunchDeep) (opsD []) noReads ∧ oneDeep.cur.exec = laneBit 0 ∧ bunchDeep.threads[(0 : Fin 32)].ret.length = 8
      ∧ bunchDeep.threads[(0 : Fin 32)].spilled < (hAt bunchDeep).l.hdr.g ∧ oneDeep.NullKeyed ∧ oneDeep.poison = []
      ∧ ∀ i : Fin 4, Straight oneDeep (hAt bunchDeep)
          (returnPlace (hAt bunchDeep) oneDeep.cur.bunch 0 (4 * bunchDeep.threads[(0 : Fin 32)].spilled + i.val)) .store ⟨32480 + 8 * i.val, ucPte⟩)
    ∧ (oneBack.LaneReady (hAt bunchBack) (opsD []) noReads ∧ oneBack.cur.exec = laneBit 0 ∧ bunchBack.threads[(0 : Fin 32)].ret = []
      ∧ bunchBack.threads[(0 : Fin 32)].spilled = 0 + 1 ∧ oneBack.NullKeyed ∧ oneBack.poison = []
      ∧ ∀ i : Fin 4, Straight oneBack (hAt bunchBack) (returnPlace (hAt bunchBack) oneBack.cur.bunch 0 (4 * 0 + i.val)) .load
          ⟨32480 + 8 * i.val, ucPte⟩)
    ∧ (oneOver.LaneReady (hAt bunchOver) (opsD []) noReads ∧ ∀ k : Fin 32, oneOver.cur.exec.getLsbD k.val = true →
        bunchOver.threads[k].ret.length = 8 ∧ bunchOver.threads[k].spilled = (hAt bunchOver).l.hdr.g)
    ∧ (∀ k : Fin 32, one.cur.exec.getLsbD k.val = true → hOne.b.threads[k].ret = [] ∧ hOne.b.threads[k].spilled = 0)
    ∧ (oneTable.LaneReady hOne { reads := srcReads (vr 2) 1, dests := [] } noReads
      ∧ ∀ k : Fin 32, oneTable.cur.exec.getLsbD k.val = true → 1 < (srcWord (vr 2) hOne.b k).toNat) := by
  refine ⟨one_ready _ _, ⟨bunch1_ready _ _ rfl rfl _ _, by decide, by decide +kernel, ?_⟩, ⟨bunchRet_ready _, by decide +kernel⟩,
    ⟨bunchRet_ready _, by decide +kernel⟩, by decide +kernel,
    ⟨ready_ret bunchDeep _ _ rfl rfl rfl rfl (by decide +kernel) _, rfl, by decide +kernel, by decide +kernel, nullKeyed_of rfl rfl, rfl,
      fun i => ?_⟩,
    ⟨ready_ret bunchBack _ _ rfl rfl rfl rfl (by decide +kernel) _, rfl, by decide +kernel, by decide +kernel, nullKeyed_of rfl rfl, rfl,
      fun i => ?_⟩,
    ⟨ready_ret bunchOver _ _ rfl rfl rfl rfl (by decide +kernel) _, by decide +kernel⟩, by decide +kernel,
    ⟨bunch1_ready _ _ rfl rfl _ _, by decide +kernel⟩⟩
  · exact lane0 (by decide +kernel)
  all_goals
    match i with
    | 0 => exact straight_of (by decide +kernel) (by decide +kernel) rfl rfl rfl rfl
    | 1 => exact straight_of (by decide +kernel) (by decide +kernel) rfl rfl rfl rfl
    | 2 => exact straight_of (by decide +kernel) (by decide +kernel) rfl rfl rfl rfl
    | 3 => exact straight_of (by decide +kernel) (by decide +kernel) rfl rfl rfl rfl
/-! ### Flow, exits and traps -/

/-- A bunch of another thread of the group; the launch without tags. -/
def launchFlat : Launch := { launch1 with tree := [] }
def oneExit : State := { one with groups := [{ group1 with bunches := [bunch1, bunch1] }], launches := [launchFlat] }
def oneLast : State := { one with launches := [launchFlat] }
theorem meets_ExitResults :
    (oneExit.here? = some ⟨{ group1 with bunches := [bunch1, bunch1] }, bunch1, launchFlat⟩ ∧ launchFlat.tree = []
      ∧ ∃ b ∈ [bunch1, bunch1].eraseIdx oneExit.cur.bunch, ∃ k : Fin 32, b.threads[k].live = true)
    ∧ oneLast.here? = some ⟨group1, bunch1, launchFlat⟩ ∧ oneLast.GidsDiffer ∧ group1.halted = none
    ∧ launchFlat.tree = [] ∧ (∀ p : Port, oneLast.pairAt group1 p = none) ∧ (∀ b ∈ group1.bunches, b.mx.cmds = [] ∧ b.cp.cmds = [])
    ∧ oneLast.csmBusy group1.gid = false ∧ (∀ g ∈ oneLast.groups, g.left = false)
    ∧ ∀ (i : Nat) (b : Bunch) (l : Fin 32), group1.bunches[i]? = some b → b.threads[l].live = true →
      i = oneLast.cur.bunch ∧ oneLast.cur.exec.getLsbD l.val = true := by
  refine ⟨⟨rfl, rfl, bunch1, by decide +kernel, 0, by decide +kernel⟩, rfl, by unfold State.GidsDiffer; decide +kernel, rfl, rfl,
    fun p => by cases p <;> decide +kernel, by decide +kernel, by decide +kernel, by decide +kernel, ?_⟩
  intro i b l hb hl
  match i, hb with
  | 0, rfl => exact ⟨rfl, by revert hl; revert l; decide +kernel⟩
/-- A group with a routine at 0x1000, its frames at the uncached page 0x10000. -/
def groupT : Group := { group1 with tra := 0x1000, tfb := 0x10000 }
def oneTrap : State := { put groupT bunch1 launch1 with tlb := ucFrames }
def hTrap : Here := ⟨groupT, bunch1, launch1⟩
theorem oneTrap_frame : FrameReady oneTrap hTrap 0 ⟨0x40000, ucPte + 0x40000⟩ :=
  ⟨by decide, by decide +kernel, rfl, by decide +kernel, by decide, by decide +kernel,
    plain_of rfl (by decide +kernel) (by decide), notInL1_of rfl _, rfl, rfl, rfl, unlocked_of rfl _, by decide +kernel⟩
theorem meets_TrapEntry : oneTrap.here? = some hTrap ∧ (oneTrap.groups.map fun g => g.gid).Nodup ∧ oneTrap.cur.run = laneBit 0
    ∧ oneTrap.cur.exec = laneBit 0 ∧ FrameReady oneTrap hTrap 0 ⟨0x40000, ucPte + 0x40000⟩ :=
  ⟨rfl, by decide +kernel, by decide +kernel, by decide +kernel, oneTrap_frame⟩
/-- TRA, TFB and a debug control, within their layouts and beyond them; a thread in its routine. -/
def bunchSt (tra traHi tfb tfbHi ctl : Nat) : Bunch := bunchOf (fun _ => 0) (these [(2, tra), (3, traHi), (4, tfb), (5, tfbHi), (6, ctl)])
def meetsSt (b : Bunch) : Bool × Bool × Bool × Bool × Bool :=
  (decide ((scalarPair b 2).toNat % 4 = 0), decide ((scalarPair b 4).toNat % 64 = 0), decide ((scalarPair b 2).toNat < 2 ^ 57),
    decide ((scalarPair b 4).toNat < 2 ^ 57), decide (b.sregs[(6 : Reg)].toNat / 2 ^ 16 % 2 ^ 15 = 0))
def bunchIn : Bunch := bunch1.modThread 0 fun t => { t with inTrap := true }
def oneIn : State := { put groupT bunchIn launch1 with tlb := ucFrames }
theorem meets_TrapRegistersAndReturn :
    ((∀ b, (atB b).here? = some (hAt b)) ∧ meetsSt (bunchSt 0x1004 0x1FFFFFF 0x40 0 0x8000FFFF) = (true, true, true, true, true)
      ∧ meetsSt (bunchSt 0x1006 0 0x40 0 0) = (false, true, true, true, true) ∧ meetsSt (bunchSt 4 0 0x60 0 0) = (true, false, true, true, true)
      ∧ meetsSt (bunchSt 4 0x2000000 0x40 0 0) = (true, true, false, true, true)
      ∧ meetsSt (bunchSt 4 0 0x40 0x2000000 0) = (true, true, true, false, true)
      ∧ meetsSt (bunchSt 4 0 0x40 0 0x10000) = (true, true, true, true, false))
    ∧ (one.GidsDiffer ∧ ∃ g ∈ ({ one with groups := [{ group1 with trapNext := some (4, 64, 0) }] } : State).groups, g.left = false
      ∧ g.trapNext = some (4, 64, 0))
    ∧ (oneIn.here? = some ⟨{ groupT with bunches := [bunchIn] }, bunchIn, launch1⟩ ∧ oneIn.Settled ∧ oneIn.NullKeyed
      ∧ ∀ l : Fin 32, oneIn.cur.run.getLsbD l.val = true → bunchIn.threads[l].inTrap = true
        ∧ oneIn.Mapped 26 1 (0x10000 + 64 * (32 * oneIn.cur.bunch + l.val)) .load ⟨0x40000 + 64 * l.val, ucPte + 0x40000⟩
        ∧ Pte.coh (ucPte + 0x40000) = .uc ∧ oneIn.keyOf (Pte.key (ucPte + 0x40000)) = 0 ∧ oneIn.NotInL1 ((0x40000 + 64 * l.val) / 512)
        ∧ oneIn.Clean (Pte.key (ucPte + 0x40000)) (0x40000 + 64 * l.val) 8)
    ∧ one.here? = some hOne ∧ one.cur.run.getLsbD 0 = true ∧ hOne.b.threads[0].inTrap = false := by
  refine ⟨⟨fun _ => rfl, by decide +kernel, by decide +kernel, by decide +kernel, by decide +kernel, by decide +kernel, by decide +kernel⟩,
    ⟨by unfold State.GidsDiffer; decide +kernel, { group1 with trapNext := some (4, 64, 0) }, .head _, rfl, rfl⟩,
    ⟨rfl, settled_of rfl rfl, nullKeyed_of rfl rfl, lane0 ?_⟩, one_here, by decide, by decide +kernel⟩
  exact ⟨by decide +kernel, mapped_of ⟨ucPte + 0x40000, 0x10000, 32768⟩ (by decide +kernel), by decide +kernel, by decide +kernel,
    notInL1_of rfl _, clean_of rfl (by decide +kernel) rfl (by decide)⟩
/-- The error log at 0. -/
theorem meets_HaltStopsGroup : one.here? = some hOne ∧ one.GidsDiffer ∧ (one.launches.map fun l => l.id).Nodup ∧ hOne.g.halted = none
    ∧ hOne.l.origin = none ∧ one.Settled ∧ (lanesOf one.cur.run).head? = some 0
    ∧ (∀ b ∈ hOne.g.bunches, b.mx.cmds = [] ∧ b.cp.cmds = []) ∧ (∀ g ∈ one.groups, g.launch = hOne.l.id → g.gid = hOne.g.gid)
    ∧ (let ring := one.dev.elbase.toNat + 64 * (one.dev.elcount.toNat % Config.errorRing)
      windowOf ring ≠ .device ∧ one.dev.elbase.toNat % 64 = 0 ∧ one.NotInL1 (ring / 512)) := by
  refine ⟨one_here, by unfold State.GidsDiffer; decide +kernel, by decide +kernel, rfl, rfl, settled_of rfl rfl, by decide +kernel,
    by decide +kernel, by decide +kernel, by decide +kernel, by decide +kernel, notInL1_of rfl _⟩

/-! ### Ports -/

/-- Two groups of the launch on cores that face each other, north and south, with entries and credits in every queue. -/
def bunchP : Bunch := bunch1.modThread 0 fun t => { t with ports := Vector.replicate 6 ⟨[5], 2⟩ }
def groupN : Group := { group1 with gid := 40, core := ((neighbour loadCore .n).getD (0, false)).1, bunches := [bunchP] }
def onePort : State := { one with groups := [{ group1 with bunches := [bunchP] }, groupN] }
def hPort : Here := ⟨{ group1 with bunches := [bunchP] }, bunchP, launch1⟩
theorem bunchP_stale : ∀ l : Fin 32, staleTrap bunchP.threads[l].fmode = false := by decide +kernel
theorem bunchP_ready (s : State) (h : Here) (hh : s.here? = some h) (he : h.b = bunchP) (o : Operands)
    (hd : o.dests.length ≤ 24 := by decide) : s.LaneReady h o noReads :=
  ready_of s h hh (he ▸ rfl) (he ▸ by decide +kernel) (he ▸ by decide +kernel) (he ▸ by decide +kernel) (he ▸ bunchP_stale) o noReads hd
theorem meets_CorePortResults : onePort.LaneReady hPort { reads := srcReads (vr 63) 1, dests := [] } noReads ∧ isCorePort .n
    ∧ (∃ y e, onePort.pairAt hPort.g .n = some (y, e)) ∧ onePort.LaneReady hPort (opsD [63]) noReads :=
  ⟨bunchP_ready _ _ rfl rfl _, .inl rfl, ⟨groupN, ((neighbour loadCore .n).getD (0, false)).2, by decide +kernel⟩, bunchP_ready _ _ rfl rfl _⟩
/-- Lane 0 faces lane 1 through hi; at the other end lane 31 faces lane 30 through lo. -/
def bunch2 : Bunch := bunchP.modThread 1 fun t => { t with present := true }
def oneLanes : State := put group1 bunch2 launch1
theorem bunch2_ready (o : Operands) (hd : o.dests.length ≤ 24 := by decide) : oneLanes.LaneReady (hAt bunch2) o noReads :=
  ready_of _ (hAt bunch2) rfl rfl (by decide +kernel) (by decide +kernel) (by decide +kernel) (by decide +kernel) o noReads hd
theorem meets_LanePortResults : oneLanes.LaneReady (hAt bunch2) { reads := srcReads (vr 63) 1, dests := [] } noReads
    ∧ oneLanes.cur.exec = laneBit 0 ∧ laneFacing .hi 0 1 ∧ laneFacing .lo 31 30 ∧ bunch2.threads[(1 : Fin 32)].present = true
    ∧ oneLanes.LaneReady (hAt bunch2) (opsD [63]) noReads :=
  ⟨bunch2_ready _, by decide +kernel, .inl ⟨rfl, rfl⟩, .inr ⟨rfl, rfl⟩, by decide +kernel, bunch2_ready _⟩
def entry1 : PortMsg := ⟨40, 0, 0, 1, some 7⟩
def credit1 : PortMsg := ⟨40, 0, 0, 1, none⟩
def oneNet : State := { onePort with portNet := [credit1, entry1, credit1], event := { row := .portEntryArrival, a := 40 } }
theorem meets_PortArrivals : (oneNet.portNet = [credit1] ++ entry1 :: [credit1] ∧ entry1.gid = oneNet.event.a ∧ entry1.entry = some 7
      ∧ ∀ x ∈ [credit1], x.gid = oneNet.event.a → x.entry = none)
    ∧ oneNet.portNet = [] ++ credit1 :: [entry1, credit1] ∧ credit1.gid = oneNet.event.a ∧ credit1.entry = none :=
  ⟨⟨rfl, rfl, rfl, by decide +kernel⟩, rfl, rfl, rfl⟩

/-! ### Memory -/

/-- Address registers: v0 for the 32-bit spaces, the pair v2:v3 for .gl and .lp. -/
def regsM (a32 a64 : Nat) : Bunch := bunchOf (these [(0, a32), (2, a64), (5, 5)]) (these [(0, a32), (2, a64), (5, 5)])
/-- The L1 holds the last blocks of the page's first 32 KiB, of a DIR page and read-only. -/
def dirBlock : Block := ⟨loadCore, 0, 1, 63, 63, loadPte, 0xFFFF, 0, 0, [], []⟩
def roBlock : Block := ⟨loadCore, 1, 1, 62, 62, loadPte, 0xFFFF, 0, 0xFFFF, [], []⟩
def onM (b : Bunch) : State := { atB b with l1 := [dirBlock, roBlock] }
theorem ready_M (a32 a64 : Nat) (s : State) (hh : s.here? = some (hAt (regsM a32 a64))) (o : Operands) (rs : Fin 32 → List Read)
    (hd : o.dests.length ≤ 24 := by decide) : s.LaneReady (hAt (regsM a32 a64)) o rs :=
  bunchOf_ready (these [(0, a32), (2, a64), (5, 5)]) s (hAt (regsM a32 a64)) hh rfl (hd := hd) (o := o) (rs := rs)
theorem blocks_once : ([dirBlock, roBlock].map fun b => (b.core, b.asid, b.vb)).Nodup := by decide
theorem blocks_noSi : ∀ b ∈ [dirBlock, roBlock], b.core = loadCore → Pte.coh b.pte ≠ .si := by decide
theorem quiet_M (b : Bunch) (hb : b.mx.cmds = [] ∧ b.cp.cmds = []) : (onM b).EnginesIdle loadCore ∧ (onM b).Settled ∧ (onM b).OneBlock
    ∧ (onM b).NoSi loadCore := by
  refine ⟨?_, ⟨rfl, ?_⟩, blocks_once, blocks_noSi⟩
  · intro g hg _ x hx
    simp only [onM, atB, put, List.mem_singleton] at hg
    subst hg
    simp only [List.mem_singleton] at hx
    exact hx ▸ hb
  · intro m hm
    exact absurd hm List.not_mem_nil
def hM (a32 a64 : Nat) : Here := hAt (regsM a32 a64)
def spotOf (k : Space) (a : Nat) (x : Xl) (target : Nat) : Spot := ⟨k, .ofNat 64 a, x.pa, x.pte, target, loadCore⟩
/-- The last word of a limit in each space: scratchpad and window of 65 536 bytes, the program part of the slice, the page. -/
theorem reaches_last (s : State) (need : Need)
    (hg : mappedB s loadCore 1 32764 need ⟨32764, loadPte⟩ dirLeaf = true) (hl : mappedB s loadCore 1 32476 need ⟨32476, loadPte⟩ dirLeaf = true)
    (hc : s.csmTarget (hM 65532 32764).g 0 = some (hM 65532 32764).g) :
    Reaches s (hM 65532 32764) 0 0 .sp 65532 4 4 need (spotOf .sp 65532 ⟨0, 0⟩ 0)
    ∧ Reaches s (hM 65532 32764) 0 0 .csm 65532 4 4 need (spotOf .csm 65532 ⟨0, 0⟩ 0)
    ∧ Reaches s (hM 65532 32764) 0 0 .chs 65532 4 4 need (spotOf .chs 65532 ⟨0, 0⟩ 1)
    ∧ Reaches s (hM 65532 32764) 0 0 .gl 32764 4 4 need (spotOf .gl 32764 ⟨32764, loadPte⟩ 0)
    ∧ Reaches s (hM 65532 32476) 0 0 .lp 32476 4 4 need (spotOf .lp 32476 ⟨32476, loadPte⟩ 0) := by
  refine ⟨⟨by decide, by decide, by decide, rfl⟩, ⟨by decide, by decide, hc, by decide, rfl⟩,
    ⟨by decide, by decide, ⟨_, List.mem_singleton_self _, rfl⟩, by decide, rfl⟩,
    ⟨by decide, _, mapped_of dirLeaf hg, rfl⟩, ⟨by decide, by decide +kernel, _, mapped_of dirLeaf hl, rfl⟩⟩
def sM (a32 a64 : Nat) : State := onM (regsM a32 a64)
theorem meets_LoadResults : (∃ f ∈ loadForms, f.2.1 = .lp ∧ f.2.2 = 4) ∧ (∃ f ∈ readOnlyForms, f.2 = 4)
    ∧ (∀ a b o rs, o.dests.length ≤ 24 → (sM a b).LaneReady (hM a b) o rs) ∧ (sM 65532 32764).EnginesIdle loadCore ∧ (sM 65532 32764).Settled
    ∧ (sM 65532 32764).OneBlock ∧ (sM 65532 32764).NoSi loadCore
    ∧ (addressOf .sp (vr 0) 0 (hM 65532 32764).b 0 = 65532 ∧ addressOf .gl (vr 2) 0 (hM 65532 32764).b 0 = 32764)
    ∧ Reaches (sM 65532 32764) (hM 65532 32764) 0 0 .sp 65532 4 4 .load (spotOf .sp 65532 ⟨0, 0⟩ 0)
    ∧ Holds ((sM 65532 32764).acquired none) (hM 65532 32764) (spotOf .sp 65532 ⟨0, 0⟩ 0) 4 [0, 0, 0, 0]
    ∧ Holds (sM 65532 32764) (hM 65532 32764) (spotOf .csm 65532 ⟨0, 0⟩ 0) 4 [0, 0, 0, 0]
    ∧ Holds (sM 65532 32764) (hM 65532 32764) (spotOf .chs 65532 ⟨0, 0⟩ 1) 4 [0, 0, 0, 0]
    ∧ Holds ((sM 65532 32764).acquired (some .sy)) (hM 65532 32764) (spotOf .gl 32764 ⟨32764, loadPte⟩ 0) 4 [0, 0, 0, 0]
    ∧ Reaches (sM 65532 31744) (hM 65532 31744) 0 0 .gl 31744 4 4 .ldro (spotOf .gl 31744 ⟨31744, loadPte⟩ 0)
    ∧ HoldsRo (sM 65532 31744) (hM 65532 31744) (spotOf .gl 31744 ⟨31744, loadPte⟩ 0) 4 [0, 0, 0, 0] := by
  obtain ⟨h1, h2, h3, h4⟩ := quiet_M (regsM 65532 32764) ⟨rfl, rfl⟩
  refine ⟨⟨_, List.mem_cons_self, rfl, rfl⟩, ⟨_, List.mem_cons_self, rfl⟩, fun a b o rs hd => ready_M a b _ rfl o rs hd, h1, h2, h3, h4,
    by decide +kernel, (reaches_last _ _ (by decide +kernel) (by decide +kernel) (by decide +kernel)).1, ⟨by decide +kernel, by decide +kernel⟩,
    ⟨by decide +kernel, by decide +kernel⟩, ⟨_, rfl, by decide +kernel, by decide +kernel⟩,
    ⟨by decide, by decide, dirBlock, by decide +kernel, by decide, by decide +kernel, by decide +kernel, by decide +kernel⟩,
    ⟨by decide, _, mapped_of dirLeaf (by decide +kernel), rfl⟩,
    ⟨by decide, roBlock, by decide +kernel, by decide, by decide +kernel, by decide +kernel, by decide +kernel⟩⟩
theorem meets_StoreResults : (∃ f ∈ storeForms, f.2.1 = .lp ∧ f.2.2 = 4)
    ∧ (∀ a b o rs, o.dests.length ≤ 24 → (sM a b).LaneReady (hM a b) o rs) ∧ (sM 65532 32764).EnginesIdle loadCore ∧ (sM 65532 32764).Settled
    ∧ (sM 65532 32764).NoSi loadCore
    ∧ Reaches (sM 65532 32764) (hM 65532 32764) 0 0 .sp 65532 4 4 .store (spotOf .sp 65532 ⟨0, 0⟩ 0)
    ∧ Reaches (sM 65532 32764) (hM 65532 32764) 0 0 .csm 65532 4 4 .store (spotOf .csm 65532 ⟨0, 0⟩ 0)
    ∧ Reaches (sM 65532 32764) (hM 65532 32764) 0 0 .chs 65532 4 4 .store (spotOf .chs 65532 ⟨0, 0⟩ 1)
    ∧ Reaches (sM 65532 32764) (hM 65532 32764) 0 0 .gl 32764 4 4 .store (spotOf .gl 32764 ⟨32764, loadPte⟩ 0)
    ∧ Reaches (sM 65532 32764) (hM 65532 32476) 0 0 .lp 32476 4 4 .store (spotOf .lp 32476 ⟨32476, loadPte⟩ 0) := by
  obtain ⟨h1, h2, h3, h4⟩ := quiet_M (regsM 65532 32764) ⟨rfl, rfl⟩
  exact ⟨⟨_, List.mem_cons_self, rfl, rfl⟩, fun a b o rs hd => ready_M a b _ rfl o rs hd, h1, h2, h4,
    reaches_last _ _ (by decide +kernel) (by decide +kernel) (by decide +kernel)⟩
/-- A store of the last word of the scratchpad, of the own and of a neighbour's scratchpad, of a window, of an uncached page. -/
def store1 (k : Space) (a : Nat) : Store :=
  { core := loadCore, issue := 0, gid := 0, bunch := 0, lane := 0, wholeBunch := 0, pc := 0x100, sp := k, q := none, addr := .ofNat 64 a, size := 4, data := 9,
    ctx := 1, asid := 1, pa := a, pte := ucPte, target := 0, launch := 1 }
def oneStore (o : Store) : State := { one with stores := [o], event := { row := .storePerformed, a := loadCore } }
/-- A plain store of that word of a DIR or an SI page, whose block the L1 holds. -/
def storeIn (pte : Pte) : Store := { store1 .gl 32764 with pte := pte }
def blockOf (pte : Pte) : Block := { dirBlock with pte := pte }
def oneStoreIn (pte : Pte) : State := { oneStore (storeIn pte) with l1 := [blockOf pte] }
theorem meets_StorePerformedResults : (∀ o, (oneStore o).stores = o :: [] ∧ (oneStore o).event.b ≠ 1 ∧ (∀ x ∈ ([] : List Store), x.place ≠ o.place)
      ∧ (oneStore o).event.ecc = .none ∧ (oneStore o).poison = []
      ∧ (∀ b ∈ (oneStore o).l1, b.poison = []) ∧ (∀ g ∈ (oneStore o).groups, g.spPoison = [])
      ∧ ∀ l ∈ (oneStore o).launches, ∀ w ∈ l.windows, w.poison = [])
    ∧ (store1 .sp 65532).core = (oneStore (store1 .sp 65532)).event.a
    ∧ coreOfPos (store1 .csm 65532).core ((store1 .csm 65532).addr.toNat / 2 ^ 20 % 4) = (store1 .csm 65532).core
    ∧ (coreOfPos (store1 .csm (2 ^ 22 - 4)).core ((store1 .csm (2 ^ 22 - 4)).addr.toNat / 2 ^ 20 % 4) ≠ (store1 .csm (2 ^ 22 - 4)).core
      ∧ ∀ o, ∀ m ∈ (oneStore o).csmNet, ∀ x ∈ m.stores, x.issue ≠ o.issue)
    ∧ (Pte.coh (store1 .gl 32764).pte = .uc ∧ (oneStore (store1 .gl 32764)).linkDown 32764 = false
      ∧ (oneStore (store1 .gl 32764)).Plain (Pte.key ucPte) 32764 4 ∧ 32764 % 512 + 4 ≤ 512
      ∧ (oneStore (store1 .gl 32764)).NotInL1 (32764 / 512) ∧ (oneStore (store1 .gl 32764)).Unlocked (32764 / 512)
      ∧ ∀ r ∈ (oneStore (store1 .gl 32764)).reqs, r.blk = 32764 / 512 → r.st ≠ .accepted)
    ∧ ∀ pte ∈ [loadPte, (0x17F : Pte)], (Pte.coh pte = .dir ∨ (Pte.coh pte = .si ∧ Pte.kind pte ≠ .so))
      ∧ (oneStoreIn pte).linkDown 32764 = false ∧ (oneStoreIn pte).NullKeyed ∧ (oneStoreIn pte).keyOf (Pte.key pte) = 0
      ∧ wideQ (storeIn pte).q = false ∧ (oneStoreIn pte).Unlocked (32764 / 512) ∧ (oneStoreIn pte).OneBlock
      ∧ (oneStoreIn pte).block? loadCore 1 32764 = some (blockOf pte) ∧ (blockOf pte).pb = 32764 / 512 ∧ (blockOf pte).pte = pte
      ∧ (∀ x ∈ (oneStoreIn pte).l1, x.pb = 32764 / 512 → x = blockOf pte)
      ∧ (blockOf pte).valid &&& ~~~ (blockOf pte).ro &&& grainMask pte (32764 % 512) 4 = grainMask pte (32764 % 512) 4
      ∧ sectorsOf (32764 % 512) 4 &&& grainMask pte (32764 % 512) 4 = sectorsOf (32764 % 512) 4 := by
  refine ⟨fun o => ⟨rfl, (by decide : (0 : Nat) ≠ 1), fun _ h => absurd h List.not_mem_nil, rfl, rfl, fun _ h => absurd h List.not_mem_nil, ?_, ?_⟩,
    rfl, by decide +kernel, ⟨by decide +kernel, fun o m h => absurd h List.not_mem_nil⟩,
    ⟨by decide +kernel, by decide +kernel, plain_of rfl rfl (by decide), by decide, notInL1_of rfl _, unlocked_of rfl _, by decide +kernel⟩, ?_⟩
  · exact (by decide +kernel : ∀ g ∈ one.groups, g.spPoison = [])
  · exact (by decide +kernel : ∀ l ∈ one.launches, ∀ w ∈ l.windows, w.poison = [])
  · intro pte hp
    simp only [List.mem_cons, List.not_mem_nil, or_false] at hp
    have h1 : (Pte.coh pte = .dir ∨ (Pte.coh pte = .si ∧ Pte.kind pte ≠ .so))
      ∧ (oneStoreIn pte).linkDown 32764 = false ∧ (oneStoreIn pte).keyOf (Pte.key pte) = 0
      ∧ (oneStoreIn pte).block? loadCore 1 32764 = some (blockOf pte)
      ∧ (blockOf pte).valid &&& ~~~ (blockOf pte).ro &&& grainMask pte (32764 % 512) 4 = grainMask pte (32764 % 512) 4
      ∧ sectorsOf (32764 % 512) 4 &&& grainMask pte (32764 % 512) 4 = sectorsOf (32764 % 512) 4 := by
      obtain rfl | rfl := hp <;> decide +kernel
    obtain ⟨a, b, c, d, e, f⟩ := h1
    exact ⟨a, b, nullKeyed_of rfl rfl, c, rfl, unlocked_of rfl _, List.nodup_singleton _, d, rfl, rfl, fun x hx _ => List.mem_singleton.1 hx, e, f⟩
def atomAt (k : ASpace) (w64 : Bool) : AtomOp := { d := 8, ret := true, a := ⟨if k = .gl then 2 else 0, false, .self⟩, b := vr 4, q := none, sp := k, w64 := w64 }
def casAt (k : ASpace) : Cas128Op := { d := 8, ret := true, a := vr 0, b := own 12, c := own 16, q := none, sp := k }
theorem meets_ScratchpadAtomics : (∃ f, f ∈ atomics) ∧ (∀ a b o rs, o.dests.length ≤ 24 → (sM a b).LaneReady (hM a b) o rs)
    ∧ (sM 65528 0).cur.exec = laneBit 0 ∧ (sM 65528 0).Settled ∧ (sM 65528 0).EnginesIdle loadCore ∧ (sM 65528 0).NoSi loadCore
    ∧ Reaches (sM 65528 0) (hM 65528 0) 0 0 .sp (addressOf .sp (atomAt .sp true).a 0 (hM 65528 0).b 0) 8 8 .atomic (spotOf .sp 65528 ⟨0, 0⟩ 0)
    ∧ Holds (sM 65528 0) (hM 65528 0) (spotOf .sp 65528 ⟨0, 0⟩ 0) 8 (List.replicate 8 0)
    ∧ Reaches (sM 65520 0) (hM 65520 0) 0 0 .chs (addressOf .chs (casAt .chs).a 0 (hM 65520 0).b 0) 16 16 .atomic (spotOf .chs 65520 ⟨0, 0⟩ 1)
    ∧ Holds (sM 65520 0) (hM 65520 0) (spotOf .chs 65520 ⟨0, 0⟩ 1) 16 (List.replicate 16 0)
    ∧ (wordsFrom 4 (List.replicate 16 0) = ownWordsOf (casAt .chs).c 4 (hM 65520 0).b 0
      ∧ valueOf (List.replicate 8 0) ≠ (dataOf 8 ((hM 65528 0).b.val 5 0) ((hM 65528 0).b.val 6 0)).toNat) := by
  obtain ⟨h1, h2, h3, h4⟩ := quiet_M (regsM 65528 0) ⟨rfl, rfl⟩
  exact ⟨⟨_, List.mem_cons_self⟩, fun a b o rs hd => ready_M a b _ rfl o rs hd, by decide, h2, h1, h4,
    ⟨by decide +kernel, by decide +kernel, by decide +kernel, by decide +kernel⟩, ⟨by decide +kernel, by decide +kernel⟩,
    ⟨by decide +kernel, by decide +kernel, ⟨_, List.mem_singleton_self _, by decide +kernel⟩, by decide +kernel, by decide +kernel⟩,
    ⟨_, rfl, by decide +kernel, by decide +kernel⟩, by decide +kernel, by decide +kernel⟩
def sUc (a64 : Nat) : State := { atB (regsM 0 a64) with tlb := ucTlb }
theorem meets_MemoryIsAsked : (∃ f ∈ loadForms, f.2.1 = .gl ∧ f.2.2 = 4) ∧ (∃ f, f ∈ atomics)
    ∧ (∀ o rs, o.dests.length ≤ 24 → (sUc 32764).LaneReady (hM 0 32764) o rs) ∧ (sUc 32764).cur.exec = laneBit 0
    ∧ (sUc 32764).cur.run.getLsbD (Fin.val (0 : Fin 32)) = true ∧ (sUc 32764).EnginesIdle loadCore ∧ (sUc 32764).Settled ∧ (sUc 32764).OneBlock
    ∧ (sUc 32764).NoSi loadCore ∧ NoRequest (sUc 32764) (hM 0 32764)
    ∧ Reaches (sUc 32764) (hM 0 32764) 0 0 .gl (addressOf .gl (vr 2) 0 (hM 0 32764).b 0) 4 4 .load (spotOf .gl 32764 ⟨32764, ucPte⟩ 0)
    ∧ Pte.coh ucPte = .uc ∧ windowOf 32764 = .local_ ∧ (∀ b ∈ (sM 0 31232).l1, b.core = loadCore → b.pb ≠ 31232 / 512)
    ∧ Reaches (sM 0 31232) (hM 0 31232) 0 0 .gl (addressOf .gl (atomAt .gl false).a 0 (hM 0 31232).b 0) 4 4 .atomic
        (spotOf .gl 31232 ⟨31232, loadPte⟩ 0) := by
  have hE : (sUc 32764).EnginesIdle loadCore := (quiet_M (regsM 0 32764) ⟨rfl, rfl⟩).1
  refine ⟨⟨(.ldN32Gl, .gl, 4), by simp [loadForms], rfl, rfl⟩, ⟨_, List.mem_cons_self⟩, fun o rs hd => ready_M 0 32764 _ rfl o rs hd, by decide, by decide,
    hE, ⟨rfl, fun _ h => absurd h List.not_mem_nil⟩, List.nodup_nil, fun _ h => absurd h List.not_mem_nil,
    ⟨fun _ h => absurd h List.not_mem_nil, fun _ h => absurd h List.not_mem_nil⟩,
    ⟨by decide +kernel, _, mapped_of ucLeaf (by decide +kernel : mappedB _ _ _ _ _ ⟨32764, ucPte⟩ _ = true), by decide +kernel⟩, by decide, by decide,
    by decide +kernel,
    ⟨by decide +kernel, _, mapped_of dirLeaf (by decide +kernel : mappedB _ _ _ _ _ ⟨31232, loadPte⟩ _ = true), by decide +kernel⟩⟩

/-! ### Answers, fences, bunch accesses, the memory system -/

def reqAt (op : ReqOp) (n : Nat) (st : ReqSt) (x : ReqLane) : Req :=
  { id := 1, pend := 0, core := loadCore, gid := 0, bunch := 0, op := op, sp := .gl, q := none, ret := true, size := n,
    ctx := 1, asid := 1, blk := x.pa / 512, pc := 0x100, target := 0, launch := 1, st := st, run := 1, lanes := [x], applied := none }
def pendAt (op : ReqOp) (n : Nat) (waiting : Lanes) : Pend :=
  { id := 0, gid := 0, bunch := 0, run := 1, exec := 1, pc := 0x100, next := 0x104, op := op, vd := some 8, scalar := false, size := n,
    keep := [], waiting := waiting, outs := [] }
def laneAt (a : Nat) (p : Pte) : ReqLane := ⟨0, .ofNat 64 a, a, p, [7, 0, 0, 0], [0, 0, 0, 0]⟩
/-- The bunch keeps of the instruction that it has taken entries for v8 to v11. -/
def flight1 : Flight := ⟨0, 1, [], true, [8, 9, 10, 11], []⟩
def bunchFl : Bunch := { bunch1 with flights := [flight1] }
def hFl : Here := hAt bunchFl
def sReq (r : Req) (w : Lanes := 1) : State :=
  { atB bunchFl with reqs := [r], pends := [pendAt r.op r.size w], event := { row := .loadReturn, a := 1 } }
theorem fl_in : ∀ r : Reg, bunchFl.regs[r].rep ≠ .spilled ∧ bunchFl.hold r ≠ .spilled := by decide +kernel
theorem fl_room (s : State) (d : List Reg) (hd : d.length ≤ 20 := by decide) : s.RoomAt hFl 0 d := by
  refine ⟨fun r _ => fl_in r, ?_⟩
  have h0 : hFl.b.full = 4 := (by decide +kernel : bunchFl.full = 4)
  have : Config.vectorFloor = 24 := rfl
  omega
/-- A request whose answer ends what its lane waits for. -/
theorem asks (r : Req) (w : Lanes) (hid : r.id = 1) (hp : r.pend = 0) (hg : r.gid = 0) (hb : r.bunch = 0) :
    (sReq r w).reqs.find? (fun x => x.id == (sReq r w).event.a) = some r ∧ (sReq r w).hereOf r.gid r.bunch = some hFl
    ∧ ((sReq r w).pends.find? fun p => p.is r.pend r.gid r.bunch) = some (pendAt r.op r.size w) ∧ PendsDiffer (sReq r w)
    ∧ untraced hFl ∧ (∀ k, (sReq r w).Unlocked k) ∧ OnlyAccepted (sReq r w) r ∧ Landing hFl (pendAt r.op r.size w) flight1 := by
  refine ⟨?_, ?_, ?_, (by simp [PendsDiffer, sReq]), (by decide : (0 : Word).getLsbD 31 = false), fun k => unlocked_of rfl k,
    ⟨by simp [sReq], fun x hx _ _ => List.mem_singleton.1 hx⟩, rfl, rfl, rfl⟩
  · simp [sReq, hid]
  · rw [hg, hb]
    rfl
  · rw [hp, hg, hb]
    rfl
theorem one_null (k : Nat) : one.keyOf k = 0 := by simp [State.keyOf, one, State.reset]
/-- The last word, and the last sixteen bytes, of memory's first page; an answer that is the last, and one that is not. -/
theorem meets_MemoryAnswers :
    (∀ w, let r := reqAt .load 4 .accepted (laneAt 32764 ucPte)
      (sReq r w).reqs.find? (fun x => x.id == (sReq r w).event.a) = some r ∧ (sReq r w).event.ecc = .none
      ∧ (sReq r w).RoomAt hFl 0 [8] ∧ 4 ∣ 4 ∧ (r.lanes.map fun x => x.lane).Nodup
      ∧ ∀ x ∈ r.lanes, Pte.coh x.pte = .uc ∧ x.pa / 512 = r.blk ∧ (sReq r w).NotInL1 r.blk ∧ (sReq r w).linkDown x.pa = false
        ∧ (sReq r w).Clean (Pte.key x.pte) x.pa r.size)
    ∧ ((1 : Lanes) = lanesFrom [0] ∧ (3 : Lanes) &&& ~~~ lanesFrom [0] ≠ 0)
    ∧ (∀ op n p, let r := reqAt op n .accepted (laneAt 32752 p)
      (sReq r 1).reqs.find? (fun x => x.id == (sReq r 1).event.a) = some r ∧ (sReq r 1).linkDown 32752 = false
      ∧ (sReq r 1).NotInL1 (32752 / 512) ∧ (sReq r 1).Clean (Pte.key p) 32752 n ∧ (sReq r 1).RoomAt hFl 0 [8, 9, 10, 11])
    ∧ ((∃ f ∈ atomics, f.2.1 = 0) ∧ swapBytes 16 (Memory.readN [] 32752 16) [7, 0, 0, 0] [0, 0, 0, 0] = some (wordBytesOf [7, 0, 0, 0])
      ∧ swapBytes 16 (Memory.readN [] 32752 16) [7, 0, 0, 0] [1, 0, 0, 0] = none) := by
  refine ⟨fun w => ⟨(asks _ w rfl rfl rfl rfl).1, rfl, fl_room _ _, by decide, by decide, fun x hx => ?_⟩, by decide,
    fun op n p => ⟨(asks _ 1 rfl rfl rfl rfl).1, (by decide +kernel : one.linkDown 32752 = false), notInL1_of rfl _, clean_of rfl (one_null _) rfl (by decide), fl_room _ _⟩,
    ⟨_, List.mem_cons_self, rfl⟩, by decide +kernel, by decide +kernel⟩
  rw [List.mem_singleton.1 hx]
  exact ⟨(by decide : Pte.coh ucPte = .uc), (by decide : 32764 / 512 = 63), notInL1_of rfl _,
    (by decide +kernel : one.linkDown 32764 = false), clean_of rfl rfl rfl (by decide)⟩
theorem meets_FenceResults : one.LaneReady hOne (opsD []) noReads ∧ one.Settled ∧ one.NoSi hOne.g.core ∧ one.cur.exec ≠ 0
    ∧ (∀ b ∈ (atB bunch1).l1, b.core = hOne.g.core → b.ro = 0) ∧ (oneStore (store1 .gl 32764)).here? = some hOne
    ∧ (oneStore (store1 .gl 32764)).cur.exec.getLsbD (Fin.val (0 : Fin 32)) = true ∧ (onM bunch1).here? = some (hAt bunch1) ∧ (onM bunch1).OneBlock :=
  ⟨one_ready _ _, settled_of rfl rfl, noSi_of rfl _, by decide, fun _ h => absurd h List.not_mem_nil, rfl,
    by decide, rfl, blocks_once⟩
/-- One group alone has a number of its own. -/
theorem gids_of {s : State} {g : Group} (h : s.groups = [g]) : s.GidsDiffer := by simp [State.GidsDiffer, h]
theorem meets_BunchLoadsAndStores : (∃ f ∈ bunchLoads, f.2.1 = .gl ∧ f.2.2 = 4) ∧ (∃ f ∈ bunchStores, f.2.1 = .gl ∧ f.2.2 = 4)
    ∧ (sM 0 32764).here? = some (hM 0 32764) ∧ (sM 0 32764).GidsDiffer ∧ (lanesOf (sM 0 32764).cur.run).head? = some 0
    ∧ (sM 0 32764).EnginesIdle loadCore ∧ (sM 0 32764).Settled ∧ (sM 0 32764).OneBlock ∧ (sM 0 32764).NoSi loadCore
    ∧ Reaches (sM 0 32764) (hM 0 32764) 0 0 .gl (bunchAddress .gl (hM 0 32764).b 2 0) 4 4 .load (spotOf .gl 32764 ⟨32764, loadPte⟩ 0)
    ∧ Holds ((sM 0 32764).acquired none) (hM 0 32764) (spotOf .gl 32764 ⟨32764, loadPte⟩ 0) 4 [0, 0, 0, 0]
    ∧ Reaches (sM 0 32764) (hM 0 32764) 0 0 .gl (bunchAddress .gl (hM 0 32764).b 2 0) 4 4 .store (spotOf .gl 32764 ⟨32764, loadPte⟩ 0)
    ∧ Reaches (sM 65532 0) (hM 65532 0) 0 0 .sp (bunchAddress .sp (hM 65532 0).b 0 0) 4 4 .store (spotOf .sp 65532 ⟨0, 0⟩ 0) := by
  obtain ⟨h1, h2, h3, h4⟩ := quiet_M (regsM 0 32764) ⟨rfl, rfl⟩
  exact ⟨⟨_, List.mem_cons_self, rfl, rfl⟩, ⟨_, List.mem_cons_self, rfl, rfl⟩, rfl, gids_of rfl, by decide, h1, h2, h3, h4,
    ⟨by decide +kernel, _, mapped_of dirLeaf (by decide +kernel : mappedB _ _ _ _ _ ⟨32764, loadPte⟩ _ = true), by decide +kernel⟩,
    ⟨by decide, by decide, dirBlock, by decide +kernel, by decide, by decide +kernel, by decide +kernel, by decide +kernel⟩,
    ⟨by decide +kernel, _, mapped_of dirLeaf (by decide +kernel : mappedB _ _ _ _ _ ⟨32764, loadPte⟩ _ = true), by decide +kernel⟩,
    ⟨by decide +kernel, by decide +kernel, by decide +kernel, by decide +kernel⟩⟩
/-- A load and an atomic for a block that the slice holds, that it lacks, and that is locked. -/
def slice63 : SliceBlock := ⟨homeStack 32764, 63, 0, 0xFFFF, 0, [], []⟩
def sSlice (op : ReqOp) (held locked : Bool) : State :=
  { sReq (reqAt op 4 .sent (laneAt 32764 loadPte)) with
    slices := if held then [slice63] else [], locks := if locked then [⟨63, 0, 0, true⟩] else [] }
/-- A module with context 1 (address space 7, tables at 0x8000), the page 0x8000 of which leads to the SI page at 0x40000. -/
def walkMem : List Host.Cell :=
  put64 (put64 (put64 (put64 (put64 [] 16 (.ofNat 64 (7 * 2 ^ 52 + 0x8001))) 0x8000 0x10001) 0x10000 0x18001) 0x18000 0x20001) 0x20008 0x4017F
def sWalk : State :=
  { State.reset with mem := walkMem, ctxCache := [(1, 7, 0x8000)], event := { row := .pageWalk, a := 26, b := 1, c := 0x8000 } }
def sCsm (gid : Nat) : State :=
  { one with csmNet := [⟨loadCore, gid, [store1 .csm 65532], 0⟩], event := { row := .csmRemoteArrival, a := gid } }
/-- A lock that awaits one sector of a fill, with no request left for its block. -/
def sLock : State := { one with locks := [⟨63, 0x8000, 0, false⟩], event := { row := .lineLockClear, a := 63 } }
theorem meets_MemorySystemSteps :
    (∀ op held locked, let s := sSlice op held locked
      let r := reqAt op 4 .sent (laneAt 32764 loadPte)
      s.reqs.find? (fun x => x.id == 1) = some r ∧ s.event.ecc = .none ∧ (∀ x ∈ s.reqs, x.id = r.id ∨ (x.blk ≠ r.blk ∧ x.st ≠ .queued))
      ∧ (s.reqs.map fun x => x.id).Nodup ∧ ∀ m ∈ s.migrations, 512 * r.blk < m.old ∨ m.old + m.size ≤ 512 * r.blk)
    ∧ (∀ op, ∀ i < 16, (sSlice op true false).sliceHolds (16 * 63 + i) = true)
    ∧ (windowOf 32764 = .local_ ∧ Pte.coh loadPte = .dir ∧ (grainMask loadPte (32764 % 512) 4).getLsbD 15 = true
      ∧ (sSlice .load false false).sliceHolds (16 * 63 + 15) = false ∧ (sSlice .load false false).Unlocked 63
      ∧ ∃ k ∈ (sSlice .load false true).locks, k.blk = 63)
    ∧ (sLock.locks.find? (fun k => k.blk == sLock.event.a) = some ⟨63, 0x8000, 0, false⟩ ∧ (∀ r ∈ sLock.reqs, r.blk ≠ sLock.event.a)
      ∧ windowOf (512 * 63) = .local_ ∧ (0x8000 : BitVec 16).getLsbD 15 = true)
    ∧ (onM bunch1).OneBlock ∧ (onM bunch1).event.ecc = .none
    ∧ (sWalk.event.c < 2 ^ 57 ∧ (∃ e ∈ sWalk.ctxCache, e.1 = sWalk.event.b) ∧ sWalk.tlbFind (clusterOf 26) (sWalk.asidOf 1) 0x8000 = none
      ∧ sWalk.tlb.countP (fun e => e.cluster == clusterOf 26) < Config.tlbEntries
      ∧ sWalk.walkFrom 0x8000 3 (sWalk.ctxOf 1).2 = .ok ⟨0x4017F, 0x8000, 32768⟩)
    ∧ ((sCsm 0).csmNet = ⟨loadCore, 0, [store1 .csm 65532], 0⟩ :: [] ∧ (∀ g ∈ (sCsm 0).groups, g.left = false)
      ∧ (∀ g, (sCsm 0).group? 0 = some g → g.spPoison = []) ∧ (sCsm 5).group? 5 = none) := by
  refine ⟨fun op held locked => ⟨rfl, rfl, fun x hx => .inl (List.mem_singleton.1 hx ▸ rfl), (by decide : ([1] : List Nat).Nodup),
      fun _ h => absurd h List.not_mem_nil⟩,
    fun op => (by decide +kernel : ∀ i < 16, (sSlice .load true false).sliceHolds (16 * 63 + i) = true),
    ⟨by decide, by decide, by decide +kernel, by decide +kernel, unlocked_of rfl _, _, List.mem_singleton_self _, rfl⟩,
    ⟨rfl, fun _ h => absurd h List.not_mem_nil, by decide, by decide⟩, blocks_once, rfl,
    ⟨by decide, by decide +kernel, by decide +kernel, by decide +kernel, by decide +kernel⟩, rfl, by decide +kernel, ?_, by decide +kernel⟩
  intro g hg
  have : g = group1 := (Option.some.inj hg).symm
  exact this ▸ rfl

/-! ### Barriers, the tree, SYNC, WATCH and DOZE -/

/-- Barriers b0 to b7 of the group have the count 1: the one thread's arrival completes them. -/
theorem meets_BarrierResults : one.LaneReady hOne (opsD [63]) noReads ∧ one.GidsDiffer ∧ one.Settled ∧ one.cur.exec ≠ (0 : Lanes)
    ∧ hOne.g.halted = none ∧ untraced hOne ∧ hOne.g.bars[7]? = some ⟨1, 0, false, 0⟩ ∧ 0 + arrivals one ≤ 1
    ∧ one.LaneReady hOne { reads := srcReads (vr 1) 1, dests := [] } noReads ∧ (lanesOf one.cur.exec).head? = some 0
    ∧ 1 ≤ (srcWord (vr 1) hOne.b 0).toNat ∧ (srcWord (vr 1) hOne.b 0).toNat ≤ hOne.l.hdr.t :=
  ⟨one_ready _ _, gids_of rfl, settled_of rfl rfl, by decide, rfl, (by decide : (0 : Word).getLsbD 31 = false), by decide +kernel, by decide,
    one_ready _ _, by decide, by decide +kernel, by decide +kernel⟩
/-- Tag 0 of the launch, whose one thread fills the core's count; with a count of 2 it does not. -/
def launchTree (n : Nat) : Launch := { launch1 with tree := [⟨loadCore, 0, n, 0, false, false, 0⟩] }
def sTree (n : Nat) : State := put group1 bunch1 (launchTree n)
def hTree (n : Nat) : Here := ⟨group1, bunch1, launchTree n⟩
def due0 : TreeDue := ⟨1, 0, instanceOf 1 loadCore, 12⟩
def sDue : State := { sTree 1 with treeDue := [due0], clock := 12, event := { row := .treeRelease, a := 1, b := 0, c := instanceOf 1 loadCore } }
theorem meets_TreeResults :
    (∀ n, (sTree n).LaneReady (hTree n) (opsD [63]) noReads ∧ (sTree n).Settled ∧ (sTree n).NoSi loadCore ∧ launchesDiffer (sTree n)
      ∧ (sTree n).cur.exec ≠ (0 : Lanes) ∧ (hTree n).g.halted = none ∧ untraced (hTree n)
      ∧ TagHere (hTree n) 0 ⟨loadCore, 0, n, 0, false, false, 0⟩ ∧ LastToSend (hTree n) 0 ∧ (∀ y ∈ (sTree n).treeDue, y.launch ≠ (hTree n).l.id))
    ∧ (0 + arrivals (sTree 1) = 1 ∧ 0 + arrivals (sTree 2) < 2)
    ∧ ((sTree 1).LaneReady (hTree 1) { reads := srcReads (vr 63) 1, dests := [] } noReads
      ∧ ∀ l : Fin 32, (sTree 1).cur.exec.getLsbD l.val = true → (hTree 1).b.threads[l].armedTag ≠ some 0)
    ∧ sDue.treeDue = due0 :: [] ∧ due0.due ≤ sDue.clock ∧ sDue.launch? 1 = some (launchTree 1) ∧ sDue.saved = []
    ∧ ∀ g ∈ sDue.groups, g.launch = (launchTree 1).id → g.dbg.getLsbD 31 = false := by
  refine ⟨fun n => ⟨bunch1_ready _ (hTree n) rfl rfl _ _, ⟨rfl, fun _ h => absurd h List.not_mem_nil⟩, fun _ h => absurd h List.not_mem_nil,
      (by decide : ([1] : List Nat).Nodup), (by decide : (1 : Lanes) ≠ 0), rfl, (by decide : (0 : Word).getLsbD 31 = false),
      ⟨(by decide : launch1.hdr.span 0 ≠ 0), rfl⟩, ?_, fun _ h => absurd h List.not_mem_nil⟩, by decide, ⟨bunch1_ready _ (hTree 1) rfl rfl _ _,
      lane0 (by decide +kernel)⟩, rfl, by decide, rfl, rfl, by decide +kernel⟩
  intro y hy _ _
  exact .inl (List.mem_singleton.1 hy ▸ rfl)
/-- v1 names lane 0 alone, v0 leaves it out, v3 names lane 1 too, which the bunch does not have. -/
theorem meets_SyncResults : (∀ a, one.LaneReady hOne { reads := srcReads a 1, dests := [] } noReads) ∧ one.Settled
    ∧ (∀ l : Fin 32, one.cur.exec.getLsbD l.val = true → srcWord (vr 3) hOne.b l = 3 ∧ (3 : Word).getLsbD l.val = true)
    ∧ (true = true ↔ ∀ k : Fin 32, (3 : Word).getLsbD k.val = true → hOne.b.threads[k].present = true → hOne.b.threads[k].st ≠ .exited →
      one.cur.exec.getLsbD k.val = true)
    ∧ one.cur.run = one.cur.exec ∧ one.cur.exec.getLsbD (Fin.val (0 : Fin 32)) = true
    ∧ (srcWord (vr 0) hOne.b 0).getLsbD (Fin.val (0 : Fin 32)) = false :=
  ⟨fun a => one_ready { reads := srcReads a 1, dests := [] } noReads (Nat.zero_le _), ⟨rfl, fun _ h => absurd h List.not_mem_nil⟩,
    lane0 (by decide +kernel), by decide +kernel, rfl, by decide, by decide +kernel⟩
theorem meets_WatchAndDozeResults :
    (sM 0 32764).LaneReady (hM 0 32764) { reads := srcReads (vr 2) 2, dests := [] } noReads
    ∧ Reaches (sM 0 32764) (hM 0 32764) 0 0 .gl (addressOf .gl (vr 2) 0 (hM 0 32764).b 0) 4 4 .load (spotOf .gl 32764 ⟨32764, loadPte⟩ 0)
    ∧ (Pte.coh loadPte ≠ .uc ∧ ∃ b, (sM 0 32764).block? loadCore 1 32764 = some b ∧ b.pb = 32764 / 512 ∧ b.hit (32764 % 512) 4 = true)
    ∧ (sUc 32764).LaneReady (hM 0 32764) { reads := srcReads (vr 2) 2, dests := [] } noReads
    ∧ Reaches (sUc 32764) (hM 0 32764) 0 0 .gl (addressOf .gl (vr 2) 0 (hM 0 32764).b 0) 4 4 .load (spotOf .gl 32764 ⟨32764, ucPte⟩ 0)
    ∧ Pte.coh ucPte = .uc ∧ one.LaneReady hOne (opsD [63]) noReads :=
  ⟨ready_M _ _ _ rfl _ _,
    ⟨by decide +kernel, _, mapped_of dirLeaf (by decide +kernel : mappedB _ _ _ _ _ ⟨32764, loadPte⟩ _ = true), by decide +kernel⟩,
    ⟨by decide, dirBlock, by decide +kernel, by decide, by decide⟩, ready_M _ _ _ rfl _ _,
    ⟨by decide +kernel, _, mapped_of ucLeaf (by decide +kernel : mappedB _ _ _ _ _ ⟨32764, ucPte⟩ _ = true), by decide +kernel⟩, by decide,
    one_ready _ _⟩
/-- A thread that dozes until cycle 9 with an event pending: at cycle 9 it has expired, and it has been woken. -/
def bunchDoze : Bunch := bunch1.modThread 0 fun t => { t with st := .dozing 9 63 0x100 0, pend := 4 }
def sDoze : State := { atB bunchDoze with clock := 9, event := { row := .dozeExpiry } }
theorem doze_states : ∀ l : Fin 32, bunchDoze.threads[l].st = if l = 0 then .dozing 9 63 0x100 0 else .running := by decide +kernel
theorem doze_pend : ∀ l : Fin 32, bunchDoze.threads[l].pend = if l = 0 then 4 else 0 := by decide +kernel
theorem doze_held : ∀ r : Reg, bunchDoze.regs[r].rep ≠ .spilled := by decide +kernel
theorem bit0 : ∀ l : Fin 32, (1 : Lanes).getLsbD l.val = true ↔ l = 0 := by decide
theorem meets_DozesEnd : sDoze.hereOf 0 0 = some (hAt bunchDoze) ∧ sDoze.GidsDiffer ∧ (hAt bunchDoze).g.halted = none ∧ (1 : Lanes) ≠ 0
    ∧ sDoze.RoomAt (hAt bunchDoze) 0 [63] ∧ (∀ f ∈ bunchDoze.flights, f.id = 0 → f.owes = []) ∧ bunchDoze.away = 0
    ∧ (∀ l : Fin 32, (1 : Lanes).getLsbD l.val = true ↔ ∃ n r a i, bunchDoze.threads[l].st = .dozing n r a i ∧ n ≤ sDoze.clock)
    ∧ (∀ l : Fin 32, (1 : Lanes).getLsbD l.val = true → bunchDoze.threads[l].st = .dozing 9 63 0x100 0)
    ∧ ∀ l : Fin 32, (1 : Lanes).getLsbD l.val = true ↔ (∃ n r a i, bunchDoze.threads[l].st = .dozing n r a i) ∧ bunchDoze.threads[l].pend ≠ 0 := by
  refine ⟨rfl, gids_of rfl, rfl, by decide, ⟨fun d _ => inCore_of rfl (doze_held d), by decide +kernel⟩,
    fun f hf => absurd hf List.not_mem_nil, rfl, fun l => ?_, fun l hl => ?_, fun l => ?_⟩
  · rw [bit0, doze_states]
    by_cases h : l = 0
    · simp [h, show sDoze.clock = 9 from rfl]
    · simp [h]
  · rw [doze_states, if_pos ((bit0 l).1 hl)]
  · rw [bit0, doze_states, doze_pend]
    by_cases h : l = 0
    · simp [h]
    · simp [h]

/-! ### Announcements -/

/-- The anchor at 0x2000, the record at 0x2800, the word an add-and-fetch names at 0x2C00, on the DIR page at 0. -/
def bunchA : Bunch := bunchOf (these [(8, 0x2000), (10, 0x2800)]) (fun _ => 0)
def sAnn (next serving : Nat) : State := { atB bunchA with mem := put32 (put32 [] 0x2000 (word next)) 0x2004 (word serving) }
theorem ready_A (m : List Host.Cell) (o : Operands) (hd : o.dests.length ≤ 24 := by decide) :
    ({ atB bunchA with mem := m } : State).LaneReady (hAt bunchA) o noReads :=
  bunchOf_ready (these [(8, 0x2000), (10, 0x2800)]) { atB bunchA with mem := m } (hAt bunchA) rfl rfl rfl o noReads hd
/-- No command stands in the engines of a lone group's bunch. -/
theorem idle_of {s : State} {g : Group} {b : Bunch} {core : Nat} (hg : s.groups = [{ g with bunches := [b] }]) (hb : b.mx.cmds = [] ∧ b.cp.cmds = []) :
    s.EnginesIdle core := by
  intro g' hg' _ x hx
  rw [hg] at hg'
  rw [List.mem_singleton.1 hg'] at hx
  exact List.mem_singleton.1 hx ▸ hb
theorem quiet_A (m : List Host.Cell) : HelpQuiet { atB bunchA with mem := m } loadCore :=
  ⟨settled_of rfl rfl, noSi_of rfl _, rfl, idle_of rfl ⟨rfl, rfl⟩, nullKeyed_of rfl rfl, rfl⟩
theorem place_A (m : List Host.Cell) (a : DWord) (k : Nat) (n : Need) (h0 : a.toNat % k = 0) (h1 : a.toNat < 32768) (h2 : permOk loadPte n = true) :
    HelpPlace { atB bunchA with mem := m } (hAt bunchA) a k n ⟨a.toNat, loadPte⟩ := by
  have hf : ({ atB bunchA with mem := m } : State).tlbFind (clusterOf loadCore) 1 a.toNat = some dirLeaf := by
    have : (clusterOf loadCore == clusterOf loadCore && (1 : Nat) == 1 && decide (0 ≤ a.toNat) && decide (a.toNat < 0 + 32768)) = true := by
      simp [h1]
    simp only [State.tlbFind, atB, put, one, List.find?_cons, this]
    rfl
  have hw : windowOf a.toNat = .local_ := by
    have : a.toNat / 2 ^ 44 = 0 := by omega
    unfold windowOf
    simp only [this, if_true]
  refine ⟨h0, ⟨by omega, ⟨(1, 1, 0), List.mem_singleton_self _, rfl⟩, dirLeaf, hf, ?_, h2, rfl, ?_⟩, (by decide : Pte.coh loadPte = .dir), hw, by show a.toNat < 2 ^ 43; omega,
    by simp [State.keyOf, atB, put, one, State.reset], h0, notInL1_of rfl _, unlocked_of rfl _, fun _ h => absurd h List.not_mem_nil⟩
  · simp [dirLeaf, show Pte.pa loadPte = 0 by decide]
  · simp [State.linkDown, hw]
theorem meets_Announcing : (∃ f, f ∈ announcements)
    ∧ (∀ n k, (sAnn n k).LaneReady (hAt bunchA) (pairOps 63 (vr 8) (vr 10)) noReads ∧ (sAnn n k).cur.exec = laneBit 0 ∧ HelpQuiet (sAnn n k) loadCore
      ∧ HelpPlace (sAnn n k) (hAt bunchA) (srcPair (vr 8) bunchA 0) 128 .atomic ⟨0x2000, loadPte⟩
      ∧ HelpPlace (sAnn n k) (hAt bunchA) (srcPair (vr 10) bunchA 0) 64 .atomic ⟨0x2800, loadPte⟩) ∧ Apart 0x2000 128 0x2800 64
    ∧ (wordAt (sAnn 12 5).mem 0x2000 - wordAt (sAnn 12 5).mem 0x2004).toNat < 8
    ∧ 8 ≤ (wordAt (sAnn 13 5).mem 0x2000 - wordAt (sAnn 13 5).mem 0x2004).toNat :=
  ⟨⟨_, List.mem_cons_self⟩, fun _ _ => ⟨ready_A _ _, (by decide : (1 : Lanes) = laneBit 0), quiet_A _,
    place_A _ (srcPair (vr 8) bunchA 0) 128 .atomic (by decide +kernel) (by decide +kernel) (by decide),
    place_A _ (srcPair (vr 10) bunchA 0) 64 .atomic (by decide +kernel) (by decide +kernel) (by decide)⟩, by unfold Apart; decide, by decide +kernel, by decide +kernel⟩
/-- Ticket 5 is due: an add-and-fetch at 0x2C00, whose word bears ticket 4's tag. -/
def helpMem : List Host.Cell :=
  put32 (put64 (put32 (put32 (put32 (put32 (put64 (put32 (put32 [] 0x2000 6) 0x2004 5) 0x2038 0x2800) 0x2800 1) 0x2804 5) 0x2808 4) 0x280C 1)
    0x2810 0x2C00) 0x2C0C 4
theorem meets_HelpingResults :
    ((sAnn 5 5).LaneReady (hAt bunchA) { reads := srcReads (vr 8) 2, dests := [63] } noReads ∧ HelpQuiet (sAnn 5 5) loadCore
      ∧ HelpPlace (sAnn 5 5) (hAt bunchA) (srcPair (vr 8) bunchA 0) 128 .atomic ⟨0x2000, loadPte⟩
      ∧ wordAt (sAnn 5 5).mem 0x2000 = wordAt (sAnn 5 5).mem (0x2000 + 4))
    ∧ (let s : State := { atB bunchA with mem := helpMem }
      s.LaneReady (hAt bunchA) { reads := srcReads (vr 8) 2, dests := [63] } noReads ∧ s.cur.exec = laneBit 0 ∧ HelpQuiet s loadCore
      ∧ HelpPlace s (hAt bunchA) (srcPair (vr 8) bunchA 0) 128 .atomic ⟨0x2000, loadPte⟩
      ∧ HelpPlace s (hAt bunchA) 0x2800 64 .atomic ⟨0x2800, loadPte⟩ ∧ HelpPlace s (hAt bunchA) 0x2C00 16 .atomic ⟨0x2C00, loadPte⟩)
    ∧ (wordAt helpMem 0x2004 = 5 ∧ dwordAt helpMem (0x2000 + 16 + 8 * 5) = 0x2800 ∧ wordAt helpMem 0x2000 ≠ 5 ∧ wordAt helpMem 0x2800 = 1
      ∧ wordAt helpMem 0x2804 = 5 ∧ wordAt helpMem 0x2808 = 4 ∧ wordAt helpMem 0x280C = 1 ∧ dwordAt helpMem (0x2800 + 16) = 0x2C00
      ∧ 2 ^ 31 ≤ (wordAt helpMem (0x2C00 + 12) - 5).toNat)
    ∧ (Apart 0x2000 128 0x2800 64 ∧ Apart 0x2000 128 0x2C00 16 ∧ Apart 0x2800 64 0x2C00 16)
    ∧ HelpPlace (sAnn 5 5) (hAt bunchA) (srcPair (vr 10) bunchA 0) 64 .load ⟨0x2800, loadPte⟩ := by
  have hA := fun m => place_A m (srcPair (vr 8) bunchA 0) 128 .atomic (by decide +kernel) (by decide +kernel) (by decide)
  exact ⟨⟨ready_A _ _, quiet_A _, hA _, by decide +kernel⟩, ⟨ready_A _ _, by decide, quiet_A _, hA _,
    place_A _ 0x2800 64 .atomic (by decide) (by decide) (by decide), place_A _ 0x2C00 16 .atomic (by decide) (by decide) (by decide)⟩, by decide +kernel,
    by unfold Apart; decide, place_A _ (srcPair (vr 10) bunchA 0) 64 .load (by decide +kernel) (by decide +kernel) (by decide)⟩

/-! ### Engines -/

/-- Tiles at 0x100 and 0x1000 in s20 and s22, of tensor entries 1 and 2; the table at 0x6000 of the uncached page: the entries have
scale data at 0x3000 and 0x5000. Row index v5 is 5. -/
def bunchX : Bunch := bunchOf (these [(5, 5)]) (these [(20, 0x100), (21, 0x10040), (22, 0x1000), (23, 0x20080)])
def tensorMem : List Host.Cell :=
  [1, 2].foldl (fun m k => put32 (put32 (put32 (put32 m (0x6000 + 16 * k) 6) (0x6004 + 16 * k) 0x3000) (0x6008 + 16 * k) 0x40) (0x600C + 16 * k) 0x5000) []
def launchX : Launch := { launch1 with hdr := { launch1.hdr with ttbase := 0x6000, ttcount := 3 } }
def sX : State := { put group1 bunchX launchX with tlb := ucTlb, mem := tensorMem }
def hX : Here := ⟨{ group1 with bunches := [bunchX] }, bunchX, launchX⟩
theorem ready_X (o : Operands) (hd : o.dests.length ≤ 24 := by decide) : sX.LaneReady hX o noReads :=
  bunchOf_ready (these [(5, 5)]) sX hX rfl rfl rfl o noReads hd
def entryX : TEntry := ⟨.iee, true, 0x3000, 0x40, 0x5000⟩
theorem free_X {rs : List Region} (n : Nat) : sX.engineHolds hX.g.core n rs = false := by
  simp [State.engineHolds, show sX.groups = [{ group1 with bunches := [bunchX] }] from rfl, show bunchX.mx.cmds = [] from rfl,
    show bunchX.cp.cmds = [] from rfl]
theorem entry_X (k : Nat) (hk : k = 1 ∨ k = 2) : EntryIn sX hX k entryX := by
  rcases hk with rfl | rfl
  · exact ⟨by decide, ⟨0x6010, ucPte⟩, mapped_of ucLeaf (by decide +kernel), by decide, notInL1_of rfl _, nullKeyed_of rfl rfl, one_null _,
      clean_of rfl (one_null _) rfl (by decide), free_X, by decide +kernel⟩
  · exact ⟨by decide, ⟨0x6020, ucPte⟩, mapped_of ucLeaf (by decide +kernel), by decide, notInL1_of rfl _, nullKeyed_of rfl rfl, one_null _,
      clean_of rfl (one_null _) rfl (by decide), free_X, by decide +kernel⟩
def mmaX : MmaOp := { f := 6, lenM1 := 1, vi := vr 5, sb := 22, sa := 20, dep := 1, ka := 2, t := false }
def scaccX : ScaccOp := { f := 0, lenM1 := 1, vi := some (vr 5), sd := 20, sf := 6, j := 7, clr := true }
def accaddX (k : ASpace) : AccaddOp := { f := 5, lenM1 := 2, sp := k, a := ⟨if k = .gl then 2 else 0, false, .self⟩, o := 0 }
/-- Spans that end at the last of eight accumulators; ACCADD at the last 192 bytes of the scratchpad and of the page. -/
theorem meets_MatrixAppends :
    ((∃ f ∈ matrixForms, f.2.2.1 = 16) ∧ sX.LaneReady hX { reads := srcReads mmaX.vi 1, dests := [] } noReads ∧ sX.cur.exec ≠ (0 : Lanes)
      ∧ sX.Settled ∧ sX.GidsDiffer ∧ matrixCore hX ∧ (∀ c ∈ hX.b.mx.cmds, c.id < sX.fresh) ∧ mmaX.f.val + (mmaX.lenM1.val + 1) ≤ hX.l.hdr.accum
      ∧ TileIn hX.b mmaX.sa ⟨0x100, 0x40, 1⟩ ∧ TileIn hX.b mmaX.sb ⟨0x1000, 0x80, 2⟩ ∧ endB 16 2 16 mmaX.t ⟨0x1000, 0x80, 2⟩ ≤ hX.l.hdr.scratch
      ∧ EntryIn sX hX 1 entryX ∧ EntryIn sX hX 2 entryX
      ∧ ∀ l : Fin 32, sX.cur.exec.getLsbD l.val = true → endA 16 16 16 (srcWord mmaX.vi hX.b l).toNat ⟨0x100, 0x40, 1⟩ ≤ hX.l.hdr.scratch)
    ∧ (scaccX.f.val + 2 ≤ hX.l.hdr.accum ∧ scaccX.sf.val + 2 ≤ hX.l.hdr.accum ∧ hX.b.sregs[scaccX.sd].toNat < 2 ^ 20
      ∧ hX.b.sregs[regNext scaccX.sd 1].toNat < 2 ^ 28 ∧ hX.b.sregs[regNext scaccX.sd 1].toNat / 2 ^ 16 % 2 ^ 12 = 1 ∧ entryX.blk = true
      ∧ scaleFits hX entryX scaccX.j.val (srcWord (vr 5) hX.b 0).toNat ∧ ∀ k < 16 * 2, scaleFits hX entryX scaccX.j.val k)
    ∧ ((∀ k o, o.dests.length ≤ 24 → (sM 65344 k).LaneReady (hM 65344 k) o noReads) ∧ (accaddX .sp).f.val + 3 ≤ (hM 65344 0).l.hdr.accum
      ∧ Reaches (sM 65344 0) (hM 65344 0) 0 0 .sp (addressOf .sp (accaddX .sp).a 0 (hM 65344 0).b 0) (64 * 3) 64 .atomic (spotOf .sp 65344 ⟨0, 0⟩ 0)
      ∧ Reaches (sM 65344 32576) (hM 65344 32576) 0 0 .gl (addressOf .gl (accaddX .gl).a 0 (hM 65344 32576).b 0) (64 * 3) 64 .atomic
          (spotOf .gl 32576 ⟨32576, loadPte⟩ 0)
      ∧ ∀ (j : Nat) (y : Nat × Pte), [(32576, loadPte), (32640, loadPte), (32704, loadPte)][j]? = some y →
          (sM 65344 32576).Mapped loadCore 1 (32576 + 64 * j) .atomic ⟨y.1, y.2⟩ ∧ windowOf y.1 = .local_) := by
  refine ⟨⟨⟨_, List.mem_cons_self, rfl⟩, ready_X _, by decide, settled_of rfl rfl, gids_of rfl, by unfold matrixCore; decide +kernel,
    fun _ h => absurd h List.not_mem_nil, by decide, by unfold TileIn; decide +kernel, by unfold TileIn; decide +kernel, by decide,
    entry_X 1 (.inl rfl), entry_X 2 (.inr rfl), lane0 (by decide +kernel)⟩, by unfold scaleFits; decide +kernel,
    fun k o hd => ready_M 65344 k _ rfl o noReads hd, by decide, ⟨by decide +kernel, by decide +kernel, by decide +kernel, by decide +kernel⟩,
    ⟨by decide +kernel, _, mapped_of dirLeaf (by decide +kernel : mappedB _ _ _ _ _ ⟨32576, loadPte⟩ _ = true), by decide +kernel⟩, ?_⟩
  intro j y hy
  match j, hy with
  | 0, rfl => exact ⟨mapped_of dirLeaf (by decide +kernel), by decide⟩
  | 1, rfl => exact ⟨mapped_of dirLeaf (by decide +kernel), by decide⟩
  | 2, rfl => exact ⟨mapped_of dirLeaf (by decide +kernel), by decide⟩
def accX (k : ASpace) : AccOp := { acc := 7, sp := k, a := vr 0, o := 0, q := none }
theorem meets_AccumulatorForms : (∀ o, o.dests.length ≤ 24 → (sM 65472 0).LaneReady (hM 65472 0) o noReads) ∧ (sM 65472 0).EnginesIdle loadCore
    ∧ (sM 65472 0).Settled ∧ (sM 65472 0).NoSi loadCore ∧ (sM 65472 0).OneBlock ∧ (accX .sp).acc.val < (hM 65472 0).l.hdr.accum
    ∧ (hM 65472 0).b.threads[(0 : Fin 32)].acc[(accX .sp).acc].poison = 0
    ∧ Reaches (sM 65472 0) (hM 65472 0) 0 0 .sp (addressOf .sp (accX .sp).a 0 (hM 65472 0).b 0) 64 64 .store (spotOf .sp 65472 ⟨0, 0⟩ 0)
    ∧ Reaches (sM 65472 0) (hM 65472 0) 0 0 .sp (addressOf .sp (accX .sp).a 0 (hM 65472 0).b 0) 64 64 .load (spotOf .sp 65472 ⟨0, 0⟩ 0)
    ∧ Holds (sM 65472 0) (hM 65472 0) (spotOf .sp 65472 ⟨0, 0⟩ 0) 64 (List.replicate 64 0) := by
  obtain ⟨h1, h2, h3, h4⟩ := quiet_M (regsM 65472 0) ⟨rfl, rfl⟩
  exact ⟨fun o hd => ready_M _ _ _ rfl o noReads hd, h1, h2, h4, h3, by decide, by decide +kernel,
    ⟨by decide +kernel, by decide +kernel, by decide +kernel, by decide +kernel⟩, ⟨by decide +kernel, by decide +kernel, by decide +kernel, by decide +kernel⟩,
    by decide +kernel, by decide +kernel⟩
/-- A card of three rows of sixteen bytes in s24 to s31; a card of tiles; the second engine has a command of its open batch. -/
def cmd1 (op : CmdOp) (lanes : Lanes) (done : Bool) : Cmd :=
  { id := 1, op := op, lanes := lanes, idx := Vector.replicate 32 0, addr := Vector.replicate 32 0x80, pa := Vector.replicate 32 [],
    target := Vector.replicate 32 0, rm := Vector.replicate 32 .rne, pc := 0x100, batch := 0, sync := false, done := done }
def bunchC : Bunch := bunchOf (fun _ => 0) (these [(24, 0), (26, 0x200), (28, 16), (29, 3), (30, 32), (31, 64)])
def jobC : CopyJob := ⟨.sp, .sp, 0, 0x200, 16, 3, 32, 64, [], [], 0, 0⟩
def bunchE : Bunch := { bunch1 with cp := ⟨[cmd1 (.copy jobC) 1 false], 0, 0, none⟩ }
def bunchU : Bunch := bunchOf (fun _ => 0) (these [(24, 0x4000), (26, 0x8000), (28, 5), (29, 32), (30, 48), (31, 100)])
def sub1 (k : Nat) : Sub := ⟨k, 0, 0, k, 0x400, 3, 0x2000, 0, 1, 16, 32, 9, 8, false, [8]⟩
def fourSubs : State := { atB bunchU with subs := [sub1 0, sub1 1, sub1 2, sub1 3] }
theorem meets_EngineInstructions :
    ((atB bunchC).here? = some (hAt bunchC) ∧ CardAt bunchC 24 .sp .sp ⟨0, 0x200, 16, 3, 32, 64⟩
      ∧ (atB bunchC).copyJob (hAt bunchC) ⟨0, 0x200, 16, 3, 32, 64⟩ .sp .sp = (atB bunchC, .ok jobC) ∧ bunchC.cp.cmds.length < Config.chainPlaces)
    ∧ ((atB bunchE).here? = some (hAt bunchE) ∧ NoneWaits (atB bunchE) loadCore ∧ (∃ x ∈ (chainOf bunchE .cp).cmds, x.batch = (chainOf bunchE .cp).seq)
      ∧ (chainOf bunchE .mx).cmds = [] ∧ (chainOf bunchE .mx).seq = (chainOf bunchE .mx).commits)
    ∧ (((.ofNat 32 (chainOf bunchE .mx).seq : Word) - 0).toNat < 2 ^ 31 ∧ ((0 : Word) - .ofNat 32 (chainOf bunchE .mx).commits).toNat = 0
      ∧ 1 ≤ ((1 : Word) - .ofNat 32 (chainOf bunchE .mx).commits).toNat
      ∧ ((0x7FFFFFFF : Word) - .ofNat 32 (chainOf bunchE .mx).commits).toNat < 2 ^ 31)
    ∧ ((atB bunchU).here? = some (hAt bunchU) ∧ (atB bunchU).GidsDiffer ∧ (atB bunchU).Settled ∧ (atB bunchU).NoSi loadCore
      ∧ SubAt bunchU 24 0x4000 0x8000 5 32 48 100
      ∧ (0x800 : BitVec 20).toNat + 256 + ((3 : Fin 64).val + 1) * ((5 * 32 + 63) / 64 * 64) ≤ (hAt bunchU).l.hdr.scratch
      ∧ (∀ u ∈ (atB bunchU).subs, u.gid ≠ 0 ∨ u.bunch ≠ 0))
    ∧ fourSubs.here? = some (hAt bunchU) ∧ ∀ k < 4, ∃ u ∈ fourSubs.subs, u.gid = 0 ∧ u.bunch = 0 ∧ u.handle = k := by
  refine ⟨⟨rfl, by unfold CardAt; decide +kernel, by decide +kernel, by decide⟩,
    ⟨rfl, by unfold NoneWaits; decide +kernel, by decide +kernel, rfl, rfl⟩, by decide,
    ⟨rfl, gids_of rfl, settled_of rfl rfl, fun _ h => absurd h List.not_mem_nil, by unfold SubAt; decide +kernel, by decide,
      fun _ h => absurd h List.not_mem_nil⟩, rfl, by decide +kernel⟩
/-- The one command of each engine, to be performed, and performed. -/
def withCmd (e : Eng) (c : Cmd) : Bunch := withChain bunch1 e ⟨[c], 0, 1, none⟩
def groupC (e : Eng) (c : Cmd) : Group := { group1 with bunches := [withCmd e c] }
def sCmd (e : Eng) (c : Cmd) : State := { one with groups := [groupC e c], event := { row := .mmaExecute, a := 1 } }
theorem one_command (e : Eng) (c : Cmd) (hc : c.id = 1) : OneCommand (sCmd e c) ⟨groupC e c, 0, e, c⟩ (withCmd e c) := by
  refine ⟨rfl, rfl, ?_, by cases e <;> exact ⟨rfl, rfl⟩, hc, rfl⟩
  intro i y hy hi
  match i, hy with
  | 0, _ => exact absurd rfl hi
theorem meets_EngineSteps : (∀ e c, c.id = 1 → OneCommand (sCmd e c) ⟨groupC e c, 0, e, c⟩ (withCmd e c))
    ∧ (∀ e c, (sCmd e c).Settled ∧ (sCmd e c).NoSi loadCore ∧ (groupC e c).spPoison = [] ∧ (groupC e c).left = false)
    ∧ (7 + 1 ≤ 8 ∧ 0 + 4 ≤ 4) ∧ (∀ op, ∀ l : Fin 32, ∀ k : Fin 8, (withCmd .mx (cmd1 op 1 false)).threads[l].acc[k].poison = 0)
    ∧ ((cmd1 (.accadd 7 1 .sp) 1 false).lanes = laneBit 0 ∧ (cmd1 (.accadd 7 1 .sp) 1 false).addr[(0 : Fin 32)] < 2 ^ 20)
    ∧ (jobC.sgid = 0 ∧ jobC.dgid = 0 ∧ Memory.wf group1.sp = true ∧ jobC.len % 4 = 0
      ∧ (∀ r < jobC.rows, jobC.sa + r * jobC.spitch + jobC.len ≤ 2 ^ 20 ∧ jobC.da + r * jobC.dpitch + jobC.len ≤ 2 ^ 20) ∧ jobC.len ≤ jobC.dpitch
      ∧ (jobC.sa % 4 = 0 ∧ jobC.da % 4 = 0 ∧ jobC.spitch % 4 = 0 ∧ jobC.dpitch % 4 = 0)
      ∧ ∀ r < jobC.rows, ∀ q < jobC.rows, Apart (jobC.sa + r * jobC.spitch) jobC.len (jobC.da + q * jobC.dpitch) jobC.len)
    ∧ NoneWaits (sCmd .cp (cmd1 (.copy jobC) 1 true)) loadCore
    ∧ (cmd1 (.copy jobC) 1 true).batch = (chainOf (withCmd .cp (cmd1 (.copy jobC) 1 true)) .cp).seq := by
  refine ⟨one_command, fun e c => ⟨settled_of rfl rfl, fun _ h => absurd h List.not_mem_nil, rfl, rfl⟩, by decide,
    fun op => (by decide +kernel : ∀ l : Fin 32, ∀ k : Fin 8, bunch1.threads[l].acc[k].poison = 0), by decide +kernel, ?_, ?_, rfl⟩
  · unfold Apart; decide +kernel
  · unfold NoneWaits; decide +kernel
/-- A ring of three slots at 0x400, the card's last tile, tile 8, due in slot 2 and handed back from it. -/
def groupS (st : Nat) : Group := { group1 with sp := put32 [] (0x400 + 4 * 2) (slotState st 8) }
def subF : Sub := { sub1 7 with full := [] }
def sSub (u : Sub) (st : Nat) : State := { one with groups := [groupS st], subs := [u], event := { row := .pickerFill, a := 7 } }
theorem meets_PickerSteps : (OneSub (sSub subF 0) subF (groupS 0) ∧ subF.next < subF.n ∧ stateAt (groupS 0) subF subF.next = 0
      ∧ (sSub subF 0).Mapped loadCore ((sSub subF 0).ctxOfGroup (groupS 0)) (subF.taddr + subF.next * subF.pitch) .load ⟨0x2100, loadPte⟩
      ∧ windowOf 0x2100 = .local_ ∧ (sSub subF 0).Clean (Pte.key loadPte) 0x2100 16 ∧ (sSub subF 0).poison = [])
    ∧ OneSub (sSub (sub1 7) 2) (sub1 7) (groupS 2) ∧ (sub1 7).full = 8 :: [] ∧ (sub1 7).paddr = 0 ∧ stateAt (groupS 2) (sub1 7) 8 = 2 := by
  refine ⟨⟨⟨rfl, rfl, rfl, rfl, rfl, rfl⟩, by decide, by decide +kernel, mapped_of dirLeaf (by decide +kernel), by decide,
      clean_of rfl (one_null _) rfl (by decide), rfl⟩,
    ⟨rfl, rfl, rfl, rfl, rfl, rfl⟩, rfl, rfl, by decide +kernel⟩

/-! ### Easels -/

/-- Context 1 of address space 7: its page 0 at 0x30000 (DIR), page 0x8000 at 0x40000 (SI), page 0x10000 at 0x48000 (uncached,
settled). Tables of the easels by 0x100000. -/
def easelMem : List Host.Cell :=
  put64 (put64 (put64 (put64 (put64 (put64 (put64 [] 0x200010 (.ofNat 64 (7 * 2 ^ 52 + 0x8001))) 0x8000 0x10001) 0x10000 0x18001) 0x18000 0x20001)
    0x20000 0x3007F) 0x20008 0x4017F) 0x20010 0x4A27F
def easel0 : State :=
  { State.reset with
    mem := easelMem
    dev := { State.reset.dev with qtbase := 0x100000, ctxbase := 0x200000, jbase := Vector.ofFn fun e : Fin 8 => .ofNat 64 (0x300000 + 0x10000 * e.val), elbase := 0x500000 }
    ctxCache := [(1, 7, 0x8000)], fresh := 20 }
def writeVA (s : State) (va : Nat) (bs : List Byte) : State := { s with mem := Memory.writeN s.mem (0x30000 + va) bs }
/-- Entry q of the queue table: easel 7, context 1, priority 2, a ring of 2^14 entries at VA 0x1000; EN, a reserved word, CONS. -/
def withQueue (s : State) (q en w3 cons : Nat) : State :=
  let b := 0x100000 + 32 * q
  { s with mem := put32 (put32 (put32 (put64 s.mem b 0x1000) (b + 8) (word (65536 + en * 2048 + 7 * 256 + 2 * 16 + 14))) (b + 12) (word w3)) (b + 20) (word cons)
           event := { row := .doorbell, a := q } }
/-- Entry 0 of the ring, published, of an OP. -/
def entryBytes (n op : Nat) : List Byte := wordBytesOf ([word n, .ofNat 32 op] ++ halves 0 ++ halves 0 ++ halves 0 ++ halves 0 ++ List.replicate 6 0)
def sQueue (op : Nat) : State := writeVA (withQueue easel0 16383 1 0 0) 0x1000 (entryBytes 1 op)
def accepted (s : State) (op : Nat) : State :=
  let j := journaled { s with fresh := s.fresh + 1 } 7 1 16383 op 0 0
  { j with mem := put32 j.mem (queuePlace s 16383 + 20) 1, commands := s.commands ++ [⟨20, 0, 16383, 0, 7, 2, 1, op, 0, 0, 0, 0, false, captured s 1 op 0, none, 0⟩] }
/-- What lies in the slices, and what the directory records, does not show in what an easel reads of memory that lies in clear. -/
def beside (t : State) (sl : List SliceBlock) (al : List AgentLine) : State := { t.recached sl [] with agentLines := al }
theorem beside_readAs (t : State) (sl al) (hk : t.keys = []) (hb : t.hbm = []) (k a n : Nat) : (beside t sl al).readAs k a n = t.readAs k a n := by
  have key : ∀ (u : State), u.keys = [] → u.hbm = [] → ∀ x, u.homeByte k x = Memory.read u.mem x := by
    intro u hk hb x
    simp [State.homeByte, State.hbmView, State.keyOf, hk, hb]
  unfold State.readAs
  simp only [key (beside t sl al) hk rfl, key t hk hb]
  simp [beside, State.recached, hb]
theorem beside_dword (t : State) (sl al) (hk : t.keys = []) (hb : t.hbm = []) (a : Nat) : (beside t sl al).physDword a = t.physDword a := by
  simp only [State.physDword, State.physRead, beside_readAs t sl al hk hb]
theorem beside_entry (t : State) (sl al) (hk : t.keys = []) (hb : t.hbm = []) (a l r : Nat) : (beside t sl al).readEntry a l r = t.readEntry a l r := by
  simp only [State.readEntry, State.entryAt, beside_dword t sl al hk hb]
  rfl
theorem beside_walk (t : State) (sl al) (hk : t.keys = []) (hb : t.hbm = []) (a l r : Nat) : (beside t sl al).walkFrom a l r = t.walkFrom a l r := by
  induction l generalizing r with
  | zero => simp only [State.walkFrom, beside_entry t sl al hk hb]
  | succ n ih => simp only [State.walkFrom, beside_entry t sl al hk hb, ih]
theorem beside_invalid (t : State) (sl al) (hk : t.keys = []) (hb : t.hbm = []) (a l r : Nat) :
    (beside t sl al).invalidEntry a l r = t.invalidEntry a l r := by
  induction l generalizing r with
  | zero =>
    simp only [State.invalidEntry, State.entryAt, beside_dword t sl al hk hb]
    rfl
  | succ n ih =>
    simp only [State.invalidEntry, State.entryAt, beside_dword t sl al hk hb, ih]
    rfl
theorem beside_xlate (t : State) (sl al) (hk : t.keys = []) (hb : t.hbm = []) (c a : Nat) (n : Need) :
    (beside t sl al).easelXlate c a n = t.easelXlate c a n := by
  have h : (beside t sl al).ctxOf c = t.ctxOf c := by
    simp only [State.ctxOf, beside_dword t sl al hk hb]
    rfl
  simp only [State.easelXlate, State.easelWalk, State.oldLeaf, h, beside_walk t sl al hk hb, beside_invalid t sl al hk hb,
    beside_dword t sl al hk hb]
  rfl
theorem beside_read (t : State) (sl al) (hk : t.keys = []) (hb : t.hbm = []) (c k a n : Nat) :
    (beside t sl al).easelRead c k a n = t.easelRead c k a n := by
  induction k generalizing a n with
  | zero => rfl
  | succ k ih =>
    simp only [State.easelRead, beside_xlate t sl al hk hb, beside_readAs t sl al hk hb, ih]
    rfl
theorem next_read (t u : State) (c a n : Nat) (hk : t.keys = []) (hh : t.hbm = []) (hu : Beside t u) (hb : u.hbm = []) :
    u.readStruct c a n = t.readStruct c a n := by
  obtain ⟨sl, hb', al, rfl⟩ := hu
  have : hb' = [] := hb
  subst this
  exact beside_read t sl al hk hh c _ a n
theorem meets_QueuesExamined :
    ((withQueue easel0 16383 0 0 0).event.a = 16383 ∧ (withQueue easel0 16383 0 0 0).hbm = [] ∧ NoDevice (queuePlace (withQueue easel0 16383 0 0 0) 16383) 32
      ∧ LaidOut (withQueue easel0 16383 0 0 0) 16383 ∧ (wordAt (withQueue easel0 16383 0 0 0).mem (queuePlace easel0 16383 + 8)).getLsbD 11 = false)
    ∧ (¬ LaidOut (withQueue easel0 16383 0 9 0) 16383 ∧ 16383 ∉ (withQueue easel0 16383 0 9 0).malformed
      ∧ 16383 ∈ { withQueue easel0 16383 0 9 0 with malformed := [16383] }.malformed)
    ∧ (Tables (sQueue 8) 7 16383 ∧ QueueEntry (sQueue 8) 16383 7 1 2 14 ∧ (sQueue 8).malformed = [] ∧ (sQueue 8).ringFaulted = [] ∧ InUse (sQueue 8) 1
      ∧ (sQueue 8).readStruct 1 0x1000 64 = .ok (entryBytes 1 8) ∧ (.ofNat 32 (valueOf ((entryBytes 1 8).take 4)) : Word) = 0 + 1
      ∧ WellOperated 8 0 0 0 0)
    ∧ ((∀ u, Beside (accepted (sQueue 8) 8) u → u.hbm = [] → u.readStruct 1 0x1040 64 = .ok (List.replicate 64 0))
      ∧ wordAt (accepted (sQueue 8) 8).mem (queuePlace (sQueue 8) 16383 + 20) = 0 + 1
      ∧ (.ofNat 32 (valueOf ((List.replicate 64 (0 : Byte)).take 4)) : Word) ≠ 0 + 2)
    ∧ ((sQueue 9).readStruct 1 0x1000 64 = .ok (entryBytes 1 9) ∧ (∀ x ∈ (sQueue 9).commands, x.id ≠ (sQueue 9).fresh)
      ∧ NoDevice (journalPlace (accepted (sQueue 9) 9) 7) 32
      ∧ ∀ u, Beside (ended (accepted (sQueue 9) 9) 7 ⟨20, 0, 16383, 0, 7, 2, 1, 9, 0, 0, 0, 0, false, none, none, 0⟩ 1) u → u.hbm = [] →
          u.readStruct 1 0x1040 64 = .ok (List.replicate 64 0))
    ∧ (writeVA (withQueue easel0 16383 1 0 0) 0x1000 (entryBytes 0 8)).readStruct 1 0x1000 64 = .ok (entryBytes 0 8)
    ∧ (.ofNat 32 (valueOf ((entryBytes 0 8).take 4)) : Word) ≠ 0 + 1
    ∧ (State.reset.event.a = (0 : Fin 8).val ∧ ∀ x ∈ State.reset.mem, x.1 < 0 ∨ 32 * 16384 ≤ x.1) := by
  unfold Tables Bare QueueEntry WellOperated NoDevice LaidOut InUse
  refine ⟨by decide +kernel, by decide +kernel, ⟨⟨⟨rfl, rfl, nullKeyed_of rfl rfl⟩, by decide +kernel⟩, by decide +kernel⟩,
    ⟨fun u hu hb => (next_read _ u 1 0x1040 64 rfl rfl hu hb).trans (by decide +kernel), by decide +kernel⟩,
    ⟨by decide +kernel, by decide +kernel, by decide +kernel, fun u hu hb => (next_read _ u 1 0x1040 64 rfl rfl hu hb).trans (by decide +kernel)⟩,
    by decide +kernel, by decide, rfl, fun _ h => absurd h List.not_mem_nil⟩
/-- Command 11 of queue 5, of easel 7, alone. -/
def comm (op : Nat) (a b c : DWord) (started : Bool) (key : Option (BitVec 512)) (hdr : Option (Nat ⊕ Header) := none) : Command :=
  ⟨11, 4, 5, 6, 7, 2, 1, op, a, b, c, 0, started, hdr, key, 0⟩
def sComm (k : Command) : State := { withQueue easel0 5 1 0 7 with commands := [k], event := { row := .launch, a := 11 } }
theorem comm_of (k : Command) (hi : k.id = 11) (hq : k.queue = 5) (he : k.easel = 7) (hc : k.ctx = 1) : CommandOf (sComm k) 7 k k.op := by
  refine ⟨?_, rfl, he, ⟨⟨rfl, rfl, nullKeyed_of rfl rfl⟩, by omega, ?_, ?_⟩, (1, 7, 0x8000), List.mem_singleton_self _, hc.symm⟩
  · show [k].find? (fun x => x.id == 11) = some k
    simp [hi]
  · exact (by decide +kernel : ∀ j < 32, windowOf (journalPlace (withQueue easel0 5 1 0 7) 7 + j) ≠ .device)
  · rw [hq]
    exact (by decide +kernel : ∀ j < 32, windowOf (queuePlace (withQueue easel0 5 1 0 7) 5 + j) ≠ .device)
theorem comm_startable (k : Command) (h : k.started = false) : Startable (sComm k) k :=
  ⟨h, fun _ hx _ _ => List.mem_singleton.1 hx ▸ Nat.le_refl _⟩
/-- A launch header: code at 0x4000, one group of t threads, two barriers, so many accumulators, 64 registers, one dimension of t,
a core kind (1: vector cores alone, 2: any). -/
def headerBytes (t accum kind : Nat) : List Byte :=
  littleEndian 8 0x4000 ++ littleEndian 4 1 ++ littleEndian 4 (2 * 2 ^ 20 + accum * 65536 + 63 * 1024 + (t - 1)) ++ littleEndian 4 0x4000 ++ littleEndian 4 10
  ++ littleEndian 8 9 ++ littleEndian 4 (t - 1) ++ List.replicate 20 0 ++ littleEndian 4 0 ++ littleEndian 4 (kind * 16 + 255 * 256) ++ littleEndian 8 0x10000
  ++ littleEndian 4 32768 ++ List.replicate 52 0
def headerRead (s : State) (firing : Bool) : Header := match s.readHeader 1 0x80 firing with | .ok h => h | .error _ => loadHeader
def sHead (k : Command) (t accum kind : Nat) : State := writeVA (sComm k) 0x80 (headerBytes t accum kind)
def nodeBytes : List Byte := wordBytesOf (halves 0x80 ++ List.replicate 30 0)
def basketBytes (n : Nat) : List Byte := wordBytesOf (halves 0x80 ++ halves 0x1000 ++ [.ofNat 32 (12 * 256 + n), .ofNat 32 (2 ^ 20 - 1), .ofNat 32 5, .ofNat 32 7] ++ List.replicate 8 0)
def siBlock : Block := ⟨loadCore, 0, 7, 127, 0x407F, 0x4017F, 0xFFFF, 0x8001, 0, [], []⟩

/-- A LAUNCH of the header at VA 0x80, which is captured; one of the blank header at VA 0, which breaks a limit. -/
def launchBytes (a : DWord) : List Byte :=
  wordBytesOf ([word 1, .ofNat 32 1] ++ halves a ++ halves 0 ++ halves 0 ++ halves 0 ++ List.replicate 6 0)
def sLaunch (a : DWord) : State := writeVA (writeVA (withQueue easel0 16383 1 0 0) 0x1000 (launchBytes a)) 0x80 (headerBytes 1 0 2)
theorem meets_QueuesExamined_launch :
    (∀ a, a = 0x80 ∨ a = 0 → (sLaunch a).readStruct 1 0x1000 64 = .ok (launchBytes a))
    ∧ (captured (sLaunch 0x80) 1 1 0x80 = some (.inr (headerRead (sLaunch 0x80) false)) ∧ WellOperated 1 0x80 0 0 0)
    ∧ captured (sLaunch 0) 1 1 0 = some (.inl 2) := by
  refine ⟨?_, ⟨by decide +kernel, by unfold WellOperated; decide⟩, by decide +kernel⟩
  rintro a (rfl | rfl) <;> decide +kernel
theorem meets_CommandsStart :
    (∀ k, k.id = 11 → k.queue = 5 → k.easel = 7 → k.ctx = 1 → CommandOf (sComm k) 7 k k.op ∧ (k.started = false → Startable (sComm k) k))
    ∧ ((comm 1 0x80 0 0 false none (some (.inl 2))).b = 0 ∧ (0x81 : DWord).toNat % 128 ≠ 0 ∧ (sHead (comm 1 0x80 0 0 false none) 40 0 2).readHeader 1 0x80 false = .ok (headerRead (sHead (comm 1 0x80 0 0 false none) 40 0 2) false)
      ∧ (headerRead (sHead (comm 1 0x80 0 0 false none) 40 0 2) false).placeable = true
      ∧ (sHead (comm 1 0x80 0 0 false none) 40 8 1).readHeader 1 0x80 false = .ok (headerRead (sHead (comm 1 0x80 0 0 false none) 40 8 1) false)
      ∧ (headerRead (sHead (comm 1 0x80 0 0 false none) 40 8 1) false).placeable = false)
    ∧ ((writeVA (sHead (comm 2 0x180 1 0 false none) 40 0 2) 0x180 nodeBytes).readStruct 1 0x180 128 = .ok nodeBytes
      ∧ ∀ g ∈ (sComm (comm 2 0x180 1 0 false none)).graphs, g.cmd ≠ 11)
    ∧ (∀ n, n = 0 ∨ n = 32 ∨ n = 33 → (writeVA (sHead (comm 3 0x180 0 0 false none) 1 0 2) 0x180 (basketBytes n)).readStruct 1 0x180 64 = .ok (basketBytes n))
    ∧ ((0x1000 : DWord).toNat % 64 = 0 ∧ ¬ 33 ≤ 32)
    ∧ ((sHead (comm 3 0x180 0 0 false none) 1 0 2).readHeader 1 0x80 true = .ok (headerRead (sHead (comm 3 0x180 0 0 false none) 1 0 2) true)
      ∧ ({ headerRead (sHead (comm 3 0x180 0 0 false none) 1 0 2) true with t := 32 * 32, exts := [32, 32] } : Header).placeable = true
      ∧ ∀ b ∈ (sComm (comm 3 0x180 0 0 false none)).baskets, b.desc ≠ 0x180)
    ∧ ((sComm (comm 4 0x8000 1 0 false none)).stores = [] ∧ siBlock.asid = (sComm (comm 4 0x8000 1 0 false none)).asidOf 1
      ∧ 0x8000 ≤ siBlock.vb * 512 ∧ siBlock.vb * 512 < 0x8000 + 32768 ∧ Pte.coh siBlock.pte = .si ∧ windowOf (siBlock.pb * 512) ≠ .device
      ∧ (sComm (comm 4 0x8000 1 0 false none)).linkDown (siBlock.pb * 512) = false ∧ 1 ≤ (1 : DWord).toNat
      ∧ Memory.wf (sComm (comm 4 0x8000 1 0 false none)).mem = true)
    ∧ ((sComm (comm 5 0 0 0 false none)).moves = [] ∧ ∀ k < 8, windowOf ((sComm (comm 5 0 0 0 false none)).dev.ctxbase.toNat + 16 * 1 + k) ≠ .device)
    ∧ (63 < (64 : DWord).toNat ∧ (64 : DWord).toNat ≠ 0xFFFF ∧ (1 : DWord) = (sComm (comm 6 0x8000 1 0 false none)).dev.modnum
      ∧ (sComm (comm 6 0x8000 0 0 false none)).walkFrom 0x8000 3 ((sComm (comm 6 0x8000 0 0 false none)).ctxOf 1).2 = .ok ⟨0x4017F, 0x8000, 32768⟩
      ∧ (sComm (comm 6 0x8000 0 0 false none)).linkDown (0 * 2 ^ 44) = false ∧ (sComm (comm 6 0x8000 0 0 false none)).linkDown 0x40000 = false
      ∧ windowOf 0x20008 ≠ .device ∧ Pte.settled 0x4017F = false ∧ Pte.settled 0x4A27F = true)
    ∧ (sComm (comm 7 9 0x100 0 false none)).readStruct 1 0x100 72 = .ok (List.replicate 72 0)
    ∧ (∀ x ∈ (sComm (comm 8 0 0 0 false none)).commands, x.queue = 5 → 11 ≤ x.id)
    ∧ ∃ x ∈ ({ sComm (comm 8 0 0 0 false none) with commands := [comm 8 0 0 0 false none, { comm 1 0 0 0 true none with id := 10 }] } : State).commands,
        x.queue = 5 ∧ x.id < 11 := by
  refine ⟨fun k h1 h2 h3 h4 => ⟨comm_of k h1 h2 h3 h4, comm_startable k⟩, ⟨by decide, by decide +kernel, by decide +kernel, by decide +kernel, by decide +kernel⟩,
    ⟨by decide +kernel, fun _ h => absurd h List.not_mem_nil⟩, ?_, by decide, ⟨by decide +kernel, by decide +kernel, fun _ h => absurd h List.not_mem_nil⟩,
    by decide +kernel, ⟨rfl, by decide +kernel⟩, by decide +kernel, by decide +kernel, by decide +kernel, by decide +kernel⟩
  rintro n (rfl | rfl | rfl) <;> decide +kernel
/-- A table of which no listed byte stands but an entry's reads as 0 elsewhere. -/
theorem zero_dword (s : State) (a : Nat) (he : s.hbm = []) (hw : a < 2 ^ 44) (h : ∀ c ∈ s.mem, c.1 < a ∨ a + 8 ≤ c.1) : s.physDword a = 0 := by
  have hr : ∀ (m : List Host.Cell) (x : Nat), (∀ c ∈ m, c.1 ≠ x) → Memory.read m x = 0 := by
    intro m x hm
    induction m with
    | nil => rfl
    | cons c m ih =>
      rw [Memory.read, if_neg (hm c List.mem_cons_self)]
      exact ih fun d hd => hm d (List.mem_cons_of_mem c hd)
  have hl : windowOf a = .local_ := by
    have : a / 2 ^ 44 = 0 := by omega
    unfold windowOf
    simp only [this, if_true]
  have hb : Memory.readN s.mem a 8 = List.replicate 8 0 := by
    refine List.eq_replicate_iff.2 ⟨by simp [Memory.readN], fun b hb => ?_⟩
    obtain ⟨i, hi, rfl⟩ := List.mem_map.1 hb
    refine hr _ _ fun c hc he => ?_
    have := List.mem_range.1 hi
    rcases h c hc with h | h <;> omega
  unfold State.physDword State.physRead State.readAs
  rw [if_neg (by simp [hl]), if_pos (by simp [he]), hb]
  decide
theorem flatMap_one {α : Type} (f : Nat → List α) (n k : Nat) (hk : k < n) (h : ∀ i < n, i ≠ k → f i = []) : (List.range n).flatMap f = f k := by
  induction n with
  | zero => exact absurd hk (Nat.not_lt_zero k)
  | succ n ih =>
    rw [List.range_succ, List.flatMap_append]
    by_cases hn : k = n
    · subst hn
      have : (List.range k).flatMap f = [] :=
        List.flatMap_eq_nil_iff.2 fun i hi => h i (by have := List.mem_range.1 hi; omega) (by have := List.mem_range.1 hi; omega)
      simp [this]
    · rw [ih (by omega) fun i hi => h i (by omega)]
      simp [h n (by omega) (by omega)]
def leafState : State := sComm (comm 6 0x8000 0 0 false none)
/-- No table listed by the module but at its own entries. -/
def entries : List Nat := [0x200010, 0x8000, 0x10000, 0x18000, 0x20000, 0x20008, 0x20010]
theorem leaf_cells : ∀ c ∈ leafState.mem, (∃ e ∈ entries, e ≤ c.1 ∧ c.1 < e + 8) ∨ (0x1000A0 ≤ c.1 ∧ c.1 < 0x1000C0) := by decide +kernel
theorem leaf_zero (a : Nat) (hw : a < 2 ^ 44) (he : ∀ e ∈ entries, a + 8 ≤ e ∨ e + 8 ≤ a) (hq : a + 8 ≤ 0x1000A0 ∨ 0x1000C0 ≤ a) :
    leafState.physDword a = 0 := by
  refine zero_dword _ a rfl hw fun c hc => ?_
  rcases leaf_cells c hc with ⟨e, hm, h1, h2⟩ | h
  · rcases he e hm with h | h <;> omega
  · omega
theorem leaf_table (n table next : Nat) (ht : table + 32768 ≤ 0x100000) (h8 : table % 8 = 0)
    (he : ∀ e ∈ entries, e = table ∨ e + 8 ≤ table ∨ table + 32768 ≤ e)
    (hv : Pte.v (leafState.physDword table) = true ∧ Pte.leaf (leafState.physDword table) = false
      ∧ Pte.pa (leafState.physDword table) = next) :
    leafState.leavesUnder (0x40000, 32768) (n + 1) table = leafState.leavesUnder (0x40000, 32768) n next := by
  rw [State.leavesUnder, flatMap_one _ 4096 0 (by decide)]
  · simp only [Nat.mul_zero, Nat.add_zero, hv.1, hv.2.1, hv.2.2]
    rfl
  · intro i hi h0
    rw [leaf_zero (table + 8 * i) (by omega) (fun e hm => by rcases he e hm with h | h | h <;> omega) (by omega)]
    rfl
theorem leaf_last : leafState.leavesUnder (0x40000, 32768) 0 0x20000 = [(0x20008, 0x40000, 32768)] := by
  have h : ∀ f : Nat → List (Nat × Nat × Nat), f 0 = [] → f 1 = [(0x20008, 0x40000, 32768)] → f 2 = [] → (∀ i < 4096, 3 ≤ i → f i = []) →
      (List.range 4096).flatMap f = [(0x20008, 0x40000, 32768)] := by
    intro f f0 f1 f2 fr
    have : List.range 4096 = [0, 1, 2] ++ (List.range 4093).map (3 + ·) := by
      rw [show (4096 : Nat) = 3 + 4093 from rfl, List.range_add]
      rfl
    rw [this, List.flatMap_append, List.flatMap_map]
    have hn : ((List.range 4093).flatMap fun x => f (3 + x)) = [] :=
      List.flatMap_eq_nil_iff.2 fun i hi => fr (3 + i) (by have := List.mem_range.1 hi; omega) (by omega)
    rw [hn]
    simp [f0, f1, f2]
  rw [State.leavesUnder]
  refine h _ (by decide +kernel) (by decide +kernel) (by decide +kernel) fun i hi h3 => ?_
  have : leafState.physDword (0x20000 + 8 * i) = 0 :=
    leaf_zero _ (by omega) (by simp only [entries, List.forall_mem_cons]; exact ⟨by omega, by omega, by omega, by omega, by omega, by omega, by omega, fun _ h => absurd h List.not_mem_nil⟩) (by omega)
  simp only [this]
  rfl
/-- The page 0x8000 has one leaf entry, in the one enabled context. -/
theorem meets_leaves : leafState.leavesOf (0x40000, 32768) = [(0x20008, 0x40000, 32768)] := by
  have hc : (List.range Config.contexts).filter (fun c => leafState.ctxEnabled c) = [1] := by
    have h1 : leafState.ctxEnabled 1 = true := by decide +kernel
    have h0 : ∀ i < 4096, i ≠ 1 → leafState.ctxEnabled i = false := by
      intro i hi hn
      have : leafState.physDword (leafState.dev.ctxbase.toNat + 16 * i) = 0 := by
        rw [show leafState.dev.ctxbase.toNat = 0x200000 from rfl]
        exact leaf_zero _ (by omega) (by simp only [entries, List.forall_mem_cons]; exact ⟨by omega, by omega, by omega, by omega, by omega, by omega, by omega, fun _ h => absurd h List.not_mem_nil⟩) (by omega)
      simp [State.ctxEnabled, this]
    have : List.range Config.contexts = [0, 1] ++ (List.range 4094).map (2 + ·) := by
      rw [show Config.contexts = 2 + 4094 from rfl, List.range_add]
      rfl
    rw [this, List.filter_append]
    have hn : ((List.range 4094).map (2 + ·)).filter (fun c => leafState.ctxEnabled c) = [] :=
      List.filter_eq_nil_iff.2 fun c hcm => by
        obtain ⟨i, hi, rfl⟩ := List.mem_map.1 hcm
        simp [h0 (2 + i) (by have := List.mem_range.1 hi; omega) (by omega)]
    rw [hn]
    simp [h0 0 (by decide) (by decide), h1]
  have hr : (leafState.ctxOf 1).2 = 0x8000 := by decide +kernel
  rw [State.leavesOf, hc]
  simp only [List.flatMap_cons, List.flatMap_nil, List.append_nil, hr]
  rw [leaf_table 2 0x8000 0x10000 (by decide) (by decide) (by decide) (by decide +kernel),
    leaf_table 1 0x10000 0x18000 (by decide) (by decide) (by decide) (by decide +kernel),
    leaf_table 0 0x18000 0x20000 (by decide) (by decide) (by decide) (by decide +kernel), leaf_last]
  decide
/-- A launch of the command, of one group, that has exited; one that has halted and whose group is dumped. -/
def launchE (src : Source) : Launch := { launch1 with id := 15, source := src, windows := [], next := 1, ended := 1, hdr := { launch1.hdr with ngroup := 1 } }
def sEnd (k : Command) (src : Source) : State := { sComm k with launches := [launchE src], event := { row := .launchComplete, a := 15 } }
def origin1 : Origin := ⟨3, 0, 0, 0x100, 0, 0, 0, loadCore, 0⟩
def dumpedGroup : Group := { group1 with launch := 15, halted := some ⟨origin1, 5, [], 0, true⟩ }
def sMigrate : State :=
  { sComm (comm 6 0x8000 0 0 true none) with
    mem := put64 (sComm (comm 6 0x8000 0 0 true none)).mem 0x20008 0x4017E
    migrations := [⟨11, 0x40000, 0x80000, 32768, [0x20008], []⟩], moves := [(0x40000, 32768, 2)] }
theorem meets_CommandsEnd :
    (CommandOf { sEnd (comm 1 0x80 0x1000 9 true none) (.entry 11) with event := { (sEnd (comm 1 0x80 0x1000 9 true none) (.entry 11)).event with a := 11 } } 7
        (comm 1 0x80 0x1000 9 true none) 1
      ∧ LaunchDone (sEnd (comm 1 0x80 0x1000 9 true none) (.entry 11)) (launchE (.entry 11)) 15
      ∧ (posted (without (sEnd (comm 1 0x80 0x1000 9 true none) (.entry 11)) (launchE (.entry 11))) 7 (comm 1 0x80 0x1000 9 true none) 0).easelXlate 1 0x1000 .store
        = .ok ⟨0x31000, 0x3007F⟩)
    ∧ (let s : State := { sEnd (comm 1 0x80 0 0 true none) (.entry 11) with
        launches := [{ launchE (.entry 11) with ended := 0, origin := some origin1 }], groups := [dumpedGroup] }
      s.haltMsgs = [] ∧ s.saved = [] ∧ s.stores = [] ∧ s.csmNet = [] ∧ (∃ g ∈ s.groups, g.launch = 15)
      ∧ ∀ g ∈ s.groups, g.launch = 15 → ∃ h, g.halted = some h ∧ h.dumped = true)
    ∧ (let s : State := { sComm (comm 2 0x180 1 0 true none) with
        launches := [launchE (.node 11 0)], graphs := [⟨11, [⟨0x80, false, 0, .running 15⟩], []⟩] }
      s.graphs.find? (fun g => g.cmd == 11) = some ⟨11, [⟨0x80, false, 0, .running 15⟩], []⟩ ∧ LaunchDone s (launchE (.node 11 0)) 15)
    ∧ NoCommands (sComm (comm 5 0 0 0 true none)) ∧ ((sComm (comm 7 9 0 0 true (some 5))).reqs = [] ∧ (sComm (comm 7 9 0 0 true (some 5))).locks = []
      ∧ (sComm (comm 7 9 0 0 true (some 5))).slices = [])
    ∧ (sMigrate.migrations = [⟨11, 0x40000, 0x80000, 32768, [0x20008], []⟩] ∧ NoCommands sMigrate ∧ sMigrate.tlb = [] ∧ sMigrate.reqs = []
      ∧ sMigrate.pends = [] ∧ sMigrate.locks = [] ∧ sMigrate.stores = [] ∧ sMigrate.saved = [] ∧ sMigrate.keyOf (Pte.key 0x4017E) = 0
      ∧ sMigrate.moves = [(0x40000, 32768, 2)] ∧ windowOf 0x20008 ≠ .device ∧ dwordAt sMigrate.mem 0x20008 = 0x4017E ∧ Memory.wf sMigrate.mem = true)
    ∧ Apart 0x80000 32768 0x40000 32768 ∧ Apart 0x80000 32768 0x20008 8 ∧ Apart 0x80000 32768 (journalPlace sMigrate 7) 32
    ∧ Apart 0x80000 32768 (queuePlace sMigrate 5 + 24) 4 ∧ Apart 0x20008 8 (journalPlace sMigrate 7) 32 ∧ Apart 0x20008 8 (queuePlace sMigrate 5 + 24) 4 := by
  refine ⟨⟨comm_of _ rfl rfl rfl rfl, ?_, by decide +kernel⟩, ?_, ?_, fun _ h => absurd h List.not_mem_nil, ⟨rfl, rfl, rfl⟩, ?_, ?_⟩
  · exact ⟨by decide +kernel, rfl, rfl, rfl, fun _ h => absurd h List.not_mem_nil, settled_of rfl rfl⟩
  · refine ⟨rfl, rfl, rfl, rfl, ⟨dumpedGroup, List.mem_singleton_self _, rfl⟩, fun g hg _ => ?_⟩
    rw [List.mem_singleton.1 hg]
    exact ⟨_, rfl, rfl⟩
  · exact ⟨by decide +kernel, by decide +kernel, rfl, rfl, rfl, fun _ h => absurd h List.not_mem_nil, settled_of rfl rfl⟩
  · exact ⟨rfl, fun _ h => absurd h List.not_mem_nil, rfl, rfl, rfl, rfl, rfl, rfl, by decide +kernel, rfl, by decide, by decide +kernel, by decide +kernel⟩
  · unfold Apart; decide +kernel
/-- A launch of one group of 1024 threads alone in the palette; the core its placement waits for takes it, or, where the launch
permits matrix cores alone, does not. -/
def headerP (t accum kind : Nat) : Header := headerRead (sHead (comm 1 0x80 0 0 false none) t accum kind) false
def launchP (t accum kind : Nat) (w : List (Nat × Nat)) : Launch :=
  { launch1 with id := 15, hdr := headerP t accum kind, next := 0, windows := [], tree := [], waiting := w }
def sPal (l : Launch) : State := { easel0 with launches := [l], event := { row := .placementResume, a := 15 } }
theorem alone_of (t accum kind core : Nat) (w : List (Nat × Nat)) (hc : core < 1152) (hf : (headerP t accum kind).fitsEmpty core 1 = true)
    (hs : (headerP t accum kind).isWhole = false) (hn : (headerP t accum kind).ngroup = 1) (h5 : (headerP t accum kind).chsz ≤ 512) : AloneInPalette (sPal (launchP t accum kind w)) (launchP t accum kind w) := by
  exact ⟨rfl, rfl, rfl, rfl, rfl, rfl, hn, rfl, rfl, rfl, rfl, rfl, hs, h5, core, hc, hf⟩
def headerB : Header := headerRead (sHead (comm 3 0x180 0 0 false none) 1 0 2) true
def rec0 (k : Nat) : Nat × DWord × List Word := (k, 0x4440, List.replicate 8 7)
/-- A basket that has counted two records of three, its next record the last of a ring's 2^32 indexes. -/
def basketB (n : Nat) : Basket := ⟨11, 0x180, headerB, 0x1000, 4, 3, 50, 2 ^ 32 - 1, (List.range n).map rec0, 0⟩
def sBasket (n : Nat) (seq : Word) : State :=
  { writeVA (sComm (comm 3 0x180 0 0 true none)) (0x1000 + 64 * 15) (wordBytesOf (recordWords seq 0x4440 (List.replicate 8 7))) with
    baskets := [basketB n], event := { row := .basketCount, a := 11 }, ecyc := Vector.replicate 8 50 }
theorem meets_PaletteAndPlacement :
    (∀ l ∈ (sPal (launchP 40 0 1 [(0, loadCore)])).launches, l.waiting ≠ [])
    ∧ AloneInPalette (sPal (launchP 1024 0 2 [])) (launchP 1024 0 2 []) ∧ (sPal (launchP 1024 0 2 [])).ctxEnabled 1 = true
    ∧ AloneInPalette (sPal (launchP 40 0 1 [(0, 24)])) (launchP 40 0 1 [(0, 24)]) ∧ (headerP 40 0 1).fitsEmpty 24 1 = true
    ∧ (sPal (launchP 40 0 1 [(0, 24)])).ctxEnabled 1 = true
    ∧ (sPal (launchP 40 0 1 [(0, loadCore)])).launches.find? (fun x => x.id == 15) = some (launchP 40 0 1 [(0, loadCore)])
    ∧ (sPal (launchP 40 0 1 [(0, loadCore)])).fits (launchP 40 0 1 [(0, loadCore)]) loadCore 1 = false := by
  refine ⟨fun l hl => ?_, alone_of 1024 0 2 1151 _ (by decide) (by decide +kernel) (by decide +kernel) (by decide +kernel) (by decide +kernel), by decide +kernel,
    alone_of 40 0 1 24 _ (by decide) (by decide +kernel) (by decide +kernel) (by decide +kernel) (by decide +kernel), by decide +kernel,
    by decide +kernel, by decide +kernel, by decide +kernel⟩
  rw [List.mem_singleton.1 hl]
  exact List.cons_ne_nil _ _
theorem meets_BasketCounts :
    (∀ n seq, OneBasket (sBasket n seq) 7 (comm 3 0x180 0 0 true none) (basketB n))
    ∧ (∀ seq, seq = 0 ∨ seq = 5 → (sBasket 2 seq).readStruct 1 ((0x1000 : DWord).toNat + 64 * ((basketB 2).seen % 2 ^ 4)) 64
        = .ok (wordBytesOf (recordWords seq 0x4440 (List.replicate 8 7))))
    ∧ (0x4440 : DWord).toNat % 4 = 0 ∧ (List.replicate 8 (7 : Word)).length = 8
    ∧ (writeVA (sBasket 2 0) (0x1000 + 64 * 15) (wordBytesOf (recordWords 0 0x4442 (List.replicate 8 7)))).readStruct 1 (0x1000 + 64 * 15) 64
        = .ok (wordBytesOf (recordWords 0 0x4442 (List.replicate 8 7))) ∧ (0x4442 : DWord).toNat % 4 ≠ 0
    ∧ (0 : Word) = .ofNat 32 ((basketB 2).seen + 1) ∧ (5 : Word) ≠ .ofNat 32 ((basketB 2).seen + 1) ∧ (basketB 2).recs.length + 1 = (basketB 2).c
    ∧ (basketB 1).recs.length + 1 < (basketB 1).c ∧ (basketB 2).recs ≠ [] ∧ (basketB 2).recs.length ≤ (basketB 2).c
    ∧ (basketB 2).started + (basketB 2).d ≤ (sBasket 2 0).ecyc[7]
    ∧ ({ sBasket 2 0 with ecyc := Vector.replicate 8 49 } : State).ecyc[7] < (basketB 2).started + (basketB 2).d := by
  refine ⟨fun _ _ => ⟨rfl, rfl, rfl, rfl, (1, 7, 0x8000), List.mem_singleton_self _, rfl⟩, ?_, by decide +kernel⟩
  rintro seq (rfl | rfl) <;> decide +kernel

/-! ### Links, other agents, the firmware -/

def onLink (ag : Agent) (a b : Nat) : State := { State.reset with event := { row := .linkDown, agent := ag, a := a, b := b } }
/-- An atomic on a word of peer 40's memory, which no link reaches. -/
def farReq : Req := reqAt (.atom 0) 4 .accepted ⟨0, 0x5000, 40 * 2 ^ 44, loadPte, [7], []⟩
def farPend : Pend := { pendAt (.atom 0) 4 1 with keep := [] }
def sFar : State := { sReq farReq with event := { row := .linkTimeout, a := 1, b := 0, c := 0 } }
/-- An access of the host to the first page. -/
def fromHost (x : BusAccess) (inc : Nat) (dead : List Agent) : State :=
  { State.reset with dead := dead, event := { row := .hostInboundAccess, agent := .host, b := inc, access := x } }
theorem reset_bare : Bare State.reset := ⟨rfl, rfl, nullKeyed_of rfl rfl⟩
theorem meets_LinksAndAgents :
    ((onLink .host 0 0).event.agent = .host ∧ (onLink (.peer 3) 1 1).event.agent = .peer 3 ∧ (onLink (.peer 3) 1 1).event.b = 1
      ∧ (onLink (.peer 3) 0 0).event.b ≠ 1)
    ∧ (sFar.reqs.find? (fun y => y.id == sFar.event.a) = some farReq ∧ sFar.event.b = 0 ∧ sFar.event.c = 0 ∧ sFar.NotInL1 (40 * 2 ^ 44 / 512)
      ∧ windowOf (40 * 2 ^ 44) = .peer 40 ∧ sFar.hereOf farReq.gid farReq.bunch = some hFl ∧ hFl.g.halted = none
      ∧ (sFar.pends.find? fun p => p.is farReq.pend farReq.gid farReq.bunch) = some (pendAt (.atom 0) 4 1) ∧ PendsDiffer sFar ∧ untraced hFl
      ∧ OnlyAccepted sFar farReq ∧ Landing hFl (pendAt (.atom 0) 4 1) flight1 ∧ Memory.wf sFar.mem = true ∧ sFar.dev.elbase.toNat % 64 = 0
      ∧ NoDevice (entryPlace sFar sFar.dev.elcount) 64)
    ∧ (∀ x dead, Bare (fromHost x 0 dead) ∧ NothingTaken (fromHost x 0 dead) ∧ (fromHost x 0 dead).migrations = [])
    ∧ (∀ x, ¬ Outdated (fromHost x 0 []) .host 0 ∧ ¬ Outdated (fromHost x 65536 []) .host 65536 ∧ Outdated (fromHost x 0 [.host]) .host 0
      ∧ Outdated (fromHost x 1 []) .host 1)
    ∧ ((∀ k < 64, windowOf (0x7FC0 + k) ≠ .device) ∧ windowOf 0x7FC0 = .local_ ∧ windowOf (0x80 * 2 ^ 44) ≠ .local_
      ∧ Serves (fromHost (.cas16 0x7FF0 (List.replicate 16 0) (List.replicate 16 9)) 0 []) (.cas16 0x7FF0 (List.replicate 16 0) (List.replicate 16 9))
          (List.replicate 16 0) (some (List.replicate 16 9))
      ∧ Serves (fromHost (.atom 9 0x7FFC 4 5 0) 0 []) (.atom 9 0x7FFC 4 5 0) (List.replicate 4 0) (some (littleEndian 4 5))
      ∧ Serves (fromHost (.read 0x7FFC 4) 0 []) (.read 0x7FFC 4) (List.replicate 4 0) none
      ∧ Serves (fromHost (.own 0x7FFC) 0 []) (.own 0x7FFC) (List.replicate 512 0) none
      ∧ Serves (fromHost (.write 0x7FFC [1, 2]) 0 []) (.write 0x7FFC [1, 2]) [] (some [1, 2])
      ∧ Serves (fromHost (.ack 0x7FFC) 0 []) (.ack 0x7FFC) State.reset.busReply none)
    ∧ ((0x110, State.reset.dev.rpcap) ∈ deviceRegisters State.reset.dev
      ∧ (16383 : Nat) < 16384 ∧ 0xFFFF8 + ([1, 2, 3, 4, 5, 6, 7, 8] : List Byte).length ≤ 0x100000)
    ∧ ∃ y ∈ ({ fromHost (.ack 0) 0 [] with agentLines := [⟨.host, 63, true⟩], dev := { State.reset.dev with elbase := 0x500000 } } : State).agentLines,
        (y.agent == .host && y.owned) = true ∧ 512 * y.blk + 512 ≤ 0x500000 := by
  refine ⟨by decide, ⟨rfl, rfl, rfl, notInL1_of rfl _, by decide, rfl, rfl, rfl, (asks farReq 1 rfl rfl rfl rfl).2.2.2.1, (asks farReq 1 rfl rfl rfl rfl).2.2.2.2.1,
      (asks farReq 1 rfl rfl rfl rfl).2.2.2.2.2.2.1, (asks farReq 1 rfl rfl rfl rfl).2.2.2.2.2.2.2, rfl, by decide, by unfold NoDevice; decide +kernel⟩,
    fun x dead => ⟨⟨rfl, rfl, nullKeyed_of rfl rfl⟩, ⟨rfl, fun _ h => absurd h List.not_mem_nil⟩, rfl⟩, fun x => ?_, ⟨by decide, by decide, by decide, ?_, ?_, ?_, ?_, ?_, ?_⟩,
    by decide +kernel, _, List.mem_singleton_self _, by decide, by decide⟩
  · exact (by unfold Outdated; decide : ¬ Outdated State.reset .host 0 ∧ ¬ Outdated State.reset .host 65536
      ∧ Outdated { State.reset with dead := [.host] } .host 0 ∧ Outdated State.reset .host 1)
  · exact ⟨rfl, by decide +kernel, by decide +kernel⟩
  · exact ⟨.inl rfl, by decide +kernel, .inr ⟨rfl, by decide +kernel⟩⟩
  · exact ⟨by decide +kernel, rfl⟩
  · exact ⟨by decide +kernel, rfl⟩
  · exact ⟨rfl, rfl⟩
  · exact ⟨rfl, rfl⟩
/-- The module in reset with no image, with one, and running with one group. -/
def held (im : Option (Nat × Nat)) : State := { State.reset with fw := { State.reset.fw with trusted := im } }
def sTemp : State := { one with event := { row := .thermalHalt } }
theorem meets_FirmwareSteps :
    ((held none).fw.held = true ∧ (held none).fw.trusted = none ∧ (held (some (1, 1))).fw.trusted ≠ none
      ∧ (let fw : Firmware := { (held (some (1, 1))).fw with untrusted := some (2, 1) }; fw.trusted ≠ none ∧ fw.untrusted ≠ none))
    ∧ (¬ ((held none).fw.fused ≤ (held none).event.img.version ∧ ((held none).event.img.trusted = true ∨ (held none).fw.trusted ≠ none)))
    ∧ (State.reset.event.b ≠ 1 ∧ firmwareWrites[4]?.map (fun w => w.1) = some 0x118)
    ∧ State.reset.groups = [] ∧ LoneGroup sTemp launch1 group1 ∧ group1.halted = none ∧ launch1.origin = none ∧ sTemp.stores = [] ∧ RingFree sTemp := by
  refine ⟨by decide, by decide, ⟨by decide, rfl⟩, rfl,
    ⟨rfl, rfl, rfl, rfl, rfl, rfl, fun b hb => ?_⟩, rfl, rfl, rfl, by decide +kernel, notInL1_of rfl _⟩
  exact List.mem_singleton.1 hb ▸ ⟨rfl, rfl⟩

/-! ### Halts, dumps, answers; saving and restoring -/

def sHaltMsg : State := { one with
  launches := [{ launch1 with origin := some origin1 }], haltMsgs := [(loadCore, 1)], stores := [store1 .gl 32764]
  event := { row := .haltArrival, a := loadCore, b := 1 } }
theorem lone_of {s : State} {l : Launch} {g : Group} (h1 : s.launches = [l]) (h2 : s.groups = [g]) (h3 : g.launch = l.id) (h4 : g.left = false)
    (h5 : s.subs = []) (h6 : s.csmNet = []) (h7 : ∀ b ∈ g.bunches, b.mx.cmds = [] ∧ b.cp.cmds = []) : LoneGroup s l g := ⟨h1, h2, h3, h4, h5, h6, h7⟩
theorem idle1 (g : Group) (h : g.bunches = [bunch1]) : ∀ b ∈ g.bunches, b.mx.cmds = [] ∧ b.cp.cmds = [] := by
  rw [h]
  intro b hb
  exact List.mem_singleton.1 hb ▸ ⟨rfl, rfl⟩
def halted1 (d : Bool) : Halted := ⟨origin1, 5, [], 0, d⟩
def groupH (d : Bool) : Group := { group1 with halted := some (halted1 d) }
def launchH : Launch := { launch1 with origin := some origin1, finished := true }
/-- A page of 128 MiB that maps the launch's dump area. -/
def bigPte : Pte := loadPte
def sDump : State := { one with
  groups := [groupH false], launches := [launchH], tlb := [⟨clusterOf loadCore, 1, 0, 2 ^ 27, bigPte⟩], event := { row := .groupDump, a := 0 } }
theorem big_mapped (a : Nat) (ha : a < 2 ^ 27) : sDump.Mapped loadCore 1 a .store ⟨a, bigPte⟩ ∧ windowOf a ≠ .device := by
  have hf : sDump.tlbFind (clusterOf loadCore) 1 a = some ⟨bigPte, 0, 2 ^ 27⟩ := by
    have : (clusterOf loadCore == clusterOf loadCore && (1 : Nat) == 1 && decide (0 ≤ a) && decide (a < 0 + 2 ^ 27)) = true := by
      simp only [beq_self_eq_true, Bool.true_and, Bool.and_eq_true, decide_eq_true_eq]
      omega
    simp only [State.tlbFind, sDump, List.find?_cons, this]
    rfl
  have hw : windowOf a = .local_ := by
    have : a / 2 ^ 44 = 0 := by omega
    unfold windowOf
    simp only [this, if_true]
  refine ⟨⟨by omega, ⟨(1, 1, 0), List.mem_singleton_self _, rfl⟩, ⟨bigPte, 0, 2 ^ 27⟩, hf, ?_, by decide, rfl, ?_⟩, by simp [hw]⟩
  · simp [show Pte.pa bigPte = 0 by decide]
  · simp [State.linkDown, hw]
/-- An entry of the log for a lane parked on a fault, and for a halt. -/
def entryOf (kind : Nat) : OpenEntry := ⟨3, kind, 1, 0, 0, 1, 0x41⟩
def bunchParked : Bunch := bunch1.modThread 0 fun t => { t with st := .parked 0x41 0x9000 }
def sAnswer (kind : Nat) (r : Instr) : State := { one with openEntries := [entryOf kind], event := { row := r, a := 3 } }
def sParked : State := { sAnswer 1 .respHalt with groups := [{ group1 with bunches := [bunchParked] }] }
def answered (v : Nat) : State := { sAnswer 1 .errorLogPoll with
  dev := { State.reset.dev with elbase := 0x500000 }, mem := put32 (put64 [] (0x500000 + 64 * 3) 4) (0x500000 + 64 * 3 + 12) (word v)
  event := { row := .errorLogPoll, a := launch1.easel } }
theorem meets_HaltsAndAnswers :
    (LoneGroup sHaltMsg { launch1 with origin := some origin1 } group1 ∧ group1.halted = none ∧ sHaltMsg.haltMsgs = [(group1.core, launch1.id)]
      ∧ ∀ st ∈ sHaltMsg.stores, st.gid = group1.gid ∧ st.wholeBunch = 0 ∧ ∃ th, sHaltMsg.thread? group1.gid st.bunch st.lane = some th ∧ th.live = true)
    ∧ ((one.event.a, one.event.b) ∉ one.haltMsgs)
    ∧ (LoneGroup sDump launchH (groupH false) ∧ sDump.event.a = (groupH false).gid ∧ (halted1 false).origin.reason ≠ 2 ∧ launchH.source = .external
      ∧ launchH.released = false ∧ Bare sDump ∧ Unmarked (groupH false) ∧ Unwatched (groupH false) ∧ Memory.wf sDump.mem = true
      ∧ sDump.keyOf (Pte.key bigPte) = 0 ∧ (groupH false).size = launchH.hdr.t ∧ (groupH false).bunches.length = (launchH.hdr.t + 31) / 32
      ∧ (groupH false).bars.length = launchH.hdr.nbar
      ∧ ∀ k < dumpBytes launchH.hdr,
          sDump.Mapped loadCore 1 (launchH.hdr.lpb + launchH.hdr.ngroup * launchH.hdr.t * launchH.hdr.lps + (groupH false).num * dumpBytes launchH.hdr + k) .store
            ⟨launchH.hdr.lpb + launchH.hdr.ngroup * launchH.hdr.t * launchH.hdr.lps + (groupH false).num * dumpBytes launchH.hdr + k, bigPte⟩
          ∧ windowOf (launchH.hdr.lpb + launchH.hdr.ngroup * launchH.hdr.t * launchH.hdr.lps + (groupH false).num * dumpBytes launchH.hdr + k) ≠ .device)
    ∧ (State.reset.event.a = (0 : Fin 8).val ∧ State.reset.openEntries = [])
    ∧ (∀ v, v = 0 ∨ v = 1 ∨ v = 2 → (answered v).hbm = [] ∧ (answered v).launches.find? (fun y => y.id == 1) = some launch1
      ∧ (answered v).group? 0 = some group1 ∧ windowOf ((answered v).dev.elbase.toNat + 64 * 3) ≠ .device
      ∧ windowOf ((answered v).dev.elbase.toNat + 64 * 3 + 12) ≠ .device ∧ dwordAt (answered v).mem ((answered v).dev.elbase.toNat + 64 * 3) = .ofNat 64 (3 + 1)
      ∧ wordAt (answered v).mem ((answered v).dev.elbase.toNat + 64 * 3 + 12) = word v)
    ∧ (∀ k r, OneEntry (sAnswer k r) (entryOf k) ∧ (sAnswer k r).GidsDiffer ∧ (sAnswer k r).group? 0 = some group1)
    ∧ (OneEntry sParked (entryOf 1) ∧ LoneGroup sParked launch1 { group1 with bunches := [bunchParked] } ∧ launch1.origin = none ∧ RingFree sParked
      ∧ (entryOf 1).lanes = laneBit 0 ∧ ∃ th, sParked.thread? 0 0 0 = some th ∧ th.st = .parked 0x41 0x9000)
    ∧ (∀ d, LoneGroup { sAnswer 2 .respRelease with groups := [groupH d], launches := [launchH] } launchH (groupH d)
      ∧ (groupH d).halted = some (halted1 d) ∧ launchH.finished = true) := by
  refine ⟨⟨lone_of rfl rfl rfl rfl rfl rfl (idle1 _ rfl), rfl, rfl, fun st hs => ?_⟩, List.not_mem_nil,
    ⟨lone_of rfl rfl rfl rfl rfl rfl (idle1 _ rfl), rfl, by decide, rfl, rfl, ⟨rfl, rfl, nullKeyed_of rfl rfl⟩, ?_, ?_, rfl, one_null _, rfl, rfl, by decide +kernel,
      fun k hk => big_mapped _ ?_⟩, ⟨rfl, rfl⟩, ?_, fun k r => ⟨⟨rfl, rfl⟩, gids_of rfl, rfl⟩,
    ⟨⟨rfl, rfl⟩, lone_of rfl rfl rfl rfl rfl rfl ?_, rfl, ⟨by decide, notInL1_of rfl _⟩, by decide, _, rfl, by decide +kernel⟩,
    fun d => ⟨lone_of rfl rfl rfl rfl rfl rfl (idle1 _ rfl), rfl, rfl⟩⟩
  · rw [List.mem_singleton.1 hs]
    exact ⟨rfl, rfl, _, rfl, by decide +kernel⟩
  · unfold Unmarked; decide +kernel
  · unfold Unwatched; decide +kernel
  · have : launchH.hdr.lpb + launchH.hdr.ngroup * launchH.hdr.t * launchH.hdr.lps + (groupH false).num * dumpBytes launchH.hdr + dumpBytes launchH.hdr < 2 ^ 27 := by
      decide +kernel
    omega
  · rintro v (rfl | rfl | rfl) <;> exact ⟨rfl, by decide +kernel⟩
  · intro b hb
    exact List.mem_singleton.1 hb ▸ ⟨rfl, rfl⟩
/-- Both images are in force. -/
def bothRun : Firmware := ⟨some (1, 1), some (2, 1), 0, false, 0⟩
def sSave : State := { one with fw := bothRun, event := { row := .contextSave, a := 1 } }
/-- A saved group of one bunch, to its own core and to one in the same place of another cluster. -/
def launchS : Launch := { launch1 with windows := [], tree := [], hdr := { launch1.hdr with accum := 0, chsz := 0 } }
def sSaved (l : List (Nat × Nat)) : State :=
  { State.reset with fw := bothRun, launches := [launchS], saved := [⟨1, [group1]⟩], event := { row := .contextRestore, a := 1, list := l } }
theorem meets_SavingAndRestoring :
    (∀ l ∈ State.reset.launches, l.ctx ≠ State.reset.event.a)
    ∧ (LoneGroup sSave launch1 group1 ∧ launch1.ctx = sSave.event.a ∧ Unmarked group1 ∧ sSave.reqs = [] ∧ sSave.stores = []
      ∧ sSave.portNet = [] ∧ sSave.locks = [] ∧ sSave.saved = [] ∧ sSave.l1 = [] ∧ sSave.pends = [] ∧ sSave.dbgRecs = [] ∧ sSave.fw.untrusted ≠ none)
    ∧ State.reset.saved = []
    ∧ (∀ l, (sSaved l).launches = [launchS] ∧ group1.launch = launchS.id ∧ (sSaved l).saved = [⟨(sSaved l).event.a, [group1]⟩] ∧ group1.bunches = [bunch1]
      ∧ launchS.reserved = [] ∧ launchS.waiting = [] ∧ launchS.origin = none ∧ (sSaved l).l1 = [] ∧ (sSaved l).migrations = []
      ∧ (sSaved l).groups = [] ∧ (sSaved l).fw.untrusted ≠ none)
    ∧ (loadCore < 1152 ∧ loadCore + 4 < 1152 ∧ clusterPos (loadCore + 4) = clusterPos group1.core ∧ launchS.hdr.permits loadCore = true
      ∧ launchS.hdr.permits (loadCore + 4) = true ∧ (sSaved [(0, loadCore + 4)]).event.list = [(group1.gid, loadCore + 4)]
      ∧ (sSaved []).event.list = [] ∧ loadCore = group1.core)
    ∧ (group1.size ≤ 32 ∧ group1.left = false ∧ launchS.hdr.accum = 0 ∧ group1.bars.length ≤ 48 ∧ group1.chunks.length ≤ 32
      ∧ (∀ r : Reg, bunch1.regs[r].rep ≠ .spilled) ∧ (∀ i : Fin 32, bunch1.threads[i].watch = none) ∧ bunch1.flights = []
      ∧ launchS.hdr.chsz = 0 ∧ launchS.tree = [] ∧ launchS.windows = []) := by
  refine ⟨fun _ h => absurd h List.not_mem_nil, ⟨lone_of rfl rfl rfl rfl rfl rfl (idle1 _ rfl), rfl, ?_, rfl, rfl, rfl, rfl, rfl, rfl, rfl, rfl, by decide⟩, rfl,
    fun l => ⟨rfl, rfl, rfl, rfl, rfl, rfl, rfl, rfl, rfl, rfl, by simp [sSaved, bothRun]⟩, by decide +kernel, by decide +kernel, rfl, by decide +kernel, by decide +kernel, by decide +kernel, bunch1_in, by decide +kernel⟩
  unfold Unmarked; decide +kernel

/-! ### Issue, debug, faults of a lane form, the step -/

/-- The one thread, its word fetched, of an age, urgent or not. -/
def bunchIs (age : Nat) (u : Option Nat) : Bunch := bunch1.modThread 0 fun t => { t with fetched := some 0x100, age := age, urgent := u }
theorem bunchIs_other : ∀ l : Fin 32, l ≠ 0 → (bunchIs 9 none).threads[l].present = false := by decide +kernel
/-- A group that samples, its one thread in a state. -/
def bunchSa (st : ThState) (aw : Await) : Bunch := bunch1.modThread 0 fun t => { t with st := st, await := aw, fetched := some 0x100 }
def groupSa (b : Bunch) : Group := { group1 with bunches := [b], size := 1, dbg := 0xFFFF, sampleDue := 7 }
def sSample (st : ThState) (aw : Await) (ps : List Pend) : State :=
  { one with groups := [groupSa (bunchSa st aw)], pends := ps, clock := 7, event := { row := .stallSample, a := 0 } }
theorem bunchSa_other : ∀ l : Fin 32, l ≠ 0 → ∀ st aw, (bunchSa st aw).threads[l].present = false := by
  intro l hl st aw
  have h : (bunchSa st aw).threads[l].present = bunch1.threads[l].present := by
    simp only [bunchSa, Bunch.modThread, Fin.getElem_fin]
    rw [Vector.getElem_set_ne]
    exact fun he => hl (Fin.ext he.symm)
  rw [h]
  exact (by decide +kernel : ∀ l : Fin 32, l ≠ 0 → bunch1.threads[l].present = false) l hl
def recD (cyc : Nat) : DebugRec := ⟨0, loadCore, 1, 0x7FE0, cyc, []⟩
def sDrop : State := { easel0 with
  tlb := [⟨clusterOf loadCore, 7, 0, 32768, 0x3007F⟩], dbgRecs := [recD 0], clock := 257, event := { row := .debugRecordDrop } }
theorem meets_IssueSteps :
    (State.reset.groups = [] ∧ State.reset.dbgRecs = [])
    ∧ (LoneBunch (atB (bunchIs 9 none)) { group1 with bunches := [bunchIs 9 none] } (bunchIs 9 none) ∧ Eligible (bunchIs 9 none).threads[(0 : Fin 32)]
      ∧ (bunchIs 9 none).threads[(0 : Fin 32)].pc = 0x100
      ∧ ∀ l : Fin 32, Eligible (bunchIs 9 none).threads[l] → (0x100 : DWord).toNat ≤ (bunchIs 9 none).threads[l].pc.toNat ∧ (bunchIs 9 none).threads[l].urgent = none)
    ∧ (one.here? = some hOne ∧ one.cur.run.getLsbD (Fin.val (0 : Fin 32)) = true ∧ hOne.b.threads[(0 : Fin 32)].await ≠ .engine ∧ hOne.g.halted = none)
    ∧ (let s : State := { one with mem := put32 [] 0x100 0x251C0C00, event := { row := .instructionFetch, pc := 0x100 } }
      s.hereOf 0 0 = some hOne ∧ s.GidsDiffer ∧ s.Mapped loadCore 1 0x100 .fetch ⟨0x100, loadPte⟩ ∧ windowOf 0x100 ≠ .device ∧ s.Clean (Pte.key loadPte) 0x100 4
      ∧ Sys2Proof.decode [(wordAt s.mem 0x100).toNat] = .ok ⟨none, .absF32 7 ⟨6, false, .self⟩, 0, 1⟩)
    ∧ (∀ st aw ps, (sSample st aw ps).launches = [launch1] ∧ (sSample st aw ps).groups = [groupSa (bunchSa st aw)] ∧ (groupSa (bunchSa st aw)).launch = launch1.id
      ∧ 0 < (groupSa (bunchSa st aw)).dbg.toNat % 65536 ∧ (groupSa (bunchSa st aw)).sampleDue ≤ (sSample st aw ps).clock
      ∧ (bunchSa st aw).threads[(0 : Fin 32)].present = true ∧ (bunchSa st aw).threads[(0 : Fin 32)].st = st ∧ (bunchSa st aw).threads[(0 : Fin 32)].await = aw
      ∧ (bunchSa st aw).threads[(0 : Fin 32)].fetched = some (bunchSa st aw).threads[(0 : Fin 32)].pc
      ∧ (∀ k : Fin 32, k ≠ 0 → (bunchSa st aw).threads[k].present = false) ∧ (sSample st aw ps).issued = [])
    ∧ (sSample .running (.operand 0) [pendAt .load 4 1]).pends.find? (fun x => x.id == 0) = some (pendAt .load 4 1)
    ∧ (∀ p ∈ (sSample .running .request [pendAt .load 4 1]).pends, p.waiting ≠ 0)
    ∧ (∀ r ∈ ({ sDrop with clock := 256 } : State).dbgRecs, ({ sDrop with clock := 256 } : State).clock ≤ r.cyc + 256)
    ∧ (sDrop.dbgRecs = [recD 0] ∧ (recD 0).cyc + 256 < sDrop.clock ∧ Bare sDrop ∧ sDrop.Mapped loadCore 1 (0x7FE0 + 8) .store ⟨0x37FE8, 0x3007F⟩
      ∧ 0x7FE0 % 32 = 0 ∧ sDrop.easelXlate 1 (0x7FE0 + 8) .load = .ok ⟨0x37FE8, 0x3007F⟩ ∧ windowOf 0x37FE8 ≠ .device ∧ sDrop.migrations = []
      ∧ sDrop.keyOf (Pte.key 0x3007F) = 0 ∧ Memory.wf sDrop.mem = true) := by
  refine ⟨⟨rfl, rfl⟩, ⟨⟨rfl, rfl, rfl, rfl, rfl, by decide, rfl, rfl, rfl, rfl⟩, by unfold Eligible; decide +kernel, by decide +kernel, fun l hl => ?_⟩,
    ⟨rfl, by decide, by decide +kernel, rfl⟩,
    ⟨rfl, gids_of rfl, mapped_of dirLeaf (by decide +kernel), by decide, clean_of rfl (one_null _) rfl (by decide), by decide +kernel⟩,
    fun st aw ps => ⟨rfl, rfl, rfl, (by decide : 0 < (0xFFFF : Word).toNat % 65536), (by decide : (7 : Nat) ≤ 7), ?_, ?_, ?_, ?_, fun k hk => bunchSa_other k hk st aw, rfl⟩, by decide, by decide +kernel, by decide +kernel,
    rfl, by decide, ⟨rfl, rfl, nullKeyed_of rfl rfl⟩, mapped_of ⟨0x3007F, 0, 32768⟩ (by decide +kernel), by decide, by decide +kernel, by decide, rfl, one_null _,
    by decide +kernel⟩
  · have : l = 0 := Classical.byContradiction fun h => by
      have := bunchIs_other l h
      rw [hl.1] at this
      cases this
    subst this
    decide +kernel
  all_goals rfl
/-- v6 without lane 0's copy, or with it poisoned; a flag mode. The group has a routine. -/
def bunchLt (live bad : Lanes) (fm : Word) : Bunch :=
  { bunchOf (these [(1, 0x3F800000), (2, 0x30800000)]) (fun _ => 0) with
    regs := (bunchOf (these [(1, 0x3F800000), (2, 0x30800000)]) (fun _ => 0)).regs.set 6 { live := live, rep := .compressed 6, bad := bad, access := 0 }
    threads := bunch1.threads.map fun t => { t with fmode := fm } }
def sLt (b : Bunch) : State := { put groupT b launch1 with tlb := ucFrames }
def hLt (b : Bunch) : Here := ⟨{ groupT with bunches := [b] }, b, launch1⟩
theorem frame_Lt (b : Bunch) (ht : b.threads[(0 : Fin 32)].inTrap = false)
    (hx : (sLt b).xlate loadCore 1 0x10000 .store = (sLt b, .ok ⟨0x40000, ucPte + 0x40000⟩)) : FrameReady (sLt b) (hLt b) 0 ⟨0x40000, ucPte + 0x40000⟩ :=
  ⟨(by decide : groupT.tra ≠ 0), ht, rfl, hx, (by decide : groupT.tfb.toNat + 0 < 2 ^ 64), by decide +kernel, plain_of rfl (one_null _) (by decide),
    notInL1_of rfl _, rfl, rfl, rfl, unlocked_of rfl _, fun _ h => absurd h List.not_mem_nil⟩
theorem incore_of (s : State) (h : Here) (hz : h.b.flights = []) (hr : ∀ r : Reg, h.b.regs[r].rep ≠ .spilled) (hf : h.b.full = 0) (o : Operands) (hd : o.dests.length ≤ 24) :
    s.InCore h o := by
  refine And.intro (fun r _ => inCore_of hz (hr r)) ?_
  have : Config.vectorFloor = 24 := rfl
  omega
theorem meets_LaneTraps : (∃ p, p ∈ binary32) ∧ (∃ p ∈ float32, ∃ m, (p.2 m 0x3F800000 0x30800000).exc ≠ 0)
    ∧ (∀ b, OneLane (sLt b) (hLt b) 0) ∧ FrameReady (sLt (bunchLt 0 0 0x500)) (hLt (bunchLt 0 0 0x500)) 0 ⟨0x40000, ucPte + 0x40000⟩
    ∧ FrameReady (sLt (bunchLt 1 0 0x7C)) (hLt (bunchLt 1 0 0x7C)) 0 ⟨0x40000, ucPte + 0x40000⟩
    ∧ ((sLt (bunchLt 0 0 0x500)).InCore (hLt (bunchLt 0 0 0x500)) (opsRRR 9 (vr 6) (vr 7) 1 1 1)
      ∧ (bunchLt 0 0 0x500).threads[(0 : Fin 32)].fmode.getLsbD 8 = true ∧ (bunchLt 0 0 0x500).isLive 6 (patLane .self 0) = false)
    ∧ ((sLt (bunchLt 1 0 0x7C)).LaneReady (hLt (bunchLt 1 0 0x7C)) (opsRRR 9 (vr 1) (vr 2) 1 1 1) noReads
      ∧ (bunchLt 1 0 0x7C).isLive 1 (patLane .self 0) = true ∧ (bunchLt 1 0 0x7C).isLive 2 (patLane .self 0) = true
      ∧ (bunchLt 1 0 0x7C).threads[(0 : Fin 32)].fmode.extractLsb' 2 5
          &&& ((float32.headD (.addF32, fun _ _ _ => ⟨0, 0⟩)).2 (modeOf (hLt (bunchLt 1 0 0x7C)) 0) (srcWord (vr 1) (bunchLt 1 0 0x7C) 0)
            (srcWord (vr 2) (bunchLt 1 0 0x7C) 0)).exc ≠ 0)
    ∧ ((sLt (bunchLt 1 1 0x400)).InCore (hLt (bunchLt 1 1 0x400)) (opsRRR 9 (vr 6) (vr 7) 1 1 1)
      ∧ (bunchLt 1 1 0x400).isLive 7 (patLane .self 0) = true ∧ (bunchLt 1 1 0x400).isBad 6 0 = true ∧ (hLt (bunchLt 1 1 0x400)).g.halted = none) := by
  refine ⟨⟨_, List.mem_cons_self⟩, ⟨_, List.mem_cons_self, .rne, by decide +kernel⟩, fun b => ⟨rfl, gids_of rfl, rfl, rfl⟩,
    frame_Lt _ (by decide +kernel) (by decide +kernel), frame_Lt _ (by decide +kernel) (by decide +kernel),
    ⟨incore_of _ _ rfl (by decide +kernel) (by decide +kernel) _ (by decide), by decide +kernel, by decide +kernel⟩,
    ⟨ready_of _ _ rfl rfl (by decide +kernel) (by decide +kernel) (by decide +kernel) (by decide +kernel) _ _ (by decide), by decide +kernel, by decide +kernel, by decide +kernel⟩,
    incore_of _ _ rfl (by decide +kernel) (by decide +kernel) _ (by decide), by decide +kernel, by decide +kernel, rfl⟩
/-- A run at the SETS word of a scalar register to s7; an event on the agenda; a cycle with nothing due. -/
def sStep : State := { one with
  fw := { one.fw with held := false }, mem := put32 (put32 [] 0x100 0x0C0C0A07) 0x104 0x251C0C00, issued := [⟨0, 0, 1, 0x100⟩] }
def onAgenda : State := { one with fw := { one.fw with held := false }, agenda := [{ row := .clockThrottle, a := 2 }] }
theorem meets_StepRunsDecoded :
    (Undisturbed sStep ∧ sStep.issued = [⟨0, 0, 1, 0x100⟩] ∧ sStep.hereOf 0 0 = some hOne ∧ hOne.g.left = false ∧ hOne.g.halted = none
      ∧ SequenceAt sStep loadCore 1 0x100 [0x0C0C0A07]
      ∧ Sys2Proof.decode [0x0C0C0A07] = .ok ⟨none, .mulloN32 3 ⟨5, false, .self⟩ ⟨7, false, .self⟩, 0, 1⟩
      ∧ (laneSet fun l => (1 : Lanes).getLsbD l.val && bunch1.threads[l].present && bunch1.threads[l].st == .running && bunch1.threads[l].await == .none
          && bunch1.threads[l].pc == 0x100) ≠ 0)
    ∧ (Undisturbed onAgenda ∧ onAgenda.issued = [] ∧ (∃ e, onAgenda.agenda = e :: [] ∧ e.row.isEvent = true ∧ e.row ≠ .issueCycle))
    ∧ (let s : State := { State.reset with fw := { State.reset.fw with held := false } }
      Undisturbed s ∧ s.issued = [] ∧ s.agenda = [] ∧ s.due = none ∧ s.bound = none)
    ∧ State.reset.fw.held = true ∧ State.reset.agenda = [] := by
  have hd : ∀ g ∈ [group1], g.left = true ∨ g.halted ≠ none ∨ g.dbg.toNat % 65536 = 0 ∨ (0 : Nat) < g.sampleDue := fun g hg =>
    .inr (.inr (.inl (List.mem_singleton.1 hg ▸ rfl)))
  refine ⟨⟨⟨rfl, hd⟩, rfl, rfl, rfl, rfl, ⟨fun k w hw => ?_, fun k hk => ?_⟩, by decide +kernel, by decide +kernel⟩,
    ⟨⟨rfl, hd⟩, rfl, _, rfl, by decide, by decide⟩, ⟨⟨rfl, fun _ h => absurd h List.not_mem_nil⟩, rfl, rfl, by decide +kernel, by decide +kernel⟩, rfl, rfl⟩
  · match k, hw with
    | 0, rfl => exact ⟨⟨0x100, loadPte⟩, mapped_of dirLeaf (by decide +kernel), by decide, clean_of rfl (one_null _) rfl (by decide), by decide +kernel⟩
  · match k, hk with
    | 0, _ => decide +kernel
theorem one_canonical : one.Canonical := by
  refine ⟨rfl, ?_, ?_, fun _ h => absurd h List.not_mem_nil, fun _ h => absurd h List.not_mem_nil, fun _ h => absurd h List.not_mem_nil⟩
  · exact (by decide +kernel : ∀ g ∈ one.groups, Memory.wf g.sp = true)
  · exact (by decide +kernel : ∀ l ∈ one.launches, ∀ w ∈ l.windows, Memory.wf w.bytes = true)
/-- A module that is out of reset meets the invariants, and steps. -/
theorem meets_StepKeepsCanonical : onAgenda.Canonical ∧ ∃ t, step onAgenda = .next t := ⟨one_canonical, _, rfl⟩
theorem meets_StepKeepsNumbers : Numbered onAgenda ∧ ∃ t, step onAgenda = .next t :=
  ⟨by unfold Numbered State.OneBlock; decide +kernel, _, rfl⟩
theorem meets_EncodingsDecode : (Instr.absF32 7 ⟨6, false, .self⟩).wellFormed = true ∧ (Instr.absF32 7 ⟨6, false, .self⟩).isEvent = false
    ∧ Sys2Proof.encode (.absF32 7 ⟨6, false, .self⟩) = some [0x251C0C00] ∧ 0x251C0C00 < 2 ^ 31 := by decide +kernel

end Sys2Proof.Tests
end

section
/-! Bit fields (R106): the mask of a field bit by bit, and from it the extracts and the insert as the spec computes them. -/

namespace Sys2Proof.Claims
open Sys2Proof.Machine

/-- A word given by its bits has those bits. -/
@[simp] theorem bits_getLsbD (f : Nat → Bool) {i : Nat} (hi : i < 32) : (bits f).getLsbD i = f i :=
  (BitVec.getLsbD_eq_getElem hi).trans (laneSet_getElem (fun l => f l.val) ⟨i, hi⟩)

/-! The model's position and length of a field are those of the statement. -/

theorem fieldPos_eq_position (b : Word) : fieldPos b = position b := rfl
theorem fieldLen_eq_length (b : Word) : fieldLen b = length b := rfl

/-- A field ends at bit 31 at the latest. -/
theorem position_add_length_le (b : Word) : position b + length b ≤ 32 := by
  have hp : position b < 32 := Nat.mod_lt _ (by decide)
  have hl : length b ≤ 32 - position b := Nat.min_le_right ..
  omega

theorem extract_lt (b a : Word) : extract b a < 2 ^ length b := Nat.mod_lt _ (Nat.two_pow_pos _)

/-- The bits of a mask are those from the field's position on, as many as it is long. -/
theorem fieldMask_getLsbD (b : Word) (i : Nat) :
    (fieldMask b).getLsbD i = decide (position b ≤ i ∧ i < position b + length b) := by
  have hend := position_add_length_le b
  rw [fieldMask, fieldPos_eq_position, fieldLen_eq_length, BitVec.getLsbD_ofNat, Nat.testBit_mul_two_pow, Nat.testBit_two_pow_sub_one, ← Bool.decide_and, ← Bool.decide_and]
  exact decide_eq_decide.2 (by omega)

theorem extract_testBit (b a : Word) (i : Nat) :
    (extract b a).testBit i = (decide (i < length b) && a.getLsbD (position b + i)) := by
  rw [extract, Nat.testBit_mod_two_pow, Nat.testBit_div_two_pow, BitVec.testBit_toNat, Nat.add_comm]

/-- The unsigned extract is the field's value: bit i of it is bit i of the field. -/
theorem bfxN_eq_extract (a b : Word) : bfxN a b = .ofNat 32 (extract b a) := by
  have hend := position_add_length_le b
  refine BitVec.eq_of_getLsbD_eq fun i hi => ?_
  have hmask : (fieldMask b).getLsbD (position b + i) = decide (i < length b) := by
    rw [fieldMask_getLsbD]
    exact decide_eq_decide.2 (by omega)
  calc (bfxN a b).getLsbD i
      = (a.getLsbD (position b + i) && (fieldMask b).getLsbD (position b + i)) := by
        rw [bfxN, fieldPos_eq_position, BitVec.getLsbD_ushiftRight, BitVec.getLsbD_and]
    _ = (BitVec.ofNat 32 (extract b a)).getLsbD i := by
        rw [hmask, BitVec.getLsbD_ofNat, extract_testBit, Bool.and_comm]; simp [hi]

/-- The top bit of a number of n bits says whether it reaches half of 2 ^ n. -/
theorem testBit_top_iff {x n : Nat} (hn : 0 < n) (hx : x < 2 ^ n) : x.testBit (n - 1) = true ↔ 2 ^ n ≤ 2 * x := by
  obtain ⟨m, rfl⟩ : ∃ m, n = m + 1 := ⟨n - 1, by omega⟩
  rw [Nat.add_sub_cancel, Nat.pow_succ] at *
  constructor
  · intro h
    have := Nat.ge_two_pow_of_testBit h
    omega
  · intro h
    exact Nat.testBit_of_two_pow_le_and_two_pow_add_one_gt (by omega) (by omega)

/-- Ones above a number of n bits take 2 ^ n from it. -/
theorem ofNat_or_not_mask {x n : Nat} (w : Nat) (hx : x < 2 ^ n) :
    BitVec.ofNat w x ||| ~~~ BitVec.ofNat w (2 ^ n - 1) = BitVec.ofInt w ((x : Int) - 2 ^ n) := by
  have hdisjoint : BitVec.ofNat w x &&& ~~~ BitVec.ofNat w (2 ^ n - 1) = 0 := by
    refine BitVec.eq_of_getLsbD_eq fun i hi => ?_
    rw [BitVec.getLsbD_and, BitVec.getLsbD_not, BitVec.getLsbD_ofNat, BitVec.getLsbD_ofNat, Nat.testBit_two_pow_sub_one]
    by_cases hin : i < n
    · simp [hi, hin]
    · have hxi : x.testBit i = false :=
        Nat.testBit_lt_two_pow (hx.trans_le (Nat.pow_le_pow_right (by decide) (by omega)))
      simp [hxi]
  have hnot : ~~~ BitVec.ofNat w (2 ^ n - 1) = BitVec.ofInt w (-2 ^ n) := by
    have hsucc : BitVec.ofNat w (2 ^ n - 1) + 1#w = BitVec.ofNat w (2 ^ n) := by
      rw [← BitVec.ofNat_add, Nat.sub_add_cancel (Nat.two_pow_pos n)]
    rw [BitVec.not_eq_neg_add, sub_eq_add_neg, ← neg_add, hsucc, BitVec.ofInt_neg, ← BitVec.ofInt_natCast]
    norm_cast
  rw [← BitVec.add_eq_or_of_and_eq_zero _ _ hdisjoint, hnot, ← BitVec.ofInt_natCast, ← BitVec.ofInt_add, ← sub_eq_add_neg]

/-- The signed extract is the field's value less 2 ^ length where the field's top bit is set; an empty field gives 0. -/
theorem bfxI_eq_extract (a b : Word) :
    bfxI a b = .ofInt 32 (if 2 ^ length b ≤ 2 * extract b a ∧ length b ≠ 0 then (extract b a : Int) - 2 ^ length b
      else extract b a) := by
  have hlt := extract_lt b a
  rw [bfxI, fieldLen_eq_length]
  by_cases hempty : length b = 0
  · have hzero : extract b a = 0 := by rw [hempty] at hlt; omega
    simp [hempty, hzero]
  · have hend := position_add_length_le b
    have hsign : (bfxN a b).getLsbD (length b - 1) = true ↔ 2 ^ length b ≤ 2 * extract b a := by
      rw [bfxN_eq_extract, BitVec.getLsbD_ofNat, ← testBit_top_iff (Nat.pos_of_ne_zero hempty) hlt]
      simp [show length b - 1 < 32 by omega]
    rw [if_neg hempty]
    by_cases hneg : 2 ^ length b ≤ 2 * extract b a
    · rw [if_pos (hsign.2 hneg), if_pos ⟨hneg, hempty⟩, bfxN_eq_extract, ofNat_or_not_mask 32 hlt]
    · rw [if_neg (mt hsign.1 hneg), if_neg (fun h => hneg h.1), bfxN_eq_extract, BitVec.ofInt_natCast]

/-- The insert takes the field's bits from the source, moved up to the field, and every other bit from the old value. -/
theorem bfi_eq_insert (old a b : Word) : bfi old a b = insert old a b := by
  refine BitVec.eq_of_getLsbD_eq fun i hi => ?_
  rw [insert, bits_getLsbD _ hi, bfi, fieldPos_eq_position, BitVec.getLsbD_or, BitVec.getLsbD_and, BitVec.getLsbD_and, BitVec.getLsbD_not,
    BitVec.getLsbD_shiftLeft, fieldMask_getLsbD]
  by_cases hin : position b ≤ i ∧ i < position b + length b <;> simp [hin, hi]

/-- BFI completes with its insert, the old value that of its destination at issue. -/
theorem bfiN32_done {s : State} {h : Here} (d : Reg) (a b : Src) (hr : s.LaneReady h (opsFma d a b) noReads) :
    LaneDone (.bfiN32 d a b) s h h.b (opsFma d a b) noReads noExc fun l =>
      [bfi (h.b.val d l) (srcWord a h.b l) (srcWord b h.b l)] :=
  word_done (f := fun x l => bfi (x.val d l) (srcWord a x l) (srcWord b x l)) rfl hr (by simp [opsFma]) (by simp)

/-- Settles O3: each form completes by the lemma of its shape, and its word function is the spec's formula. -/
theorem bitFieldResults : Obligations.BitFieldResults := by
  refine ⟨fun p hp s h d a b hr => ?_, fun s h d a b hr => ?_⟩
  · simp only [extracts, List.mem_cons, List.not_mem_nil, or_false] at hp
    obtain rfl | rfl := hp
    · simpa only [bfxN_eq_extract] using bin32_done (i := .bfxN32 d a b) (f := bfxN) rfl hr
    · simpa only [bfxI_eq_extract] using bin32_done (i := .bfxI32 d a b) (f := bfxI) rfl hr
  · simpa only [bfi_eq_insert] using bfiN32_done d a b hr

end Sys2Proof.Claims
end

section
/-! The scalar forms of the bunch set (R136, R137): for each operation, that the model's function is the spec's formula (sums, products
and shifts at every width); for each shape, that it acts once for the run; and from both the tables of R136. -/

namespace Sys2Proof.Claims
open Sys2Proof.Machine

/-! ### The model's operations as the spec's formulas (R104, R105, R136) -/

/-- A word with the bits of `f` is the one they give. -/
theorem eq_bits {w : Word} {f : Nat → Bool} (hw : ∀ i < 32, w.getLsbD i = f i) : w = bits f :=
  BitVec.eq_of_getLsbD_eq fun i hi => (hw i hi).trans (bits_getLsbD f hi).symm

theorem and_eq_bits (a b : Word) : a &&& b = bits fun i => a.getLsbD i && b.getLsbD i := eq_bits fun _ _ => BitVec.getLsbD_and
theorem or_eq_bits (a b : Word) : a ||| b = bits fun i => a.getLsbD i || b.getLsbD i := eq_bits fun _ _ => BitVec.getLsbD_or
theorem xor_eq_bits (a b : Word) : a ^^^ b = bits fun i => a.getLsbD i != b.getLsbD i :=
  eq_bits fun _ _ => BitVec.getLsbD_xor

theorem ofInt_toNat {w : Nat} (a : BitVec w) : BitVec.ofInt w a.toNat = a := by
  rw [BitVec.ofInt_natCast, BitVec.ofNat_toNat, BitVec.setWidth_eq]

theorem mul_eq_ofNat {w : Nat} (a b : BitVec w) : a * b = .ofNat w (a.toNat * b.toNat) := BitVec.eq_of_toNat_eq (by simp)
theorem sub_eq_ofInt {w : Nat} (a b : BitVec w) : a - b = .ofInt w ((a.toNat : Int) - b.toNat) := by
  rw [sub_eq_add_neg, sub_eq_add_neg, BitVec.ofInt_add, BitVec.ofInt_neg, ofInt_toNat, ofInt_toNat]

/-- An immediate that is sign-extended adds its signed value. -/
theorem add_signExtend (a : DWord) (imm : Word) : a + imm.signExtend 64 = .ofInt 64 (a.toNat + imm.toInt) := by
  rw [BitVec.ofInt_add, ofInt_toNat, BitVec.signExtend]

theorem shl_eq_shiftLeft {w : Nat} (a : BitVec w) (c : Word) : shl a c = .ofNat w (shiftLeft w a.toNat c.toNat) := by
  unfold shl shiftLeft
  split
  · rfl
  · refine BitVec.eq_of_toNat_eq ?_
    rw [BitVec.toNat_shiftLeft, Nat.shiftLeft_eq, BitVec.toNat_ofNat, Nat.mod_mod]

theorem shr_eq_shiftRight {w : Nat} (a : BitVec w) (c : Word) : shr a c = .ofNat w (shiftRight w a.toNat c.toNat) := by
  unfold shr shiftRight
  split
  · rfl
  · refine BitVec.eq_of_toNat_eq ?_
    rw [BitVec.toNat_ushiftRight, Nat.shiftRight_eq_div_pow, BitVec.toNat_ofNat,
      Nat.mod_eq_of_lt ((Nat.div_le_self ..).trans_lt a.isLt)]

theorem sar_eq_shiftArith {w : Nat} (a : BitVec w) (c : Word) : sar a c = .ofInt w (shiftArith w a.toInt c.toNat) := by
  unfold sar shiftArith
  split
  · rw [BitVec.msb_eq_toInt]
    by_cases hneg : a.toInt < 0
    · simp [hneg, BitVec.ofInt_neg, BitVec.neg_one_eq_allOnes]
    · simp [hneg]
  · rw [BitVec.sshiftRight, Int.shiftRight_eq_div_pow, Nat.cast_pow, Nat.cast_ofNat]

theorem minI_eq_min (a b : Word) : minI a b = .ofInt 32 (min a.toInt b.toInt) := by
  rw [minI, min_def, apply_ite (BitVec.ofInt 32), BitVec.ofInt_toInt, BitVec.ofInt_toInt]
theorem maxI_eq_max (a b : Word) : maxI a b = .ofInt 32 (max a.toInt b.toInt) := by
  rw [maxI, max_def, apply_ite (BitVec.ofInt 32), BitVec.ofInt_toInt, BitVec.ofInt_toInt]
theorem minN_eq_min (a b : Word) : minN a b = .ofNat 32 (min a.toNat b.toNat) := by
  simp only [minN, min_def, apply_ite (BitVec.ofNat 32), BitVec.ofNat_toNat, BitVec.setWidth_eq]
theorem maxN_eq_max (a b : Word) : maxN a b = .ofNat 32 (max a.toNat b.toNat) := by
  simp only [maxN, max_def, apply_ite (BitVec.ofNat 32), BitVec.ofNat_toNat, BitVec.setWidth_eq]

theorem flag_beq (a b : Word) : flag (a == b) = if a = b then 1 else 0 := by simp only [flag, beq_iff_eq]
theorem flag_slt (a b : Word) : flag (a.slt b) = if a.toInt < b.toInt then 1 else 0 := by
  simp only [flag, BitVec.slt_iff_toInt_lt]
theorem flag_ult (a b : Word) : flag (a.ult b) = if a.toNat < b.toNat then 1 else 0 := by
  simp only [flag, BitVec.ult_iff_toNat_lt]

/-- The words of a pair are its halves (R99). -/
theorem setSPair_eq_pairWritten (b : Bunch) (d : Reg) (x : DWord) : b.setSPair d x = pairWritten b d x := by
  have hlow : lowWord x = x.extractLsb' 0 32 := BitVec.setWidth_eq_extractLsb' (by decide)
  have hhigh : highWord x = x.extractLsb' 32 32 := by
    refine BitVec.eq_of_getLsbD_eq fun i hi => ?_
    simp [highWord, hi]
  rw [pairWritten, ← hlow, ← hhigh]
  rfl

/-- The target of BZ and BNZ is the immediate's word offset from their word (R39). -/
theorem immTarget_eq_targetOf (s : State) (imm : Word) : s.immTarget imm = targetOf s.cur.word imm.toInt := by
  rw [targetOf, BitVec.ofInt_add, ofInt_toNat, BitVec.ofInt_mul, State.immTarget, BitVec.shiftLeft_eq_mul_twoPow,
    BitVec.signExtend, mul_comm]
  rfl

/-! ### The shapes of the scalar forms -/

/-- A scalar form completes with the bunch it makes, and every thread of the run goes to the next instruction. -/
theorem bunchOp_done {i : Instr} {s : State} {h : Here} {f : Here → Bunch} (hi : exec i s = s.bunchOp f) (hh : s.here? = some h) :
    BunchDone i s h (f h) s.cur.next := by
  rw [BunchDone, hi, State.bunchOp, hh]
  rfl

theorem sbin_done {i : Instr} {s : State} {h : Here} {d a b : Reg} {f : Word → Word → Word} (hi : exec i s = s.sbin d a b f)
    (hh : s.here? = some h) : BunchDone i s h (scalarWritten h.b d (f h.b.sregs[a] h.b.sregs[b])) s.cur.next :=
  bunchOp_done hi hh
theorem sun_done {i : Instr} {s : State} {h : Here} {d a : Reg} {f : Word → Word} (hi : exec i s = s.sun d a f)
    (hh : s.here? = some h) : BunchDone i s h (scalarWritten h.b d (f h.b.sregs[a])) s.cur.next :=
  bunchOp_done hi hh
theorem spair_done {i : Instr} {s : State} {h : Here} {d : Reg} {f : Here → DWord}
    (hi : exec i s = s.bunchOp fun h => h.b.setSPair d (f h)) (hh : s.here? = some h) :
    BunchDone i s h (pairWritten h.b d (f h)) s.cur.next := by
  rw [← setSPair_eq_pairWritten]
  exact bunchOp_done hi hh

theorem bz_done {s : State} {h : Here} (a : Reg) (imm : Word) (hh : s.here? = some h) :
    BunchDone (.bz a imm) s h h.b (if h.b.sregs[a] = 0 then targetOf s.cur.word imm.toInt else s.cur.next) := by
  rw [← immTarget_eq_targetOf]
  change execBz a imm s = _
  rw [execBz, hh]
  rfl
theorem bnz_done {s : State} {h : Here} (a : Reg) (imm : Word) (hh : s.here? = some h) :
    BunchDone (.bnz a imm) s h h.b (if h.b.sregs[a] = 0 then s.cur.next else targetOf s.cur.word imm.toInt) := by
  rw [← immTarget_eq_targetOf]
  change execBnz a imm s = _
  rw [execBnz, hh]
  rfl

/-! ### The tables of R136: each form is an instance of its shape, and its function is the table's -/

theorem scalarForms_done {p : (Reg → Reg → Reg → Instr) × (Word → Word → Word)} (hp : p ∈ scalarForms) {s : State} {h : Here}
    (d a b : Reg) (hh : s.here? = some h) :
    BunchDone (p.1 d a b) s h (scalarWritten h.b d (p.2 h.b.sregs[a] h.b.sregs[b])) s.cur.next := by
  suffices hform : ∃ f : Word → Word → Word, exec (p.1 d a b) s = s.sbin d a b f ∧ ∀ x y, f x y = p.2 x y by
    obtain ⟨f, hexec, hvalue⟩ := hform
    rw [← hvalue]
    exact sbin_done hexec hh
  simp only [scalarForms, List.mem_cons, List.not_mem_nil, or_false] at hp
  obtain rfl | rfl | rfl | rfl | rfl | rfl | rfl | rfl | rfl | rfl | rfl | rfl | rfl | rfl | rfl | rfl := hp
  · exact ⟨(· + ·), rfl, BitVec.add_def⟩
  · exact ⟨(· - ·), rfl, sub_eq_ofInt⟩
  · exact ⟨(· * ·), rfl, mul_eq_ofNat⟩
  · exact ⟨(· &&& ·), rfl, and_eq_bits⟩
  · exact ⟨(· ||| ·), rfl, or_eq_bits⟩
  · exact ⟨(· ^^^ ·), rfl, xor_eq_bits⟩
  · exact ⟨shl, rfl, shl_eq_shiftLeft⟩
  · exact ⟨shr, rfl, shr_eq_shiftRight⟩
  · exact ⟨sar, rfl, sar_eq_shiftArith⟩
  · exact ⟨minI, rfl, minI_eq_min⟩
  · exact ⟨minN, rfl, minN_eq_min⟩
  · exact ⟨maxI, rfl, maxI_eq_max⟩
  · exact ⟨maxN, rfl, maxN_eq_max⟩
  · exact ⟨fun x y => flag (x == y), rfl, flag_beq⟩
  · exact ⟨fun x y => flag (x.slt y), rfl, flag_slt⟩
  · exact ⟨fun x y => flag (x.ult y), rfl, flag_ult⟩

theorem scalarImmediates_done {p : (Reg → Reg → Word → Instr) × (Word → Word → Word)} (hp : p ∈ scalarImmediates) {s : State} {h : Here}
    (d a : Reg) (imm : Word) (hh : s.here? = some h) :
    BunchDone (p.1 d a imm) s h (scalarWritten h.b d (p.2 h.b.sregs[a] imm)) s.cur.next := by
  suffices hform : ∃ f : Word → Word, exec (p.1 d a imm) s = s.sun d a f ∧ ∀ x, f x = p.2 x imm by
    obtain ⟨f, hexec, hvalue⟩ := hform
    rw [← hvalue]
    exact sun_done hexec hh
  simp only [scalarImmediates, List.mem_cons, List.not_mem_nil, or_false] at hp
  obtain rfl | rfl | rfl | rfl := hp
  · exact ⟨(· + imm), rfl, fun x => BitVec.add_def x imm⟩
  · exact ⟨(· &&& imm), rfl, fun x => and_eq_bits x imm⟩
  · exact ⟨(shl · imm), rfl, fun x => shl_eq_shiftLeft x imm⟩
  · exact ⟨(shr · imm), rfl, fun x => shr_eq_shiftRight x imm⟩

theorem scalarPairForms_done {p : (Reg → Reg → Reg → Instr) × (DWord → DWord → DWord)} (hp : p ∈ scalarPairForms) {s : State} {h : Here}
    (d a b : Reg) (hh : s.here? = some h) :
    BunchDone (p.1 d a b) s h (pairWritten h.b d (p.2 (scalarPair h.b a) (scalarPair h.b b))) s.cur.next := by
  suffices hform : ∃ f : DWord → DWord → DWord, exec (p.1 d a b) s = s.sbin64 d a b f ∧ ∀ x y, f x y = p.2 x y by
    obtain ⟨f, hexec, hvalue⟩ := hform
    rw [← hvalue]
    exact spair_done (f := fun h => f (h.b.spair a) (h.b.spair b)) hexec hh
  simp only [scalarPairForms, List.mem_cons, List.not_mem_nil, or_false] at hp
  obtain rfl | rfl := hp
  · exact ⟨(· + ·), rfl, BitVec.add_def⟩
  · exact ⟨(· - ·), rfl, sub_eq_ofInt⟩

theorem addN64BunchImm_done {s : State} {h : Here} (d a : Reg) (imm : Word) (hh : s.here? = some h) :
    BunchDone (.addN64BunchImm d a imm) s h (pairWritten h.b d (.ofInt 64 ((scalarPair h.b a).toNat + imm.toInt))) s.cur.next := by
  rw [← add_signExtend]
  exact spair_done (f := fun h => h.b.spair a + immSext imm) rfl hh

/-- Settles O13: the tables' forms complete by the lemma of their shape, each with the spec's value; the rules' words are decoded. -/
theorem scalarResults : Obligations.ScalarResults :=
  ⟨fun _ hp _ _ d a b hh => scalarForms_done hp d a b hh,
    fun _ hp _ _ d a imm hh => scalarImmediates_done hp d a imm hh,
    fun _ hp _ _ d a b hh => scalarPairForms_done hp d a b hh,
    fun _ _ d a imm hh => addN64BunchImm_done d a imm hh,
    fun _ _ d imm hh => bunchOp_done (f := fun h => h.b.setS d imm) rfl hh,
    fun _ _ hh => bunchOp_done (f := fun h => h.b) rfl hh,
    0, by decide,
    fun _ _ a imm hh => ⟨bz_done a imm hh, bnz_done a imm hh⟩,
    0, by decide⟩

end Sys2Proof.Claims
end
